-- ==== Sys2Proof/Word.lean ====
section
/-! DEFINITION. Words, addresses and sparse tables: the plainest types and arithmetic of the model. -/

namespace Sys2Proof

/-- A byte of memory. -/
abbrev Byte := BitVec 8
/-- A scalar register, a control register, a virtual address (R83, R376). -/
abbrev Word := BitVec 64
/-- An instruction word (R56). -/
abbrev IWord := BitVec 32
/-- One vector register, VLEN bits (R106). -/
abbrev VWord := BitVec 2048
/-- One mask register (R106); the same width serves fragment masks (R116). -/
abbrev MWord := BitVec 256
/-- One element of a vector register, zero-extended from its container (R27). -/
abbrev Elem := BitVec 64

/-- The number of a scalar register (R57). -/
abbrev SReg := BitVec 5
/-- The number of a vector register (R57). -/
abbrev VReg := BitVec 5
/-- The number of a mask register (R57). -/
abbrev MReg := BitVec 4
/-- The number of a polynomial register and of its degree descriptor (R160). -/
abbrev PReg := BitVec 4
/-- The number of an accumulator tile (R201). -/
abbrev ZReg := BitVec 2

/-- Options that a host can ask of its link and that the device does not support (R405). -/
inductive HostOption where
  | virtualFunctions | multiLogical | tenants | backInvalidate | ide | portRouting
  deriving DecidableEq, Repr

/-- What a host asks of its link as it trains: its width and the options (R405). -/
structure HostAsks where
  width : Nat
  options : List HostOption
  deriving DecidableEq, Repr

/-- A finite table by number: pairs with rising keys. What an unlisted key reads as is said where the table is used. -/
abbrev Tbl (α : Type) := List (Nat × α)

/-- The entry at key `k`, or `d` where none is listed. -/
def Tbl.get {α : Type} (t : Tbl α) (d : α) (k : Nat) : α :=
  match t with
  | [] => d
  | (j, a) :: r => if j = k then a else Tbl.get r d k

/-- The entry at key `k`, if listed. -/
def Tbl.find {α : Type} (t : Tbl α) (k : Nat) : Option α :=
  match t with
  | [] => none
  | (j, a) :: r => if j = k then some a else Tbl.find r k

/-- Put `a` at key `k`, keeping the keys in rising order. -/
def Tbl.put {α : Type} (t : Tbl α) (k : Nat) (a : α) : Tbl α :=
  match t with
  | [] => [(k, a)]
  | (j, b) :: r =>
    if k < j then (k, a) :: (j, b) :: r
    else if k = j then (k, a) :: r
    else (j, b) :: Tbl.put r k a

/-- Take key `k` out. -/
def Tbl.drop {α : Type} (t : Tbl α) (k : Nat) : Tbl α :=
  match t with
  | [] => []
  | (j, b) :: r => if j = k then r else (j, b) :: Tbl.drop r k

end Sys2Proof
end

