-- ==== Sys2Proof/Syntax.lean ====
section
/-! DEFINITION. The instructions of Choent version 2 and the steps of the device's other agents: one constructor per
row of spec/opcode_table.json, in the table's order. Operand fields stand as the word holds them (R56, R57); the steps
that no word names carry what their agent chooses. -/

namespace Sys2Proof

/-- One step of the machine: an instruction word's meaning, or an event of the table (95_what_each_step_holds). -/
inductive Instr where
  /-- `ADD` (R60, R91). -/
  | add (d : SReg) (a : SReg) (b : SReg)
  /-- `SUB` (R60, R91). -/
  | sub (d : SReg) (a : SReg) (b : SReg)
  /-- `MUL` (R60, R91). -/
  | mul (d : SReg) (a : SReg) (b : SReg)
  /-- `MULH` (R60, R91). -/
  | mulh (d : SReg) (a : SReg) (b : SReg)
  /-- `DIV` (R60, R91). -/
  | div (d : SReg) (a : SReg) (b : SReg)
  /-- `DIVU` (R60, R91). -/
  | divu (d : SReg) (a : SReg) (b : SReg)
  /-- `REM` (R60, R91). -/
  | rem (d : SReg) (a : SReg) (b : SReg)
  /-- `REMU` (R60, R91). -/
  | remu (d : SReg) (a : SReg) (b : SReg)
  /-- `AND` (R60, R91). -/
  | and (d : SReg) (a : SReg) (b : SReg)
  /-- `OR` (R60, R91). -/
  | or (d : SReg) (a : SReg) (b : SReg)
  /-- `XOR` (R60, R91). -/
  | xor (d : SReg) (a : SReg) (b : SReg)
  /-- `SHL` (R60, R91). -/
  | shl (d : SReg) (a : SReg) (b : SReg)
  /-- `SHR` (R60, R91). -/
  | shr (d : SReg) (a : SReg) (b : SReg)
  /-- `SRA` (R60, R91). -/
  | sra (d : SReg) (a : SReg) (b : SReg)
  /-- `SLT` (R60, R91). -/
  | slt (d : SReg) (a : SReg) (b : SReg)
  /-- `SLTU` (R60, R91). -/
  | sltu (d : SReg) (a : SReg) (b : SReg)
  /-- `MIN` (R60, R91). -/
  | min (d : SReg) (a : SReg) (b : SReg)
  /-- `MINU` (R60, R91). -/
  | minu (d : SReg) (a : SReg) (b : SReg)
  /-- `MAX` (R60, R91). -/
  | max (d : SReg) (a : SReg) (b : SReg)
  /-- `MAXU` (R60, R91). -/
  | maxu (d : SReg) (a : SReg) (b : SReg)
  /-- `CLZ` (R60, R91). -/
  | clz (d : SReg) (a : SReg)
  /-- `CTZ` (R60, R91). -/
  | ctz (d : SReg) (a : SReg)
  /-- `POPC` (R60, R91). -/
  | popc (d : SReg) (a : SReg)
  /-- `JALR` (R60, R98). -/
  | jalr (d : SReg) (a : SReg)
  /-- `SHLI` (R60, R91). -/
  | shli (d : SReg) (a : SReg) (k : BitVec 6)
  /-- `SHRI` (R60, R91). -/
  | shri (d : SReg) (a : SReg) (k : BitVec 6)
  /-- `SRAI` (R60, R91). -/
  | srai (d : SReg) (a : SReg) (k : BitVec 6)
  /-- `ADDI` (R61, R91). -/
  | addi (d : SReg) (a : SReg) (imm : BitVec 16)
  /-- `ANDI` (R61, R91). -/
  | andi (d : SReg) (a : SReg) (imm : BitVec 16)
  /-- `ORI` (R61, R91). -/
  | ori (d : SReg) (a : SReg) (imm : BitVec 16)
  /-- `XORI` (R61, R91). -/
  | xori (d : SReg) (a : SReg) (imm : BitVec 16)
  /-- `LIH` (R61, R93). -/
  | lih (d : SReg) (imm : BitVec 16) (h : BitVec 2)
  /-- `ADDPC` (R61, R93). -/
  | addpc (d : SReg) (imm : BitVec 16)
  /-- `LB` (R61, R94). -/
  | lb (d : SReg) (b : SReg) (off : BitVec 13)
  /-- `LH` (R61, R94). -/
  | lh (d : SReg) (b : SReg) (off : BitVec 13)
  /-- `LW` (R61, R94). -/
  | lw (d : SReg) (b : SReg) (off : BitVec 13)
  /-- `LD` (R61, R94). -/
  | ld (d : SReg) (b : SReg) (off : BitVec 13)
  /-- `LBU` (R61, R94). -/
  | lbu (d : SReg) (b : SReg) (off : BitVec 13)
  /-- `LHU` (R61, R94). -/
  | lhu (d : SReg) (b : SReg) (off : BitVec 13)
  /-- `LWU` (R61, R94). -/
  | lwu (d : SReg) (b : SReg) (off : BitVec 13)
  /-- `SB` (R61, R94). -/
  | sb (x : SReg) (b : SReg) (off : BitVec 13)
  /-- `SH` (R61, R94). -/
  | sh (x : SReg) (b : SReg) (off : BitVec 13)
  /-- `SW` (R61, R94). -/
  | sw (x : SReg) (b : SReg) (off : BitVec 13)
  /-- `SD` (R61, R94). -/
  | sd (x : SReg) (b : SReg) (off : BitVec 13)
  /-- `BEQ` (R62, R97). -/
  | beq (a : SReg) (b : SReg) (off : BitVec 16)
  /-- `BNE` (R62, R97). -/
  | bne (a : SReg) (b : SReg) (off : BitVec 16)
  /-- `BLT` (R62, R97). -/
  | blt (a : SReg) (b : SReg) (off : BitVec 16)
  /-- `BGE` (R62, R97). -/
  | bge (a : SReg) (b : SReg) (off : BitVec 16)
  /-- `BLTU` (R62, R97). -/
  | bltu (a : SReg) (b : SReg) (off : BitVec 16)
  /-- `BGEU` (R62, R97). -/
  | bgeu (a : SReg) (b : SReg) (off : BitVec 16)
  /-- `JAL` (R62, R98). -/
  | jal (d : SReg) (off : BitVec 21)
  /-- `FADD` (R63, R99). -/
  | fadd (d : SReg) (a : SReg) (b : SReg) (rm : BitVec 3) (prec : BitVec 1)
  /-- `FSUB` (R63, R99). -/
  | fsub (d : SReg) (a : SReg) (b : SReg) (rm : BitVec 3) (prec : BitVec 1)
  /-- `FMUL` (R63, R99). -/
  | fmul (d : SReg) (a : SReg) (b : SReg) (rm : BitVec 3) (prec : BitVec 1)
  /-- `FDIV` (R63, R99). -/
  | fdiv (d : SReg) (a : SReg) (b : SReg) (rm : BitVec 3) (prec : BitVec 1)
  /-- `FSQRT` (R63, R99). -/
  | fsqrt (d : SReg) (a : SReg) (rm : BitVec 3) (prec : BitVec 1)
  /-- `FMIN` (R63, R99). -/
  | fmin (d : SReg) (a : SReg) (b : SReg) (prec : BitVec 1)
  /-- `FMAX` (R63, R99). -/
  | fmax (d : SReg) (a : SReg) (b : SReg) (prec : BitVec 1)
  /-- `FNEG` (R63, R99). -/
  | fneg (d : SReg) (a : SReg) (prec : BitVec 1)
  /-- `FABS` (R63, R99). -/
  | fabs (d : SReg) (a : SReg) (prec : BitVec 1)
  /-- `FEQ` (R63, R99). -/
  | feq (d : SReg) (a : SReg) (b : SReg) (prec : BitVec 1)
  /-- `FLT` (R63, R99). -/
  | flt (d : SReg) (a : SReg) (b : SReg) (prec : BitVec 1)
  /-- `FLE` (R63, R99). -/
  | fle (d : SReg) (a : SReg) (b : SReg) (prec : BitVec 1)
  /-- `FMADD` (R63, R99). -/
  | fmadd (a : SReg) (b : SReg) (c : SReg) (rm : BitVec 3) (prec : BitVec 1)
  /-- `FMSUB` (R63, R99). -/
  | fmsub (a : SReg) (b : SReg) (c : SReg) (rm : BitVec 3) (prec : BitVec 1)
  /-- `FCVT` (R63, R99). -/
  | fcvt (d : SReg) (a : SReg) (rm : BitVec 3) (dst : BitVec 4) (src : BitVec 4)
  /-- `CRR` (R64, R88). -/
  | crr (d : SReg) (n : BitVec 12)
  /-- `CRW` (R64, R88). -/
  | crw (d : SReg) (a : SReg) (n : BitVec 12)
  /-- `CRS` (R64, R88). -/
  | crs (d : SReg) (a : SReg) (n : BitVec 12)
  /-- `CRC` (R64, R88). -/
  | crc (d : SReg) (a : SReg) (n : BitVec 12)
  /-- `RETT` (R102). -/
  | rett
  /-- `IDLE` (R104). -/
  | idle
  /-- `SAVEPIN` (R361). -/
  | savepin (b : SReg) (l : SReg)
  /-- `ASINV` (R387). -/
  | asinv (a : SReg) (v : SReg)
  /-- `PGPROBE` (R388). -/
  | pgprobe (d : SReg) (a : SReg)
  /-- `TIMETBL` (R392). -/
  | timetbl (d : SReg)
  /-- `RCWAIT` (R393). -/
  | rcwait
  /-- `TRAP` (R103). -/
  | trap (code : BitVec 16)
  /-- `FENCE_HART` (R257). -/
  | fenceHart
  /-- `FENCE_CORE` (R257). -/
  | fenceCore
  /-- `FENCE_CLUSTER` (R257). -/
  | fenceCluster
  /-- `FENCE_QUARTER` (R257). -/
  | fenceQuarter
  /-- `FENCE_DEVICE` (R257). -/
  | fenceDevice
  /-- `FENCE_SYSTEM` (R257). -/
  | fenceSystem
  /-- `FENCE_SV` (R258). -/
  | fenceSv
  /-- `FENCE_VS` (R258). -/
  | fenceVs
  /-- `FENCEP` (R66, R263). -/
  | fencep (p : BitVec 3) (q : BitVec 3)
  /-- `WMSET` (R267). -/
  | wmset (n : BitVec 3) (a : SReg)
  /-- `AMO_ADD` (R67, R326). -/
  | amoAdd (d : SReg) (a : SReg) (b : SReg) (aq : BitVec 1) (rl : BitVec 1)
  /-- `AMO_MIN` (R67, R326). -/
  | amoMin (d : SReg) (a : SReg) (b : SReg) (aq : BitVec 1) (rl : BitVec 1)
  /-- `AMO_MAX` (R67, R326). -/
  | amoMax (d : SReg) (a : SReg) (b : SReg) (aq : BitVec 1) (rl : BitVec 1)
  /-- `AMO_AND` (R67, R326). -/
  | amoAnd (d : SReg) (a : SReg) (b : SReg) (aq : BitVec 1) (rl : BitVec 1)
  /-- `AMO_OR` (R67, R326). -/
  | amoOr (d : SReg) (a : SReg) (b : SReg) (aq : BitVec 1) (rl : BitVec 1)
  /-- `AMO_XOR` (R67, R326). -/
  | amoXor (d : SReg) (a : SReg) (b : SReg) (aq : BitVec 1) (rl : BitVec 1)
  /-- `AMO_SWAP` (R67, R326). -/
  | amoSwap (d : SReg) (a : SReg) (b : SReg) (aq : BitVec 1) (rl : BitVec 1)
  /-- `CAS` (R67, R326). -/
  | cas (d : SReg) (a : SReg) (b : SReg) (aq : BitVec 1) (rl : BitVec 1)
  /-- `BINIT` (R323). -/
  | binit (a : SReg) (n : SReg)
  /-- `BARRIVE` (R323). -/
  | barrive (a : SReg) (mk : MReg)
  /-- `BWAIT` (R323). -/
  | bwait (d : SReg) (a : SReg)
  /-- `SLATE` (R331). -/
  | slate (i : SReg) (b : SReg) (l : SReg)
  /-- `SMERGE` (R333). -/
  | smerge (i : SReg)
  /-- `LKDECL` (R342). -/
  | lkdecl (i : SReg) (b : SReg) (l : SReg)
  /-- `LKSTAT` (R355). -/
  | lkstat (d : SReg)
  /-- `LKSEN` (R344). -/
  | lksen (d : SReg)
  /-- `VAMO_ADD` (R69, R328). -/
  | vamoAdd (vd : VReg) (b : SReg) (vi : VReg) (mk : MReg) (aq : BitVec 1) (rl : BitVec 1)
  /-- `VAMO_MIN` (R69, R328). -/
  | vamoMin (vd : VReg) (b : SReg) (vi : VReg) (mk : MReg) (aq : BitVec 1) (rl : BitVec 1)
  /-- `VAMO_MAX` (R69, R328). -/
  | vamoMax (vd : VReg) (b : SReg) (vi : VReg) (mk : MReg) (aq : BitVec 1) (rl : BitVec 1)
  /-- `VAMO_AND` (R69, R328). -/
  | vamoAnd (vd : VReg) (b : SReg) (vi : VReg) (mk : MReg) (aq : BitVec 1) (rl : BitVec 1)
  /-- `VAMO_OR` (R69, R328). -/
  | vamoOr (vd : VReg) (b : SReg) (vi : VReg) (mk : MReg) (aq : BitVec 1) (rl : BitVec 1)
  /-- `VAMO_XOR` (R69, R328). -/
  | vamoXor (vd : VReg) (b : SReg) (vi : VReg) (mk : MReg) (aq : BitVec 1) (rl : BitVec 1)
  /-- `VAMO_SWAP` (R69, R328). -/
  | vamoSwap (vd : VReg) (b : SReg) (vi : VReg) (mk : MReg) (aq : BitVec 1) (rl : BitVec 1)
  /-- `VAMO_CAS` (R69, R328). -/
  | vamoCas (vd : VReg) (b : SReg) (vi : VReg) (mk : MReg) (aq : BitVec 1) (rl : BitVec 1)
  /-- `VWAIT_EQ` (R69, R329). -/
  | vwaitEq (vs : VReg) (b : SReg) (vi : VReg) (mk : MReg)
  /-- `VWAIT_NE` (R69, R329). -/
  | vwaitNe (vs : VReg) (b : SReg) (vi : VReg) (mk : MReg)
  /-- `VWAIT_LT` (R69, R329). -/
  | vwaitLt (vs : VReg) (b : SReg) (vi : VReg) (mk : MReg)
  /-- `VWAIT_GE` (R69, R329). -/
  | vwaitGe (vs : VReg) (b : SReg) (vi : VReg) (mk : MReg)
  /-- `VWAIT_LTU` (R69, R329). -/
  | vwaitLtu (vs : VReg) (b : SReg) (vi : VReg) (mk : MReg)
  /-- `VWAIT_GEU` (R69, R329). -/
  | vwaitGeu (vs : VReg) (b : SReg) (vi : VReg) (mk : MReg)
  /-- `SLADD` (R69, R332). -/
  | sladd (vs : VReg) (i : SReg) (vx : VReg) (mk : MReg)
  /-- `SLMIN` (R69, R332). -/
  | slmin (vs : VReg) (i : SReg) (vx : VReg) (mk : MReg)
  /-- `SLMAX` (R69, R332). -/
  | slmax (vs : VReg) (i : SReg) (vx : VReg) (mk : MReg)
  /-- `LAUNCH` (R308). -/
  | launch (d : SReg) (desc : SReg) (q : SReg)
  /-- `GNODE` (R311). -/
  | gnode (d : SReg) (desc : SReg)
  /-- `QSTATE` (R300). -/
  | qstate (d : SReg) (q : SReg)
  /-- `STRPUSH` (R292). -/
  | strpush (d : SReg) (st : SReg) (x : SReg)
  /-- `STRPOP` (R292). -/
  | strpop (d : SReg) (st : SReg)
  /-- `HGIVE` (R295). -/
  | hgive (tb : BitVec 6) (g : SReg)
  /-- `HTAKE` (R295). -/
  | htake (d : SReg) (tb : BitVec 6)
  /-- `CPY` (R231). -/
  | cpy (a : SReg) (b : SReg) (c : SReg)
  /-- `CPYW` (R232). -/
  | cpyw (a : SReg) (b : SReg) (c : SReg) (src : BitVec 4) (dst : BitVec 4)
  /-- `PACK` (R234). -/
  | pack (a : SReg) (b : SReg) (c : SReg)
  /-- `UNPACK` (R235). -/
  | unpack (a : SReg) (b : SReg) (c : SReg)
  /-- `CPWAIT` (R237). -/
  | cpwait (a : SReg)
  /-- `VADD` (R72, R122). -/
  | vadd (vd : VReg) (va : VReg) (vb : VReg) (mk : MReg) (dt : BitVec 1) (xm : BitVec 2)
  /-- `VSUB` (R72, R122). -/
  | vsub (vd : VReg) (va : VReg) (vb : VReg) (mk : MReg) (dt : BitVec 1) (xm : BitVec 2)
  /-- `VMUL` (R72, R122). -/
  | vmul (vd : VReg) (va : VReg) (vb : VReg) (mk : MReg) (dt : BitVec 1) (xm : BitVec 2)
  /-- `VDIV` (R72, R122). -/
  | vdiv (vd : VReg) (va : VReg) (vb : VReg) (mk : MReg) (dt : BitVec 1) (xm : BitVec 2)
  /-- `VMIN` (R72, R122). -/
  | vmin (vd : VReg) (va : VReg) (vb : VReg) (mk : MReg) (dt : BitVec 1) (xm : BitVec 2)
  /-- `VMAX` (R72, R122). -/
  | vmax (vd : VReg) (va : VReg) (vb : VReg) (mk : MReg) (dt : BitVec 1) (xm : BitVec 2)
  /-- `VAND` (R72, R125). -/
  | vand (vd : VReg) (va : VReg) (vb : VReg) (mk : MReg) (dt : BitVec 1)
  /-- `VOR` (R72, R125). -/
  | vor (vd : VReg) (va : VReg) (vb : VReg) (mk : MReg) (dt : BitVec 1)
  /-- `VXOR` (R72, R125). -/
  | vxor (vd : VReg) (va : VReg) (vb : VReg) (mk : MReg) (dt : BitVec 1)
  /-- `VSHL` (R72, R125). -/
  | vshl (vd : VReg) (va : VReg) (vb : VReg) (mk : MReg) (dt : BitVec 1)
  /-- `VSHR` (R72, R125). -/
  | vshr (vd : VReg) (va : VReg) (vb : VReg) (mk : MReg) (dt : BitVec 1)
  /-- `VSRA` (R72, R125). -/
  | vsra (vd : VReg) (va : VReg) (vb : VReg) (mk : MReg) (dt : BitVec 1)
  /-- `VMADD` (R72, R122). -/
  | vmadd (vd : VReg) (va : VReg) (vb : VReg) (mk : MReg) (dt : BitVec 1) (xm : BitVec 2)
  /-- `VSCALE` (R72, R124). -/
  | vscale (vd : VReg) (va : VReg) (vb : VReg) (mk : MReg) (dt : BitVec 1) (xm : BitVec 2)
  /-- `VSQRT` (R126). -/
  | vsqrt (vd : VReg) (va : VReg) (mk : MReg) (dt : BitVec 1) (xm : BitVec 2)
  /-- `VABS` (R126). -/
  | vabs (vd : VReg) (va : VReg) (mk : MReg) (dt : BitVec 1)
  /-- `VNEG` (R126). -/
  | vneg (vd : VReg) (va : VReg) (mk : MReg) (dt : BitVec 1)
  /-- `VPOPC` (R126). -/
  | vpopc (vd : VReg) (va : VReg) (mk : MReg) (dt : BitVec 1)
  /-- `VMV` (R126). -/
  | vmv (vd : VReg) (va : VReg) (mk : MReg) (dt : BitVec 1)
  /-- `VID` (R126). -/
  | vid (vd : VReg) (mk : MReg) (dt : BitVec 1)
  /-- `VCMP_EQ` (R127). -/
  | vcmpEq (md : MReg) (va : VReg) (vb : VReg) (mk : MReg) (dt : BitVec 1) (xm : BitVec 2)
  /-- `VCMP_NE` (R127). -/
  | vcmpNe (md : MReg) (va : VReg) (vb : VReg) (mk : MReg) (dt : BitVec 1) (xm : BitVec 2)
  /-- `VCMP_LT` (R127). -/
  | vcmpLt (md : MReg) (va : VReg) (vb : VReg) (mk : MReg) (dt : BitVec 1) (xm : BitVec 2)
  /-- `VCMP_LE` (R127). -/
  | vcmpLe (md : MReg) (va : VReg) (vb : VReg) (mk : MReg) (dt : BitVec 1) (xm : BitVec 2)
  /-- `VCMP_GT` (R127). -/
  | vcmpGt (md : MReg) (va : VReg) (vb : VReg) (mk : MReg) (dt : BitVec 1) (xm : BitVec 2)
  /-- `VCMP_GE` (R127). -/
  | vcmpGe (md : MReg) (va : VReg) (vb : VReg) (mk : MReg) (dt : BitVec 1) (xm : BitVec 2)
  /-- `VCMP_LTU` (R127). -/
  | vcmpLtu (md : MReg) (va : VReg) (vb : VReg) (mk : MReg) (dt : BitVec 1) (xm : BitVec 2)
  /-- `VCMP_LEU` (R127). -/
  | vcmpLeu (md : MReg) (va : VReg) (vb : VReg) (mk : MReg) (dt : BitVec 1) (xm : BitVec 2)
  /-- `VCMP_GTU` (R127). -/
  | vcmpGtu (md : MReg) (va : VReg) (vb : VReg) (mk : MReg) (dt : BitVec 1) (xm : BitVec 2)
  /-- `VCMP_GEU` (R127). -/
  | vcmpGeu (md : MReg) (va : VReg) (vb : VReg) (mk : MReg) (dt : BitVec 1) (xm : BitVec 2)
  /-- `MAND` (R128). -/
  | mand (md : MReg) (ma : MReg) (mb : MReg)
  /-- `MOR` (R128). -/
  | mor (md : MReg) (ma : MReg) (mb : MReg)
  /-- `MXOR` (R128). -/
  | mxor (md : MReg) (ma : MReg) (mb : MReg)
  /-- `MNOT` (R128). -/
  | mnot (md : MReg) (ma : MReg)
  /-- `MPOPC` (R129). -/
  | mpopc (d : SReg) (ma : MReg)
  /-- `MFIRST` (R129). -/
  | mfirst (d : SReg) (ma : MReg)
  /-- `VMERGE` (R130). -/
  | vmerge (vd : VReg) (va : VReg) (vb : VReg) (mk : MReg)
  /-- `VNZIDX` (R131). -/
  | vnzidx (vd : VReg) (va : VReg) (c : SReg) (mk : MReg)
  /-- `VBCAST` (R132). -/
  | vbcast (vd : VReg) (a : SReg) (mk : MReg)
  /-- `VSLIDE` (R132). -/
  | vslide (vd : VReg) (va : VReg) (o : SReg) (mk : MReg)
  /-- `VPERM` (R132). -/
  | vperm (vd : VReg) (va : VReg) (vi : VReg) (mk : MReg)
  /-- `VREDSUM` (R133). -/
  | vredsum (d : SReg) (va : VReg) (mk : MReg) (dt : BitVec 1) (xm : BitVec 2)
  /-- `VREDMIN` (R133). -/
  | vredmin (d : SReg) (va : VReg) (mk : MReg) (dt : BitVec 1)
  /-- `VREDMAX` (R133). -/
  | vredmax (d : SReg) (va : VReg) (mk : MReg) (dt : BitVec 1)
  /-- `VREDMINI` (R134). -/
  | vredmini (d : SReg) (va : VReg) (i : SReg) (mk : MReg) (dt : BitVec 1)
  /-- `VCVT` (R73, R135). -/
  | vcvt (vd : VReg) (va : VReg) (mk : MReg) (rm : BitVec 3) (src : BitVec 4) (dt : BitVec 1) (xm : BitVec 2)
  /-- `VLD` (R137). -/
  | vld (vd : VReg) (b : SReg) (mk : MReg)
  /-- `VLDS` (R137). -/
  | vlds (vd : VReg) (b : SReg) (t : SReg) (mk : MReg)
  /-- `VLDX` (R137, R147). -/
  | vldx (vd : VReg) (b : SReg) (vi : VReg) (mk : MReg)
  /-- `VLDFF` (R137, R148). -/
  | vldff (vd : VReg) (b : SReg) (mk : MReg)
  /-- `VST` (R137). -/
  | vst (vs : VReg) (b : SReg) (mk : MReg)
  /-- `VSTS` (R137). -/
  | vsts (vs : VReg) (b : SReg) (t : SReg) (mk : MReg)
  /-- `VSTX` (R137, R147). -/
  | vstx (vs : VReg) (b : SReg) (vi : VReg) (mk : MReg)
  /-- `VSTXU` (R137, R147). -/
  | vstxu (vs : VReg) (b : SReg) (vi : VReg) (mk : MReg)
  /-- `SATLD` (R150). -/
  | satld (vd : VReg) (b : SReg) (vi : VReg) (mk : MReg)
  /-- `SATST` (R150). -/
  | satst (vs : VReg) (b : SReg) (vi : VReg) (mk : MReg)
  /-- `VSPILL` (R153). -/
  | vspill (vs : VReg) (b : SReg)
  /-- `VFILL` (R154). -/
  | vfill (vd : VReg) (b : SReg)
  /-- `SETVL` (R109). -/
  | setvl (d : SReg) (a : SReg)
  /-- `VCFG` (R108). -/
  | vcfg (fmt : BitVec 4) (span : BitVec 2) (klen : BitVec 7)
  /-- `VBLK` (R114). -/
  | vblk (off : BitVec 14)
  /-- `VLOOP` (R115). -/
  | vloop (a : SReg) (off : BitVec 14)
  /-- `VB` (R117). -/
  | vb (mk : MReg) (off : BitVec 16)
  /-- `VSTOP` (R118). -/
  | vstop
  /-- `PSETD` (R163). -/
  | psetd (dd : PReg) (a : SReg)
  /-- `PSETVL` (R164). -/
  | psetvl (g : SReg) (dd : PReg)
  /-- `PLD` (R184). -/
  | pld (pd : PReg) (b : SReg)
  /-- `PST` (R184). -/
  | pst (pa : PReg) (b : SReg)
  /-- `PADD` (R170). -/
  | padd (pd : PReg) (pa : PReg) (pb : PReg) (mk : MReg)
  /-- `PSUB` (R170). -/
  | psub (pd : PReg) (pa : PReg) (pb : PReg) (mk : MReg)
  /-- `PMUL` (R171). -/
  | pmul (pd : PReg) (pa : PReg) (pb : PReg) (mk : MReg)
  /-- `PMULC` (R172). -/
  | pmulc (pd : PReg) (pa : PReg) (pb : PReg) (mk : MReg)
  /-- `PSCAL` (R170). -/
  | pscal (pd : PReg) (pa : PReg) (vs : VReg) (mk : MReg)
  /-- `PDIFF` (R174). -/
  | pdiff (pd : PReg) (pa : PReg) (dir : BitVec 1) (mk : MReg)
  /-- `PINT` (R175). -/
  | pint (pd : PReg) (pa : PReg) (dir : BitVec 1) (mk : MReg)
  /-- `PINTD` (R176). -/
  | pintd (vd : VReg) (pa : PReg) (mk : MReg)
  /-- `PPROJ` (R177). -/
  | pproj (pd : PReg) (pa : PReg) (deg : BitVec 4) (mk : MReg)
  /-- `PLIFT` (R177). -/
  | plift (pd : PReg) (pa : PReg) (deg : BitVec 4) (mk : MReg)
  /-- `PTRACE` (R178). -/
  | ptrace (pd : PReg) (vd : VReg) (pa : PReg) (face : BitVec 2) (mk : MReg)
  /-- `PFACE_AVG` (R179). -/
  | pfaceAvg (pd : PReg) (pa : PReg) (pb : PReg) (mk : MReg)
  /-- `PFACE_JUMP` (R179). -/
  | pfaceJump (pd : PReg) (pa : PReg) (pb : PReg) (mk : MReg)
  /-- `PFACE_UP` (R179). -/
  | pfaceUp (pd : PReg) (pa : PReg) (pb : PReg) (vu : VReg) (mk : MReg)
  /-- `PEVAL` (R180). -/
  | peval (vd : VReg) (pa : PReg) (mk : MReg)
  /-- `PEVALB` (R181). -/
  | pevalb (vd : VReg) (pa : PReg) (mk : MReg)
  /-- `PEVALX` (R181). -/
  | pevalx (vd : VReg) (pa : PReg) (mk : MReg)
  /-- `PFIT` (R182). -/
  | pfit (pd : PReg) (pa : PReg) (mk : MReg)
  /-- `PNODE` (R182). -/
  | pnode (pd : PReg) (pa : PReg) (mk : MReg)
  /-- `PCONV` (R183). -/
  | pconv (pd : PReg) (pa : PReg) (basis : BitVec 1) (mk : MReg)
  /-- `MMA` (R206). -/
  | mma (zd : ZReg) (vs : VReg) (mk : MReg) (afmt : BitVec 4) (twin : BitVec 1)
  /-- `MOPA` (R209). -/
  | mopa (zd : ZReg) (va : VReg) (vb : VReg) (mk : MReg) (afmt : BitVec 4)
  /-- `ZCLR` (R210). -/
  | zclr (zd : ZReg)
  /-- `ZRD` (R210). -/
  | zrd (vd : VReg) (zs : ZReg) (r : SReg)
  /-- `ZWR` (R210). -/
  | zwr (zd : ZReg) (vs : VReg) (r : SReg)
  /-- `ZCVT` (R210). -/
  | zcvt (vd : VReg) (zs : ZReg) (r : SReg) (afmt : BitVec 4)
  /-- `WLOAD` (R202). -/
  | wload (o : SReg) (sc : SReg) (afmt : BitVec 4)
  /-- `WSWAP` (R203). -/
  | wswap
  /-- `TGEMM` (R211). -/
  | tgemm (zd : ZReg) (dsc : SReg) (afmt : BitVec 4) (twin : BitVec 1)
  /-- `TALLOC` (R196). -/
  | talloc (d : SReg) (tb : BitVec 6) (sz : SReg)
  /-- `TFREE` (R196). -/
  | tfree (tb : BitVec 6)
  /-- `TSTATE` (R196). -/
  | tstate (d : SReg) (tb : BitVec 6)
  /-- `LSEND` (R410). -/
  | lsend (d : SReg) (pt : SReg) (a : SReg) (cls : BitVec 1)
  /-- `LPOLL` (R410). -/
  | lpoll (d : SReg) (a : SReg) (cls : BitVec 1)
  /-- `NOP` (R105). -/
  | nop
  /-- `HINT` (R80). -/
  | hint (h : BitVec 26)
  /-- `HOST_FAULT_ANSWER` (R385). -/
  | hostFaultAnswer (ticket : Nat) (retry : Bool)
  /-- `PAGE_WALK_COMPLETE` (R384). -/
  | pageWalkComplete (quarter : Nat) (asid : Nat) (va : Word)
  /-- `HOST_INVALIDATE` (R387). -/
  | hostInvalidate (a : Word) (va : Word)
  /-- `HOST_MEM_ACCESS` (R406). -/
  | hostMemAccess (offset : Nat) (len : Nat) (data : Option (List Byte))
  /-- `REGION_DECLARE` (R241). -/
  | regionDeclare (base : Nat) (size : Nat) (declare : Bool)
  /-- `WRITE_APPLY` (R255). -/
  | writeApply (index : Nat) (view : Nat)
  /-- `LOAD_PERFORMED` (R251). -/
  | loadPerformed (slot : Nat)
  /-- `ATOMIC_AT_HOME` (R260). -/
  | atomicAtHome (slot : Nat)
  /-- `WATERMARK_STALL_END` (R269). -/
  | watermarkStallEnd (slot : Nat)
  /-- `GUARD_WINDOW_RELEASE` (R302). -/
  | guardWindowRelease (slot : Nat)
  /-- `COPY_COMMAND_START` (R228). -/
  | copyCommandStart (cluster : Nat) (seq : Nat)
  /-- `COPY_COMMAND_COMPLETE` (R237). -/
  | copyCommandComplete (cluster : Nat) (seq : Nat)
  /-- `TILE_WRITER_ACCEPT` (R193). -/
  | tileWriterAccept (cluster : Nat) (seq : Nat)
  /-- `TGEMM_STEP` (R212). -/
  | tgemmStep (slot : Nat)
  /-- `ARRAY_ACQUIRE` (R200). -/
  | arrayAcquire (slot : Nat)
  /-- `TWIN_PAIRING` (R215). -/
  | twinPairing (slot : Nat)
  /-- `PAIRING_TIMEOUT` (R215). -/
  | pairingTimeout (slot : Nat)
  /-- `DECODE_TABLE_RELOAD` (R246). -/
  | decodeTableReload (cluster : Nat) (seq : Nat)
  /-- `STRAND_WAIT_END` (R293). -/
  | strandWaitEnd (slot : Nat)
  /-- `WOUND_DELIVERY` (R347). -/
  | woundDelivery (slot : Nat)
  /-- `LOCKET_COMMIT` (R350). -/
  | locketCommit (slot : Nat)
  /-- `BECOME_IRREVOCABLE` (R351). -/
  | becomeIrrevocable (slot : Nat)
  /-- `TEAM_START` (R276). -/
  | teamStart (group : Nat) (place : Nat)
  /-- `KERNEL_LOAD` (R286). -/
  | kernelLoad (asid : Nat) (rec : Word)
  /-- `KERNEL_RETIRE` (R285). -/
  | kernelRetire (asid : Nat) (rec : Word)
  /-- `QUEUE_ENABLE` (R299). -/
  | queueEnable (q : Nat) (asid : Nat) (prio : Nat) (guarded : Bool) (cap : Nat)
  /-- `QUEUE_DISABLE` (R299). -/
  | queueDisable (q : Nat)
  /-- `QUEUE_RESET` (R299). -/
  | queueReset (q : Nat)
  /-- `QUEUE_RESUME` (R299). -/
  | queueResume (q : Nat)
  /-- `HOST_RING_SUBMIT` (R298). -/
  | hostRingSubmit (q : Nat) (desc : BitVec 2048)
  /-- `RING_ENTRY_TAKE` (R308). -/
  | ringEntryTake (q : Nat)
  /-- `DISPATCHER_GRANT` (R304). -/
  | dispatcherGrant
  /-- `NODE_COMPLETE` (R313). -/
  | nodeComplete (q : Nat) (nodes : List Nat)
  /-- `CLUSTER_SLOT_GRANT` (R316). -/
  | clusterSlotGrant (cluster : Nat)
  /-- `STEAL_MESSAGE` (R317). -/
  | stealMessage (thief : Nat)
  /-- `STEAL_DELIVERY` (R318). -/
  | stealDelivery (index : Nat) (thiefDown : Bool) (victimDown : Bool)
  /-- `CONTEXT_CREATE` (R359). -/
  | contextCreate (asid : Nat) (root : Nat) (stackBase : Word) (stackLen : Nat) (saveBase : Word) (saveLen : Nat) (tvec : Word)
  /-- `CONTEXT_SAVE` (R359). -/
  | contextSave (asid : Nat)
  /-- `SAVE_COMPLETE` (R359). -/
  | saveComplete (asid : Nat)
  /-- `CONTEXT_RESTORE` (R359). -/
  | contextRestore (asid : Nat)
  /-- `CONTEXT_TEAR_DOWN` (R359). -/
  | contextTearDown (asid : Nat)
  /-- `CONTEXT_TORN` (R359). -/
  | contextTorn (asid : Nat)
  /-- `CONTEXT_RELEASE` (R359). -/
  | contextRelease (asid : Nat)
  /-- `RESUME_SAVE` (R365). -/
  | resumeSave (slot : Nat) (unit : Nat)
  /-- `HOST_RELEASE_HART` (R373). -/
  | hostReleaseHart (slot : Nat)
  /-- `PREEMPTION_REQUEST` (R366). -/
  | preemptionRequest (slot : Nat) (bound : Nat)
  /-- `FORCED_PREEMPTION` (R366). -/
  | forcedPreemption (slot : Nat)
  /-- `IDLE_TIME_BOUND` (R104). -/
  | idleTimeBound (slot : Nat)
  /-- `RECESS_START` (R389, R400). -/
  | recessStart (readings : List Nat) (millivolts : List (Option Nat))
  /-- `DRAIN_WINDOW_OPEN` (R394). -/
  | drainWindowOpen
  /-- `RECESS_END` (R390). -/
  | recessEnd
  /-- `RECESS_OVERRUN_END` (R395). -/
  | recessOverrunEnd
  /-- `POWER_STATE_ENTRY` (R396). -/
  | powerStateEntry (level : Nat) (part : Nat)
  /-- `POWER_WAKE` (R397). -/
  | powerWake (level : Nat) (part : Nat)
  /-- `LANE_CAP_CHANGE` (R398). -/
  | laneCapChange (core : Nat) (lanes : Nat)
  /-- `STAGGER_LAPSE` (R399). -/
  | staggerLapse
  /-- `PWRCTL_SLEW_WRITE` (R401). -/
  | pwrctlSlewWrite (val : Nat)
  /-- `PWRCTL_TOL_WRITE` (R401). -/
  | pwrctlTolWrite (val : Nat)
  /-- `PWRCTL_C2REQ_WRITE` (R401). -/
  | pwrctlC2reqWrite (val : Bool)
  /-- `DEVICE_RESET` (R9, R243). -/
  | deviceReset (keepMemory : Bool)
  /-- `HOST_LINK_TRAINING` (R405). -/
  | hostLinkTraining (deviceType : Nat) (flit256 : Bool) (rate : Nat) (asks : HostAsks)
  /-- `PORT_ENABLE` (R407). -/
  | portEnable (port : Nat)
  /-- `PORT_TRAINED` (R407). -/
  | portTrained (port : Nat) (peerHallmark : BitVec 32)
  /-- `PORT_TRAINING_TIMEOUT` (R407). -/
  | portTrainingTimeout (port : Nat)
  /-- `PORT_ERROR_THRESHOLD` (R407). -/
  | portErrorThreshold (port : Nat)
  /-- `PARTNER_LOST` (R407). -/
  | partnerLost (port : Nat)
  /-- `PORT_QUEUE_DISCARD` (R410). -/
  | portQueueDiscard (port : Nat)
  /-- `MESSAGE_TRANSMIT` (R410). -/
  | messageTransmit (port : Nat) (cls : Nat)
  /-- `MESSAGE_RECEIVE` (R410). -/
  | messageReceive (port : Nat) (cls : Nat) (msg : BitVec 512)
  /-- `PUT_EXECUTE` (R411). -/
  | putExecute (port : Nat) (cls : Nat) (msg : BitVec 512) (blocks : List (Bool × List Byte))
  /-- `SIDEBAND_FIRMWARE_UPDATE` (R413). -/
  | sidebandFirmwareUpdate (image : Nat) (signatureOk : Bool)
  /-- `SIDEBAND_MONITORING` (R413). -/
  | sidebandMonitoring
  /-- `SIDEBAND_RECORD_READ` (R413). -/
  | sidebandRecordRead
  /-- `SPDM_ATTESTATION` (R413). -/
  | spdmAttestation (request : Nat)
  /-- `ILLEGAL_INSTRUCTION` (R81). -/
  | illegalInstruction (w : IWord)
  /-- `MAINTENANCE_WORK_END` (R395). -/
  | maintenanceWorkEnd
  /-- `GDDR7_RETRAINING_REQUEST` (R391). -/
  | gddr7RetrainingRequest (dev : Nat)
  /-- `MAIN_SIDE_DOWN` (R413). -/
  | mainSideDown
  deriving DecidableEq, Repr

end Sys2Proof
end

