-- ==== Sys2Proof/WellFormed.lean ====
section
/-! DEFINITION. The constraints the opcode chapter states on an instruction's operand fields (R57-R79). -/

namespace Sys2Proof

/-- The control registers of R85 and their numbers. -/
def controlRegisters : List (BitVec 12) :=
  [0x000, 0x001, 0x002, 0x003, 0x004, 0x005, 0x010, 0x011, 0x012, 0x013, 0x020,
   0x100, 0x101, 0x102, 0x103, 0x104, 0x105, 0x106]

/-- A control-register number the map assigns (R64, R85). -/
def crAssigned (n : BitVec 12) : Bool := controlRegisters.contains n

/-- A rounding code that is not illegal (R58). -/
def rmCode (rm : BitVec 3) : Bool := rm.toNat ≤ 5
/-- A rounding code on a form that refuses RTO (R63). -/
def rmNoOdd (rm : BitVec 3) : Bool := rm.toNat ≤ 4

/-- The codes `FCVT` takes: INT32, INT64, FP16, BF16, FP32 and FP64 (R63). -/
def fcvtCode (c : BitVec 4) : Bool := 3 ≤ c.toNat && c.toNat ≤ 8

/-- The conversions that widen exactly, by source and destination code (R49). -/
def exactPair (src dst : BitVec 4) : Bool :=
  match src.toNat with
  | 11 => [5, 6, 7, 8, 9].contains dst.toNat
  | 9 | 10 => [5, 6, 7, 8].contains dst.toNat
  | 5 | 6 | 12 | 14 => [7, 8].contains dst.toNat
  | 7 => dst.toNat == 8
  | 13 => [7, 6, 8].contains dst.toNat
  | 0 | 1 => [2, 3, 4, 5, 6, 7, 8].contains dst.toNat
  | 2 => [3, 4, 7, 8].contains dst.toNat
  | 3 => [4, 8].contains dst.toNat
  | _ => false

/-- A compare's destination mask: not m0, and not the mask the exception modifier names (R72, R127). -/
def cmpMask (md : MReg) (xm : BitVec 2) : Bool := md != 0 && (xm == 0 || md.toNat != 11 + xm.toNat)

/-- The constraints of the opcode chapter hold for `i`. -/
def Instr.wellFormed (i : Instr) : Bool :=
  match i with
  | .add _ _ _ => true
  | .sub _ _ _ => true
  | .mul _ _ _ => true
  | .mulh _ _ _ => true
  | .div _ _ _ => true
  | .divu _ _ _ => true
  | .rem _ _ _ => true
  | .remu _ _ _ => true
  | .and _ _ _ => true
  | .or _ _ _ => true
  | .xor _ _ _ => true
  | .shl _ _ _ => true
  | .shr _ _ _ => true
  | .sra _ _ _ => true
  | .slt _ _ _ => true
  | .sltu _ _ _ => true
  | .min _ _ _ => true
  | .minu _ _ _ => true
  | .max _ _ _ => true
  | .maxu _ _ _ => true
  | .clz _ _ => true
  | .ctz _ _ => true
  | .popc _ _ => true
  | .jalr _ _ => true
  | .shli _ _ _ => true
  | .shri _ _ _ => true
  | .srai _ _ _ => true
  | .addi _ _ _ => true
  | .andi _ _ _ => true
  | .ori _ _ _ => true
  | .xori _ _ _ => true
  | .lih _ _ _ => true
  | .addpc _ _ => true
  | .lb _ _ _ => true
  | .lh _ _ _ => true
  | .lw _ _ _ => true
  | .ld _ _ _ => true
  | .lbu _ _ _ => true
  | .lhu _ _ _ => true
  | .lwu _ _ _ => true
  | .sb _ _ _ => true
  | .sh _ _ _ => true
  | .sw _ _ _ => true
  | .sd _ _ _ => true
  | .beq _ _ _ => true
  | .bne _ _ _ => true
  | .blt _ _ _ => true
  | .bge _ _ _ => true
  | .bltu _ _ _ => true
  | .bgeu _ _ _ => true
  | .jal _ _ => true
  | .fadd _ _ _ rm _ => rmNoOdd rm
  | .fsub _ _ _ rm _ => rmNoOdd rm
  | .fmul _ _ _ rm _ => rmNoOdd rm
  | .fdiv _ _ _ rm _ => rmNoOdd rm
  | .fsqrt _ _ rm _ => rmNoOdd rm
  | .fmin _ _ _ _ => true
  | .fmax _ _ _ _ => true
  | .fneg _ _ _ => true
  | .fabs _ _ _ => true
  | .feq _ _ _ _ => true
  | .flt _ _ _ _ => true
  | .fle _ _ _ _ => true
  | .fmadd _ _ _ rm _ => rmNoOdd rm
  | .fmsub _ _ _ rm _ => rmNoOdd rm
  | .fcvt _ _ rm dst src => rmCode rm && fcvtCode dst && fcvtCode src && dst != src && (rm != 5 || dst.toNat == 5 || dst.toNat == 6 || dst.toNat == 7)
  | .crr _ n => crAssigned n
  | .crw _ _ n => crAssigned n
  | .crs _ _ n => crAssigned n
  | .crc _ _ n => crAssigned n
  | .rett => true
  | .idle => true
  | .savepin _ _ => true
  | .asinv _ _ => true
  | .pgprobe _ _ => true
  | .timetbl _ => true
  | .rcwait => true
  | .trap _ => true
  | .fenceHart => true
  | .fenceCore => true
  | .fenceCluster => true
  | .fenceQuarter => true
  | .fenceDevice => true
  | .fenceSystem => true
  | .fenceSv => true
  | .fenceVs => true
  | .fencep p q => p.toNat < q.toNat && q.toNat ≤ 4
  | .wmset _ _ => true
  | .amoAdd _ _ _ _ _ => true
  | .amoMin _ _ _ _ _ => true
  | .amoMax _ _ _ _ _ => true
  | .amoAnd _ _ _ _ _ => true
  | .amoOr _ _ _ _ _ => true
  | .amoXor _ _ _ _ _ => true
  | .amoSwap _ _ _ _ _ => true
  | .cas _ _ _ _ _ => true
  | .binit _ _ => true
  | .barrive _ _ => true
  | .bwait _ _ => true
  | .slate _ _ _ => true
  | .smerge _ => true
  | .lkdecl _ _ _ => true
  | .lkstat _ => true
  | .lksen _ => true
  | .vamoAdd _ _ _ _ _ _ => true
  | .vamoMin _ _ _ _ _ _ => true
  | .vamoMax _ _ _ _ _ _ => true
  | .vamoAnd _ _ _ _ _ _ => true
  | .vamoOr _ _ _ _ _ _ => true
  | .vamoXor _ _ _ _ _ _ => true
  | .vamoSwap _ _ _ _ _ _ => true
  | .vamoCas vd _ _ _ _ _ => vd.getLsbD 0 == false
  | .vwaitEq _ _ _ _ => true
  | .vwaitNe _ _ _ _ => true
  | .vwaitLt _ _ _ _ => true
  | .vwaitGe _ _ _ _ => true
  | .vwaitLtu _ _ _ _ => true
  | .vwaitGeu _ _ _ _ => true
  | .sladd _ _ _ _ => true
  | .slmin _ _ _ _ => true
  | .slmax _ _ _ _ => true
  | .launch _ _ _ => true
  | .gnode _ _ => true
  | .qstate _ _ => true
  | .strpush _ _ _ => true
  | .strpop _ _ => true
  | .hgive _ _ => true
  | .htake _ _ => true
  | .cpy _ _ _ => true
  | .cpyw _ _ _ src dst => exactPair src dst
  | .pack _ _ _ => true
  | .unpack _ _ _ => true
  | .cpwait _ => true
  | .vadd _ _ _ _ _ _ => true
  | .vsub _ _ _ _ _ _ => true
  | .vmul _ _ _ _ _ _ => true
  | .vdiv _ _ _ _ _ _ => true
  | .vmin _ _ _ _ _ _ => true
  | .vmax _ _ _ _ _ _ => true
  | .vand _ _ _ _ _ => true
  | .vor _ _ _ _ _ => true
  | .vxor _ _ _ _ _ => true
  | .vshl _ _ _ _ _ => true
  | .vshr _ _ _ _ _ => true
  | .vsra _ _ _ _ _ => true
  | .vmadd _ _ _ _ _ _ => true
  | .vscale _ _ _ _ _ _ => true
  | .vsqrt _ _ _ _ _ => true
  | .vabs _ _ _ _ => true
  | .vneg _ _ _ _ => true
  | .vpopc _ _ _ _ => true
  | .vmv _ _ _ _ => true
  | .vid _ _ _ => true
  | .vcmpEq md _ _ _ _ xm => cmpMask md xm
  | .vcmpNe md _ _ _ _ xm => cmpMask md xm
  | .vcmpLt md _ _ _ _ xm => cmpMask md xm
  | .vcmpLe md _ _ _ _ xm => cmpMask md xm
  | .vcmpGt md _ _ _ _ xm => cmpMask md xm
  | .vcmpGe md _ _ _ _ xm => cmpMask md xm
  | .vcmpLtu md _ _ _ _ xm => cmpMask md xm
  | .vcmpLeu md _ _ _ _ xm => cmpMask md xm
  | .vcmpGtu md _ _ _ _ xm => cmpMask md xm
  | .vcmpGeu md _ _ _ _ xm => cmpMask md xm
  | .mand md _ _ => md != 0
  | .mor md _ _ => md != 0
  | .mxor md _ _ => md != 0
  | .mnot md _ => md != 0
  | .mpopc _ _ => true
  | .mfirst _ _ => true
  | .vmerge _ _ _ _ => true
  | .vnzidx _ _ _ _ => true
  | .vbcast _ _ _ => true
  | .vslide _ _ _ _ => true
  | .vperm _ _ _ _ => true
  | .vredsum _ _ _ _ _ => true
  | .vredmin _ _ _ _ => true
  | .vredmax _ _ _ _ => true
  | .vredmini d _ i _ _ => i != d
  | .vcvt _ _ _ rm src _ _ => rmCode rm && src != 15
  | .vld _ _ _ => true
  | .vlds _ _ _ _ => true
  | .vldx _ _ _ _ => true
  | .vldff _ _ _ => true
  | .vst _ _ _ => true
  | .vsts _ _ _ _ => true
  | .vstx _ _ _ _ => true
  | .vstxu _ _ _ _ => true
  | .satld _ _ _ _ => true
  | .satst _ _ _ _ => true
  | .vspill _ _ => true
  | .vfill _ _ => true
  | .setvl _ _ => true
  | .vcfg fmt _ klen => fmt != 15 && klen.toNat ≤ 64
  | .vblk _ => true
  | .vloop _ _ => true
  | .vb _ _ => true
  | .vstop => true
  | .psetd _ _ => true
  | .psetvl _ _ => true
  | .pld _ _ => true
  | .pst _ _ => true
  | .padd _ _ _ _ => true
  | .psub _ _ _ _ => true
  | .pmul _ _ _ _ => true
  | .pmulc _ _ _ _ => true
  | .pscal _ _ _ _ => true
  | .pdiff _ _ _ _ => true
  | .pint _ _ _ _ => true
  | .pintd _ _ _ => true
  | .pproj _ _ _ _ => true
  | .plift _ _ _ _ => true
  | .ptrace _ _ _ _ _ => true
  | .pfaceAvg _ _ _ _ => true
  | .pfaceJump _ _ _ _ => true
  | .pfaceUp _ _ _ _ _ => true
  | .peval _ _ _ => true
  | .pevalb _ _ _ => true
  | .pevalx vd _ _ => vd.getLsbD 0 == false
  | .pfit _ _ _ => true
  | .pnode _ _ _ => true
  | .pconv _ _ _ _ => true
  | .mma _ _ _ afmt _ => afmt != 15
  | .mopa _ _ _ _ afmt => afmt != 15
  | .zclr _ => true
  | .zrd _ _ _ => true
  | .zwr _ _ _ => true
  | .zcvt _ _ _ afmt => afmt != 15
  | .wload _ _ afmt => afmt != 15
  | .wswap => true
  | .tgemm _ _ afmt _ => afmt != 15
  | .talloc _ _ _ => true
  | .tfree _ => true
  | .tstate _ _ => true
  | .lsend _ _ _ _ => true
  | .lpoll _ _ _ => true
  | .nop => true
  | .hint h => h != 0
  | .hostFaultAnswer _ _ => true
  | .pageWalkComplete _ _ _ => true
  | .hostInvalidate _ _ => true
  | .hostMemAccess _ _ _ => true
  | .regionDeclare _ _ _ => true
  | .writeApply _ _ => true
  | .loadPerformed _ => true
  | .atomicAtHome _ => true
  | .watermarkStallEnd _ => true
  | .guardWindowRelease _ => true
  | .copyCommandStart _ _ => true
  | .copyCommandComplete _ _ => true
  | .tileWriterAccept _ _ => true
  | .tgemmStep _ => true
  | .arrayAcquire _ => true
  | .twinPairing _ => true
  | .pairingTimeout _ => true
  | .decodeTableReload _ _ => true
  | .strandWaitEnd _ => true
  | .woundDelivery _ => true
  | .locketCommit _ => true
  | .becomeIrrevocable _ => true
  | .teamStart _ _ => true
  | .kernelLoad _ _ => true
  | .kernelRetire _ _ => true
  | .queueEnable _ _ _ _ _ => true
  | .queueDisable _ => true
  | .queueReset _ => true
  | .queueResume _ => true
  | .hostRingSubmit _ _ => true
  | .ringEntryTake _ => true
  | .dispatcherGrant => true
  | .nodeComplete _ _ => true
  | .clusterSlotGrant _ => true
  | .stealMessage _ => true
  | .stealDelivery _ _ _ => true
  | .contextCreate _ _ _ _ _ _ _ => true
  | .contextSave _ => true
  | .saveComplete _ => true
  | .contextRestore _ => true
  | .contextTearDown _ => true
  | .contextTorn _ => true
  | .contextRelease _ => true
  | .resumeSave _ _ => true
  | .hostReleaseHart _ => true
  | .preemptionRequest _ _ => true
  | .forcedPreemption _ => true
  | .idleTimeBound _ => true
  | .recessStart _ _ => true
  | .drainWindowOpen => true
  | .recessEnd => true
  | .recessOverrunEnd => true
  | .powerStateEntry _ _ => true
  | .powerWake _ _ => true
  | .laneCapChange _ _ => true
  | .staggerLapse => true
  | .pwrctlSlewWrite _ => true
  | .pwrctlTolWrite _ => true
  | .pwrctlC2reqWrite _ => true
  | .deviceReset _ => true
  | .hostLinkTraining _ _ _ _ => true
  | .portEnable _ => true
  | .portTrained _ _ => true
  | .portTrainingTimeout _ => true
  | .portErrorThreshold _ => true
  | .partnerLost _ => true
  | .portQueueDiscard _ => true
  | .messageTransmit _ _ => true
  | .messageReceive _ _ _ => true
  | .putExecute _ _ _ _ => true
  | .sidebandFirmwareUpdate _ _ => true
  | .sidebandMonitoring => true
  | .sidebandRecordRead => true
  | .spdmAttestation _ => true
  | .illegalInstruction _ => true
  | .maintenanceWorkEnd => true
  | .gddr7RetrainingRequest _ => true
  | .mainSideDown => true

end Sys2Proof
end

