-- ==== Sys2Proof/Decode.lean ====
section
/-! DEFINITION. The decoder of instruction words (R56-R82), total on any 32 bits and rejecting by name, and the encoder
written from the same tables. -/

namespace Sys2Proof

/-- Why a word is no instruction (R81). -/
inductive DecodeError where
  /-- The major opcode is not assigned. -/
  | unassignedMajor
  /-- The function, sub-op, kind or op value is not assigned. -/
  | unassignedFunction
  /-- A reserved field or bit is not zero (R20, R57). -/
  | reservedField
  /-- A constraint the opcode chapter states on the fields fails (WellFormed). -/
  | operandConstraint
  deriving DecidableEq, Repr

/-! Fields of the word formats (R56). -/

def IWord.major (w : IWord) : BitVec 6 := w.extractLsb' 26 6
def IWord.f25 (w : IWord) : BitVec 5 := w.extractLsb' 21 5
def IWord.f20 (w : IWord) : BitVec 5 := w.extractLsb' 16 5
def IWord.f15 (w : IWord) : BitVec 5 := w.extractLsb' 11 5
def IWord.func (w : IWord) : BitVec 11 := w.extractLsb' 0 11
def IWord.imm16 (w : IWord) : BitVec 16 := w.extractLsb' 0 16
/-- The mask field of formats V and VM, bits [10:7]. -/
def IWord.vmask (w : IWord) : BitVec 4 := w.extractLsb' 7 4
/-- The low four bits: op of format V, sub-op of format VM. -/
def IWord.op4 (w : IWord) : BitVec 4 := w.extractLsb' 0 4
def IWord.vdt (w : IWord) : BitVec 1 := w.extractLsb' 6 1
def IWord.vxm (w : IWord) : BitVec 2 := w.extractLsb' 4 2
/-- The mode field of format VM, bits [6:4]. -/
def IWord.vmode (w : IWord) : BitVec 3 := w.extractLsb' 4 3
/-- The op field of formats P and X, bits [4:0]. -/
def IWord.op5 (w : IWord) : BitVec 5 := w.extractLsb' 0 5
def IWord.pd (w : IWord) : BitVec 4 := w.extractLsb' 22 4
def IWord.ps1 (w : IWord) : BitVec 4 := w.extractLsb' 18 4
def IWord.ps2 (w : IWord) : BitVec 4 := w.extractLsb' 14 4
/-- The mask field of formats P and X, bits [13:10]. -/
def IWord.pmask (w : IWord) : BitVec 4 := w.extractLsb' 10 4
/-- The vs-field of format P, bits [9:5]. -/
def IWord.pvs (w : IWord) : BitVec 5 := w.extractLsb' 5 5
def IWord.zd (w : IWord) : BitVec 2 := w.extractLsb' 24 2
def IWord.xvs (w : IWord) : BitVec 5 := w.extractLsb' 19 5
def IWord.xvs2 (w : IWord) : BitVec 5 := w.extractLsb' 14 5
def IWord.afmt (w : IWord) : BitVec 4 := w.extractLsb' 6 4
def IWord.twin (w : IWord) : BitVec 1 := w.extractLsb' 5 1

/-- Field `[lo+n-1:lo]` of a word or of a field. -/
def IWord.bits (w : IWord) (lo n : Nat) : BitVec n := w.extractLsb' lo n

/-- `i`, if every reserved field of its row is zero. -/
def IWord.ifZero (zero : Bool) (i : Instr) : Except DecodeError Instr :=
  if zero then .ok i else .error .reservedField

/-- Low bits of a 5-bit field that names a mask, a P, a D or a W register (R57). -/
def lowMask (x : BitVec 5) : BitVec 4 := x.extractLsb' 0 4
/-- Bit 4 of such a field, reserved. -/
def highBit (x : BitVec 5) : Bool := x.getLsbD 4

/-- Major 0x01 (R60). -/
def decodeAlu (w : IWord) : Except DecodeError Instr :=
  if w.bits 9 2 == 1#2 then
    if w.bits 6 1 == 0#1 then
      match (w.bits 7 2).toNat with
      | 0 => IWord.ifZero (w.f15 == 0) (.shli w.f25 w.f20 (w.bits 0 6))
      | 1 => IWord.ifZero (w.f15 == 0) (.shri w.f25 w.f20 (w.bits 0 6))
      | 2 => IWord.ifZero (w.f15 == 0) (.srai w.f25 w.f20 (w.bits 0 6))
      | _ => .error .unassignedFunction
    else .error .unassignedFunction
  else
    match w.func.toNat with
    | 0x0 => .ok (.add w.f25 w.f20 w.f15)
    | 0x1 => .ok (.sub w.f25 w.f20 w.f15)
    | 0x2 => .ok (.mul w.f25 w.f20 w.f15)
    | 0x3 => .ok (.mulh w.f25 w.f20 w.f15)
    | 0x4 => .ok (.div w.f25 w.f20 w.f15)
    | 0x5 => .ok (.divu w.f25 w.f20 w.f15)
    | 0x6 => .ok (.rem w.f25 w.f20 w.f15)
    | 0x7 => .ok (.remu w.f25 w.f20 w.f15)
    | 0x8 => .ok (.and w.f25 w.f20 w.f15)
    | 0x9 => .ok (.or w.f25 w.f20 w.f15)
    | 0xa => .ok (.xor w.f25 w.f20 w.f15)
    | 0xb => .ok (.shl w.f25 w.f20 w.f15)
    | 0xc => .ok (.shr w.f25 w.f20 w.f15)
    | 0xd => .ok (.sra w.f25 w.f20 w.f15)
    | 0xe => .ok (.slt w.f25 w.f20 w.f15)
    | 0xf => .ok (.sltu w.f25 w.f20 w.f15)
    | 0x10 => .ok (.min w.f25 w.f20 w.f15)
    | 0x11 => .ok (.minu w.f25 w.f20 w.f15)
    | 0x12 => .ok (.max w.f25 w.f20 w.f15)
    | 0x13 => .ok (.maxu w.f25 w.f20 w.f15)
    | 0x14 => IWord.ifZero (w.f15 == 0) (.clz w.f25 w.f20)
    | 0x15 => IWord.ifZero (w.f15 == 0) (.ctz w.f25 w.f20)
    | 0x16 => IWord.ifZero (w.f15 == 0) (.popc w.f25 w.f20)
    | 0x17 => IWord.ifZero (w.f15 == 0) (.jalr w.f25 w.f20)
    | _ => .error .unassignedFunction

/-- Major 0x06 (R61): src1 is h, 0 to 3, or 16 for `ADDPC`. -/
def decodeLih (w : IWord) : Except DecodeError Instr :=
  if w.f20.toNat < 4 then .ok (.lih w.f25 w.imm16 (w.f20.extractLsb' 0 2))
  else if w.f20 == 16#5 then .ok (.addpc w.f25 w.imm16)
  else .error .unassignedFunction

/-- Major 0x07 (R61). -/
def decodeLoad (w : IWord) : Except DecodeError Instr :=
  match (w.bits 0 3).toNat with
  | 0 => .ok (.lb w.f25 w.f20 (w.bits 3 13))
  | 1 => .ok (.lh w.f25 w.f20 (w.bits 3 13))
  | 2 => .ok (.lw w.f25 w.f20 (w.bits 3 13))
  | 3 => .ok (.ld w.f25 w.f20 (w.bits 3 13))
  | 4 => .ok (.lbu w.f25 w.f20 (w.bits 3 13))
  | 5 => .ok (.lhu w.f25 w.f20 (w.bits 3 13))
  | 6 => .ok (.lwu w.f25 w.f20 (w.bits 3 13))
  | _ => .error .unassignedFunction

/-- Major 0x08 (R61). -/
def decodeStore (w : IWord) : Except DecodeError Instr :=
  match (w.bits 0 3).toNat with
  | 0 => .ok (.sb w.f25 w.f20 (w.bits 3 13))
  | 1 => .ok (.sh w.f25 w.f20 (w.bits 3 13))
  | 2 => .ok (.sw w.f25 w.f20 (w.bits 3 13))
  | 3 => .ok (.sd w.f25 w.f20 (w.bits 3 13))
  | _ => .error .unassignedFunction

/-- Major 0x10 (R63): ops 5 to 11 do not round and hold 0 in the rounding field (R58). -/
def decodeFp (w : IWord) : Except DecodeError Instr :=
  match w.op4.toNat with
  | 0 => IWord.ifZero (w.bits 4 3 == 0) (.fadd w.f25 w.f20 w.f15 (w.bits 8 3) (w.bits 7 1))
  | 1 => IWord.ifZero (w.bits 4 3 == 0) (.fsub w.f25 w.f20 w.f15 (w.bits 8 3) (w.bits 7 1))
  | 2 => IWord.ifZero (w.bits 4 3 == 0) (.fmul w.f25 w.f20 w.f15 (w.bits 8 3) (w.bits 7 1))
  | 3 => IWord.ifZero (w.bits 4 3 == 0) (.fdiv w.f25 w.f20 w.f15 (w.bits 8 3) (w.bits 7 1))
  | 4 => IWord.ifZero (w.bits 4 3 == 0 && w.f15 == 0) (.fsqrt w.f25 w.f20 (w.bits 8 3) (w.bits 7 1))
  | 5 => IWord.ifZero (w.bits 4 3 == 0 && w.bits 8 3 == 0) (.fmin w.f25 w.f20 w.f15 (w.bits 7 1))
  | 6 => IWord.ifZero (w.bits 4 3 == 0 && w.bits 8 3 == 0) (.fmax w.f25 w.f20 w.f15 (w.bits 7 1))
  | 7 => IWord.ifZero (w.bits 4 3 == 0 && w.bits 8 3 == 0 && w.f15 == 0) (.fneg w.f25 w.f20 (w.bits 7 1))
  | 8 => IWord.ifZero (w.bits 4 3 == 0 && w.bits 8 3 == 0 && w.f15 == 0) (.fabs w.f25 w.f20 (w.bits 7 1))
  | 9 => IWord.ifZero (w.bits 4 3 == 0 && w.bits 8 3 == 0) (.feq w.f25 w.f20 w.f15 (w.bits 7 1))
  | 10 => IWord.ifZero (w.bits 4 3 == 0 && w.bits 8 3 == 0) (.flt w.f25 w.f20 w.f15 (w.bits 7 1))
  | 11 => IWord.ifZero (w.bits 4 3 == 0 && w.bits 8 3 == 0) (.fle w.f25 w.f20 w.f15 (w.bits 7 1))
  | _ => .error .unassignedFunction

/-- Major 0x11 (R63). -/
def decodeFma (w : IWord) : Except DecodeError Instr :=
  if w.bits 0 1 == 0#1 then IWord.ifZero (w.bits 1 6 == 0) (.fmadd w.f25 w.f20 w.f15 (w.bits 8 3) (w.bits 7 1))
  else IWord.ifZero (w.bits 1 6 == 0) (.fmsub w.f25 w.f20 w.f15 (w.bits 8 3) (w.bits 7 1))

/-- Major 0x12 (R63). -/
def decodeFcvt (w : IWord) : Except DecodeError Instr :=
  IWord.ifZero (w.f15 == 0) (.fcvt w.f25 w.f20 (w.bits 8 3) (w.bits 4 4) (w.bits 0 4))

/-- Major 0x14 (R64). -/
def decodeCr (w : IWord) : Except DecodeError Instr :=
  match (w.bits 12 4).toNat with
  | 0 => IWord.ifZero (w.f20 == 0) (.crr w.f25 (w.bits 0 12))
  | 1 => .ok (.crw w.f25 w.f20 (w.bits 0 12))
  | 2 => .ok (.crs w.f25 w.f20 (w.bits 0 12))
  | 3 => .ok (.crc w.f25 w.f20 (w.bits 0 12))
  | _ => .error .unassignedFunction

/-- Major 0x15 (R65). -/
def decodeSys (w : IWord) : Except DecodeError Instr :=
  match w.func.toNat with
  | 0 => IWord.ifZero (w.f25 == 0 && w.f20 == 0 && w.f15 == 0) (.rett)
  | 1 => IWord.ifZero (w.f25 == 0 && w.f20 == 0 && w.f15 == 0) (.idle)
  | 2 => IWord.ifZero (w.f25 == 0) (.savepin w.f20 w.f15)
  | 3 => IWord.ifZero (w.f25 == 0) (.asinv w.f20 w.f15)
  | 4 => IWord.ifZero (w.f15 == 0) (.pgprobe w.f25 w.f20)
  | 5 => IWord.ifZero (w.f20 == 0 && w.f15 == 0) (.timetbl w.f25)
  | 6 => IWord.ifZero (w.f25 == 0 && w.f20 == 0 && w.f15 == 0) (.rcwait)
  | _ => .error .unassignedFunction

/-- Major 0x16 (R61). -/
def decodeTrap (w : IWord) : Except DecodeError Instr :=
  IWord.ifZero (w.f25 == 0 && w.f20 == 0) (.trap w.imm16)

/-- Major 0x17 (R66). -/
def decodeFence (w : IWord) : Except DecodeError Instr :=
  match (w.bits 8 3).toNat with
  | 0 =>
    match (w.bits 0 3).toNat with
    | 0 => IWord.ifZero (w.f25 == 0 && w.f20 == 0 && w.f15 == 0 && w.bits 3 5 == 0) (.fenceHart)
    | 1 => IWord.ifZero (w.f25 == 0 && w.f20 == 0 && w.f15 == 0 && w.bits 3 5 == 0) (.fenceCore)
    | 2 => IWord.ifZero (w.f25 == 0 && w.f20 == 0 && w.f15 == 0 && w.bits 3 5 == 0) (.fenceCluster)
    | 3 => IWord.ifZero (w.f25 == 0 && w.f20 == 0 && w.f15 == 0 && w.bits 3 5 == 0) (.fenceQuarter)
    | 4 => IWord.ifZero (w.f25 == 0 && w.f20 == 0 && w.f15 == 0 && w.bits 3 5 == 0) (.fenceDevice)
    | 5 => IWord.ifZero (w.f25 == 0 && w.f20 == 0 && w.f15 == 0 && w.bits 3 5 == 0) (.fenceSystem)
    | _ => .error .unassignedFunction
  | 1 => IWord.ifZero (w.f25 == 0 && w.f20 == 0 && w.f15 == 0 && w.bits 0 8 == 0) (.fenceSv)
  | 2 => IWord.ifZero (w.f25 == 0 && w.f20 == 0 && w.f15 == 0 && w.bits 0 8 == 0) (.fenceVs)
  | 3 => IWord.ifZero (w.f25 == 0 && w.f20 == 0 && w.f15 == 0 && w.bits 6 2 == 0) (.fencep (w.bits 3 3) (w.bits 0 3))
  | 4 => IWord.ifZero (w.f25 == 0 && w.f15 == 0 && w.bits 3 5 == 0) (.wmset (w.bits 0 3) w.f20)
  | _ => .error .unassignedFunction

/-- Major 0x18 (R67). -/
def decodeAmo (w : IWord) : Except DecodeError Instr :=
  match (w.bits 0 3).toNat with
  | 0 => IWord.ifZero (w.bits 5 6 == 0) (.amoAdd w.f25 w.f20 w.f15 (w.bits 3 1) (w.bits 4 1))
  | 1 => IWord.ifZero (w.bits 5 6 == 0) (.amoMin w.f25 w.f20 w.f15 (w.bits 3 1) (w.bits 4 1))
  | 2 => IWord.ifZero (w.bits 5 6 == 0) (.amoMax w.f25 w.f20 w.f15 (w.bits 3 1) (w.bits 4 1))
  | 3 => IWord.ifZero (w.bits 5 6 == 0) (.amoAnd w.f25 w.f20 w.f15 (w.bits 3 1) (w.bits 4 1))
  | 4 => IWord.ifZero (w.bits 5 6 == 0) (.amoOr w.f25 w.f20 w.f15 (w.bits 3 1) (w.bits 4 1))
  | 5 => IWord.ifZero (w.bits 5 6 == 0) (.amoXor w.f25 w.f20 w.f15 (w.bits 3 1) (w.bits 4 1))
  | 6 => IWord.ifZero (w.bits 5 6 == 0) (.amoSwap w.f25 w.f20 w.f15 (w.bits 3 1) (w.bits 4 1))
  | 7 => IWord.ifZero (w.bits 5 6 == 0) (.cas w.f25 w.f20 w.f15 (w.bits 3 1) (w.bits 4 1))
  | _ => .error .unassignedFunction

/-- Major 0x19 (R68). -/
def decodeSync (w : IWord) : Except DecodeError Instr :=
  match w.func.toNat with
  | 0 => IWord.ifZero (w.f25 == 0) (.binit w.f20 w.f15)
  | 1 => IWord.ifZero (w.f25 == 0 && !highBit w.f15) (.barrive w.f20 (lowMask w.f15))
  | 2 => IWord.ifZero (w.f15 == 0) (.bwait w.f25 w.f20)
  | 3 => .ok (.slate w.f25 w.f20 w.f15)
  | 4 => IWord.ifZero (w.f25 == 0 && w.f15 == 0) (.smerge w.f20)
  | 5 => .ok (.lkdecl w.f25 w.f20 w.f15)
  | 6 => IWord.ifZero (w.f20 == 0 && w.f15 == 0) (.lkstat w.f25)
  | 7 => IWord.ifZero (w.f20 == 0 && w.f15 == 0) (.lksen w.f25)
  | _ => .error .unassignedFunction

/-- Major 0x1A (R69). -/
def decodeVamo (w : IWord) : Except DecodeError Instr :=
  match w.op4.toNat with
  | 0 => IWord.ifZero (w.bits 6 1 == 0) (.vamoAdd w.f25 w.f20 w.f15 w.vmask (w.bits 4 1) (w.bits 5 1))
  | 1 => IWord.ifZero (w.bits 6 1 == 0) (.vamoMin w.f25 w.f20 w.f15 w.vmask (w.bits 4 1) (w.bits 5 1))
  | 2 => IWord.ifZero (w.bits 6 1 == 0) (.vamoMax w.f25 w.f20 w.f15 w.vmask (w.bits 4 1) (w.bits 5 1))
  | 3 => IWord.ifZero (w.bits 6 1 == 0) (.vamoAnd w.f25 w.f20 w.f15 w.vmask (w.bits 4 1) (w.bits 5 1))
  | 4 => IWord.ifZero (w.bits 6 1 == 0) (.vamoOr w.f25 w.f20 w.f15 w.vmask (w.bits 4 1) (w.bits 5 1))
  | 5 => IWord.ifZero (w.bits 6 1 == 0) (.vamoXor w.f25 w.f20 w.f15 w.vmask (w.bits 4 1) (w.bits 5 1))
  | 6 => IWord.ifZero (w.bits 6 1 == 0) (.vamoSwap w.f25 w.f20 w.f15 w.vmask (w.bits 4 1) (w.bits 5 1))
  | 7 => IWord.ifZero (w.bits 6 1 == 0) (.vamoCas w.f25 w.f20 w.f15 w.vmask (w.bits 4 1) (w.bits 5 1))
  | 8 => IWord.ifZero (w.vmode == 0) (.vwaitEq w.f25 w.f20 w.f15 w.vmask)
  | 9 => IWord.ifZero (w.vmode == 0) (.vwaitNe w.f25 w.f20 w.f15 w.vmask)
  | 10 => IWord.ifZero (w.vmode == 0) (.vwaitLt w.f25 w.f20 w.f15 w.vmask)
  | 11 => IWord.ifZero (w.vmode == 0) (.vwaitGe w.f25 w.f20 w.f15 w.vmask)
  | 12 => IWord.ifZero (w.vmode == 0) (.vwaitLtu w.f25 w.f20 w.f15 w.vmask)
  | 13 => IWord.ifZero (w.vmode == 0) (.vwaitGeu w.f25 w.f20 w.f15 w.vmask)
  | _ => .error .unassignedFunction

/-- Major 0x1B (R69). -/
def decodeSlup (w : IWord) : Except DecodeError Instr :=
  match w.op4.toNat with
  | 0 => IWord.ifZero (w.vmode == 0) (.sladd w.f25 w.f20 w.f15 w.vmask)
  | 1 => IWord.ifZero (w.vmode == 0) (.slmin w.f25 w.f20 w.f15 w.vmask)
  | 2 => IWord.ifZero (w.vmode == 0) (.slmax w.f25 w.f20 w.f15 w.vmask)
  | _ => .error .unassignedFunction

/-- Major 0x1C (R70). -/
def decodeQueue (w : IWord) : Except DecodeError Instr :=
  match (w.bits 0 5).toNat with
  | 0 => IWord.ifZero (w.bits 5 6 == 0) (.launch w.f25 w.f20 w.f15)
  | 1 => IWord.ifZero (w.bits 5 6 == 0 && w.f15 == 0) (.gnode w.f25 w.f20)
  | 2 => IWord.ifZero (w.bits 5 6 == 0 && w.f15 == 0) (.qstate w.f25 w.f20)
  | 3 => IWord.ifZero (w.bits 5 6 == 0) (.strpush w.f25 w.f20 w.f15)
  | 4 => IWord.ifZero (w.bits 5 6 == 0 && w.f15 == 0) (.strpop w.f25 w.f20)
  | 5 => IWord.ifZero (w.f25 == 0 && w.f15 == 0) (.hgive (w.bits 5 6) w.f20)
  | 6 => IWord.ifZero (w.f20 == 0 && w.f15 == 0) (.htake w.f25 (w.bits 5 6))
  | _ => .error .unassignedFunction

/-- Major 0x1D (R71). -/
def decodeCopy (w : IWord) : Except DecodeError Instr :=
  match (w.bits 0 3).toNat with
  | 0 => IWord.ifZero (w.bits 3 8 == 0) (.cpy w.f25 w.f20 w.f15)
  | 1 => .ok (.cpyw w.f25 w.f20 w.f15 (w.bits 3 4) (w.bits 7 4))
  | 2 => IWord.ifZero (w.bits 3 8 == 0) (.pack w.f25 w.f20 w.f15)
  | 3 => IWord.ifZero (w.bits 3 8 == 0) (.unpack w.f25 w.f20 w.f15)
  | 4 => IWord.ifZero (w.bits 3 8 == 0 && w.f20 == 0 && w.f15 == 0) (.cpwait w.f25)
  | _ => .error .unassignedFunction

/-- Major 0x20 (R72). -/
def decodeV20 (w : IWord) : Except DecodeError Instr :=
  match w.op4.toNat with
  | 0 => .ok (.vadd w.f25 w.f20 w.f15 w.vmask w.vdt w.vxm)
  | 1 => .ok (.vsub w.f25 w.f20 w.f15 w.vmask w.vdt w.vxm)
  | 2 => .ok (.vmul w.f25 w.f20 w.f15 w.vmask w.vdt w.vxm)
  | 3 => .ok (.vdiv w.f25 w.f20 w.f15 w.vmask w.vdt w.vxm)
  | 4 => .ok (.vmin w.f25 w.f20 w.f15 w.vmask w.vdt w.vxm)
  | 5 => .ok (.vmax w.f25 w.f20 w.f15 w.vmask w.vdt w.vxm)
  | 6 => IWord.ifZero (w.vxm == 0) (.vand w.f25 w.f20 w.f15 w.vmask w.vdt)
  | 7 => IWord.ifZero (w.vxm == 0) (.vor w.f25 w.f20 w.f15 w.vmask w.vdt)
  | 8 => IWord.ifZero (w.vxm == 0) (.vxor w.f25 w.f20 w.f15 w.vmask w.vdt)
  | 9 => IWord.ifZero (w.vxm == 0) (.vshl w.f25 w.f20 w.f15 w.vmask w.vdt)
  | 10 => IWord.ifZero (w.vxm == 0) (.vshr w.f25 w.f20 w.f15 w.vmask w.vdt)
  | 11 => IWord.ifZero (w.vxm == 0) (.vsra w.f25 w.f20 w.f15 w.vmask w.vdt)
  | 12 => .ok (.vmadd w.f25 w.f20 w.f15 w.vmask w.vdt w.vxm)
  | 13 => .ok (.vscale w.f25 w.f20 w.f15 w.vmask w.vdt w.vxm)
  | _ => .error .unassignedFunction

/-- Major 0x21 (R72). -/
def decodeV21 (w : IWord) : Except DecodeError Instr :=
  match w.op4.toNat with
  | 0 => IWord.ifZero (w.f15 == 0) (.vsqrt w.f25 w.f20 w.vmask w.vdt w.vxm)
  | 1 => IWord.ifZero (w.f15 == 0 && w.vxm == 0) (.vabs w.f25 w.f20 w.vmask w.vdt)
  | 2 => IWord.ifZero (w.f15 == 0 && w.vxm == 0) (.vneg w.f25 w.f20 w.vmask w.vdt)
  | 3 => IWord.ifZero (w.f15 == 0 && w.vxm == 0) (.vpopc w.f25 w.f20 w.vmask w.vdt)
  | 4 => IWord.ifZero (w.f15 == 0 && w.vxm == 0) (.vmv w.f25 w.f20 w.vmask w.vdt)
  | 5 => IWord.ifZero (w.f20 == 0 && w.f15 == 0 && w.vxm == 0) (.vid w.f25 w.vmask w.vdt)
  | _ => .error .unassignedFunction

/-- Major 0x22 (R72). -/
def decodeV22 (w : IWord) : Except DecodeError Instr :=
  match w.op4.toNat with
  | 0 => IWord.ifZero (!highBit w.f25) (.vcmpEq (lowMask w.f25) w.f20 w.f15 w.vmask w.vdt w.vxm)
  | 1 => IWord.ifZero (!highBit w.f25) (.vcmpNe (lowMask w.f25) w.f20 w.f15 w.vmask w.vdt w.vxm)
  | 2 => IWord.ifZero (!highBit w.f25) (.vcmpLt (lowMask w.f25) w.f20 w.f15 w.vmask w.vdt w.vxm)
  | 3 => IWord.ifZero (!highBit w.f25) (.vcmpLe (lowMask w.f25) w.f20 w.f15 w.vmask w.vdt w.vxm)
  | 4 => IWord.ifZero (!highBit w.f25) (.vcmpGt (lowMask w.f25) w.f20 w.f15 w.vmask w.vdt w.vxm)
  | 5 => IWord.ifZero (!highBit w.f25) (.vcmpGe (lowMask w.f25) w.f20 w.f15 w.vmask w.vdt w.vxm)
  | 6 => IWord.ifZero (!highBit w.f25) (.vcmpLtu (lowMask w.f25) w.f20 w.f15 w.vmask w.vdt w.vxm)
  | 7 => IWord.ifZero (!highBit w.f25) (.vcmpLeu (lowMask w.f25) w.f20 w.f15 w.vmask w.vdt w.vxm)
  | 8 => IWord.ifZero (!highBit w.f25) (.vcmpGtu (lowMask w.f25) w.f20 w.f15 w.vmask w.vdt w.vxm)
  | 9 => IWord.ifZero (!highBit w.f25) (.vcmpGeu (lowMask w.f25) w.f20 w.f15 w.vmask w.vdt w.vxm)
  | _ => .error .unassignedFunction

/-- Major 0x23 (R72). -/
def decodeV23 (w : IWord) : Except DecodeError Instr :=
  match w.op4.toNat with
  | 0 => IWord.ifZero (!highBit w.f25 && !highBit w.f20 && !highBit w.f15 && w.vmask == 0 && w.vdt == 0 && w.vxm == 0) (.mand (lowMask w.f25) (lowMask w.f20) (lowMask w.f15))
  | 1 => IWord.ifZero (!highBit w.f25 && !highBit w.f20 && !highBit w.f15 && w.vmask == 0 && w.vdt == 0 && w.vxm == 0) (.mor (lowMask w.f25) (lowMask w.f20) (lowMask w.f15))
  | 2 => IWord.ifZero (!highBit w.f25 && !highBit w.f20 && !highBit w.f15 && w.vmask == 0 && w.vdt == 0 && w.vxm == 0) (.mxor (lowMask w.f25) (lowMask w.f20) (lowMask w.f15))
  | 3 => IWord.ifZero (!highBit w.f25 && !highBit w.f20 && w.f15 == 0 && w.vmask == 0 && w.vdt == 0 && w.vxm == 0) (.mnot (lowMask w.f25) (lowMask w.f20))
  | 4 => IWord.ifZero (!highBit w.f20 && w.f15 == 0 && w.vmask == 0 && w.vdt == 0 && w.vxm == 0) (.mpopc w.f25 (lowMask w.f20))
  | 5 => IWord.ifZero (!highBit w.f20 && w.f15 == 0 && w.vmask == 0 && w.vdt == 0 && w.vxm == 0) (.mfirst w.f25 (lowMask w.f20))
  | 6 => IWord.ifZero (w.vdt == 0 && w.vxm == 0) (.vmerge w.f25 w.f20 w.f15 w.vmask)
  | 7 => IWord.ifZero (w.vdt == 0 && w.vxm == 0) (.vnzidx w.f25 w.f20 w.f15 w.vmask)
  | _ => .error .unassignedFunction

/-- Major 0x24 (R72). -/
def decodeV24 (w : IWord) : Except DecodeError Instr :=
  match w.op4.toNat with
  | 0 => IWord.ifZero (w.f15 == 0 && w.vdt == 0 && w.vxm == 0) (.vbcast w.f25 w.f20 w.vmask)
  | 1 => IWord.ifZero (w.vdt == 0 && w.vxm == 0) (.vslide w.f25 w.f20 w.f15 w.vmask)
  | 2 => IWord.ifZero (w.vdt == 0 && w.vxm == 0) (.vperm w.f25 w.f20 w.f15 w.vmask)
  | _ => .error .unassignedFunction

/-- Major 0x25 (R72). -/
def decodeV25 (w : IWord) : Except DecodeError Instr :=
  match w.op4.toNat with
  | 0 => IWord.ifZero (w.f15 == 0) (.vredsum w.f25 w.f20 w.vmask w.vdt w.vxm)
  | 1 => IWord.ifZero (w.f15 == 0 && w.vxm == 0) (.vredmin w.f25 w.f20 w.vmask w.vdt)
  | 2 => IWord.ifZero (w.f15 == 0 && w.vxm == 0) (.vredmax w.f25 w.f20 w.vmask w.vdt)
  | 3 => IWord.ifZero (w.vxm == 0) (.vredmini w.f25 w.f20 w.f15 w.vmask w.vdt)
  | _ => .error .unassignedFunction

/-- Major 0x27 (R73). -/
def decodeVcvt (w : IWord) : Except DecodeError Instr :=
  IWord.ifZero (!highBit w.f15 && w.bits 0 1 == 0) (.vcvt w.f25 w.f20 (lowMask w.f15) (w.bits 8 3) (w.bits 4 4) (w.bits 3 1) (w.bits 1 2))

/-- Major 0x28 (R74). -/
def decodeV28 (w : IWord) : Except DecodeError Instr :=
  match w.op4.toNat with
  | 0 => IWord.ifZero (w.vmode == 0 && w.f15 == 0) (.vld w.f25 w.f20 w.vmask)
  | 1 => IWord.ifZero (w.vmode == 0) (.vlds w.f25 w.f20 w.f15 w.vmask)
  | 2 => IWord.ifZero (w.vmode == 0) (.vldx w.f25 w.f20 w.f15 w.vmask)
  | 3 => IWord.ifZero (w.vmode == 0 && w.f15 == 0) (.vldff w.f25 w.f20 w.vmask)
  | _ => .error .unassignedFunction

/-- Major 0x29 (R74). -/
def decodeV29 (w : IWord) : Except DecodeError Instr :=
  match w.op4.toNat with
  | 0 => IWord.ifZero (w.vmode == 0 && w.f15 == 0) (.vst w.f25 w.f20 w.vmask)
  | 1 => IWord.ifZero (w.vmode == 0) (.vsts w.f25 w.f20 w.f15 w.vmask)
  | 2 => IWord.ifZero (w.vmode == 0) (.vstx w.f25 w.f20 w.f15 w.vmask)
  | 3 => IWord.ifZero (w.vmode == 0) (.vstxu w.f25 w.f20 w.f15 w.vmask)
  | _ => .error .unassignedFunction

/-- Major 0x2A (R74). -/
def decodeV2A (w : IWord) : Except DecodeError Instr :=
  match w.op4.toNat with
  | 0 => IWord.ifZero (w.vmode == 0) (.satld w.f25 w.f20 w.f15 w.vmask)
  | 1 => IWord.ifZero (w.vmode == 0) (.satst w.f25 w.f20 w.f15 w.vmask)
  | 2 => IWord.ifZero (w.vmode == 0 && w.f15 == 0 && w.vmask == 0) (.vspill w.f25 w.f20)
  | 3 => IWord.ifZero (w.vmode == 0 && w.f15 == 0 && w.vmask == 0) (.vfill w.f25 w.f20)
  | _ => .error .unassignedFunction

/-- Major 0x2C (R75). -/
def decodeVctl (w : IWord) : Except DecodeError Instr :=
  match (w.bits 14 2).toNat with
  | 0 => IWord.ifZero (w.bits 0 14 == 0) (.setvl w.f25 w.f20)
  | 1 => IWord.ifZero (w.f25 == 0 && w.f20 == 0 && w.bits 13 1 == 0) (.vcfg (w.bits 0 4) (w.bits 4 2) (w.bits 6 7))
  | 2 => IWord.ifZero (w.f25 == 0 && w.f20 == 0) (.vblk (w.bits 0 14))
  | _ => IWord.ifZero (w.f25 == 0) (.vloop w.f20 (w.bits 0 14))

/-- Major 0x2D (R75): src1 at [25:21], src2 at [20:16]. -/
def decodeVb (w : IWord) : Except DecodeError Instr :=
  match w.f20.toNat with
  | 0 => IWord.ifZero (!highBit w.f25) (.vb (lowMask w.f25) w.imm16)
  | 1 => IWord.ifZero (w.f25 == 0 && w.imm16 == 0) (.vstop)
  | _ => .error .unassignedFunction

/-- Major 0x2E (R77). -/
def decodePoly (w : IWord) : Except DecodeError Instr :=
  match w.op5.toNat with
  | 0 => IWord.ifZero (w.ps1 == 0 && w.ps2 == 0 && w.pmask == 0) (.psetd w.pd w.pvs)
  | 1 => IWord.ifZero (w.pd == 0 && w.ps2 == 0 && w.pmask == 0) (.psetvl w.pvs w.ps1)
  | 2 => IWord.ifZero (w.ps1 == 0 && w.ps2 == 0 && w.pmask == 0) (.pld w.pd w.pvs)
  | 3 => IWord.ifZero (w.pd == 0 && w.ps2 == 0 && w.pmask == 0) (.pst w.ps1 w.pvs)
  | 4 => IWord.ifZero (w.pvs == 0) (.padd w.pd w.ps1 w.ps2 w.pmask)
  | 5 => IWord.ifZero (w.pvs == 0) (.psub w.pd w.ps1 w.ps2 w.pmask)
  | 6 => IWord.ifZero (w.pvs == 0) (.pmul w.pd w.ps1 w.ps2 w.pmask)
  | 7 => IWord.ifZero (w.pvs == 0) (.pmulc w.pd w.ps1 w.ps2 w.pmask)
  | 8 => IWord.ifZero (w.ps2 == 0) (.pscal w.pd w.ps1 w.pvs w.pmask)
  | 9 => if w.ps2.toNat < 2 then IWord.ifZero (w.pvs == 0) (.pdiff w.pd w.ps1 (w.bits 14 1) w.pmask) else .error .operandConstraint
  | 10 => if w.ps2.toNat < 2 then IWord.ifZero (w.pvs == 0) (.pint w.pd w.ps1 (w.bits 14 1) w.pmask) else .error .operandConstraint
  | 11 => IWord.ifZero (w.pd == 0 && w.ps2 == 0) (.pintd w.pvs w.ps1 w.pmask)
  | 12 => IWord.ifZero (w.ps2 == 0 && w.bits 9 1 == 0) (.pproj w.pd w.ps1 (w.bits 5 4) w.pmask)
  | 13 => IWord.ifZero (w.ps2 == 0 && w.bits 9 1 == 0) (.plift w.pd w.ps1 (w.bits 5 4) w.pmask)
  | 14 => if w.ps2.toNat < 4 then .ok (.ptrace w.pd w.pvs w.ps1 (w.bits 14 2) w.pmask) else .error .operandConstraint
  | 15 => IWord.ifZero (w.pvs == 0) (.pfaceAvg w.pd w.ps1 w.ps2 w.pmask)
  | 16 => IWord.ifZero (w.pvs == 0) (.pfaceJump w.pd w.ps1 w.ps2 w.pmask)
  | 17 => .ok (.pfaceUp w.pd w.ps1 w.ps2 w.pvs w.pmask)
  | 18 => IWord.ifZero (w.pd == 0 && w.ps2 == 0) (.peval w.pvs w.ps1 w.pmask)
  | 19 => IWord.ifZero (w.pd == 0 && w.ps2 == 0) (.pevalb w.pvs w.ps1 w.pmask)
  | 20 => IWord.ifZero (w.pd == 0 && w.ps2 == 0) (.pevalx w.pvs w.ps1 w.pmask)
  | 21 => IWord.ifZero (w.ps2 == 0 && w.pvs == 0) (.pfit w.pd w.ps1 w.pmask)
  | 22 => IWord.ifZero (w.ps2 == 0 && w.pvs == 0) (.pnode w.pd w.ps1 w.pmask)
  | 23 => if w.ps2.toNat < 2 then IWord.ifZero (w.pvs == 0) (.pconv w.pd w.ps1 (w.bits 14 1) w.pmask) else .error .operandConstraint
  | _ => .error .unassignedFunction

/-- Major 0x32 (R78). -/
def decodeMatrix (w : IWord) : Except DecodeError Instr :=
  match w.op5.toNat with
  | 0 => IWord.ifZero (w.xvs2 == 0) (.mma w.zd w.xvs w.pmask w.afmt w.twin)
  | 1 => IWord.ifZero (w.twin == 0) (.mopa w.zd w.xvs w.xvs2 w.pmask w.afmt)
  | 2 => IWord.ifZero (w.twin == 0 && w.xvs == 0 && w.xvs2 == 0 && w.pmask == 0 && w.afmt == 0) (.zclr w.zd)
  | 3 => IWord.ifZero (w.twin == 0 && w.pmask == 0 && w.afmt == 0) (.zrd w.xvs w.zd w.xvs2)
  | 4 => IWord.ifZero (w.twin == 0 && w.pmask == 0 && w.afmt == 0) (.zwr w.zd w.xvs w.xvs2)
  | 5 => IWord.ifZero (w.twin == 0 && w.pmask == 0) (.zcvt w.xvs w.zd w.xvs2 w.afmt)
  | 6 => IWord.ifZero (w.twin == 0 && w.pmask == 0 && w.zd == 0) (.wload w.xvs w.xvs2 w.afmt)
  | 7 => IWord.ifZero (w.bits 5 21 == 0) (.wswap)
  | 8 => IWord.ifZero (w.xvs2 == 0 && w.pmask == 0) (.tgemm w.zd w.xvs w.afmt w.twin)
  | _ => .error .unassignedFunction

/-- Major 0x33 (R78). -/
def decodeTile (w : IWord) : Except DecodeError Instr :=
  match (w.bits 8 3).toNat with
  | 0 => IWord.ifZero (w.f15 == 0 && w.bits 6 2 == 0) (.talloc w.f25 (w.bits 0 6) w.f20)
  | 1 => IWord.ifZero (w.f25 == 0 && w.f20 == 0 && w.f15 == 0 && w.bits 6 2 == 0) (.tfree (w.bits 0 6))
  | 2 => IWord.ifZero (w.f20 == 0 && w.f15 == 0 && w.bits 6 2 == 0) (.tstate w.f25 (w.bits 0 6))
  | _ => .error .unassignedFunction

/-- Major 0x3E (R79). -/
def decodeLink (w : IWord) : Except DecodeError Instr :=
  if w.bits 0 1 == 0#1 then IWord.ifZero (w.bits 2 9 == 0) (.lsend w.f25 w.f20 w.f15 (w.bits 1 1))
  else IWord.ifZero (w.bits 2 9 == 0 && w.f15 == 0) (.lpoll w.f25 w.f20 (w.bits 1 1))

/-- Major 0x3F (R80). -/
def decodeHint (w : IWord) : Except DecodeError Instr :=
  if w.bits 0 26 == 0 then .ok .nop else .ok (.hint (w.bits 0 26))

/-- The fields of a word by its major opcode (R59), before the constraints of WellFormed. -/
def decodeFields (w : IWord) : Except DecodeError Instr :=
  match w.major.toNat with
  | 0x01 => decodeAlu w
  | 0x02 => .ok (.addi w.f25 w.f20 w.imm16)
  | 0x03 => .ok (.andi w.f25 w.f20 w.imm16)
  | 0x04 => .ok (.ori w.f25 w.f20 w.imm16)
  | 0x05 => .ok (.xori w.f25 w.f20 w.imm16)
  | 0x06 => decodeLih w
  | 0x07 => decodeLoad w
  | 0x08 => decodeStore w
  | 0x09 => .ok (.beq w.f25 w.f20 w.imm16)
  | 0x0a => .ok (.bne w.f25 w.f20 w.imm16)
  | 0x0b => .ok (.blt w.f25 w.f20 w.imm16)
  | 0x0c => .ok (.bge w.f25 w.f20 w.imm16)
  | 0x0d => .ok (.bltu w.f25 w.f20 w.imm16)
  | 0x0e => .ok (.bgeu w.f25 w.f20 w.imm16)
  | 0x0f => .ok (.jal w.f25 (w.bits 0 21))
  | 0x10 => decodeFp w
  | 0x11 => decodeFma w
  | 0x12 => decodeFcvt w
  | 0x14 => decodeCr w
  | 0x15 => decodeSys w
  | 0x16 => decodeTrap w
  | 0x17 => decodeFence w
  | 0x18 => decodeAmo w
  | 0x19 => decodeSync w
  | 0x1a => decodeVamo w
  | 0x1b => decodeSlup w
  | 0x1c => decodeQueue w
  | 0x1d => decodeCopy w
  | 0x20 => decodeV20 w
  | 0x21 => decodeV21 w
  | 0x22 => decodeV22 w
  | 0x23 => decodeV23 w
  | 0x24 => decodeV24 w
  | 0x25 => decodeV25 w
  | 0x27 => decodeVcvt w
  | 0x28 => decodeV28 w
  | 0x29 => decodeV29 w
  | 0x2a => decodeV2A w
  | 0x2c => decodeVctl w
  | 0x2d => decodeVb w
  | 0x2e => decodePoly w
  | 0x32 => decodeMatrix w
  | 0x33 => decodeTile w
  | 0x3e => decodeLink w
  | 0x3f => decodeHint w
  | _ => .error .unassignedMajor

/-- The instruction a word stands for, or why it is illegal (R81, R82). -/
def decode (w : IWord) : Except DecodeError Instr :=
  match decodeFields w with
  | .ok i => if i.wellFormed then .ok i else .error .operandConstraint
  | .error e => .error e

/-- A word from its four bytes, lowest address first (R18). -/
def wordOfBytes (b0 b1 b2 b3 : Byte) : IWord := b3 ++ b2 ++ b1 ++ b0

/-- The instruction at the head of a list of bytes, and the bytes after it (R18, R56). -/
def decodeBytes (l : List Byte) : Option (Except DecodeError Instr × List Byte) :=
  match l with
  | b0 :: b1 :: b2 :: b3 :: r => some (decode (wordOfBytes b0 b1 b2 b3), r)
  | _ => none

/-- The decoder on the bits of a row of spec/opcode_table.json: every row with a word has 32 bits, laid out as the
device stores it (the least significant byte at the lowest address, R18). -/
def decodeTableWord (nbits w : Nat) : Option Instr :=
  if nbits ≤ 32 then
    let x := BitVec.ofNat 32 (w % 2 ^ nbits)
    match decodeBytes [x.extractLsb' 0 8, x.extractLsb' 8 8, x.extractLsb' 16 8, x.extractLsb' 24 8] with
    | some (.ok i, _) => some i
    | _ => none
  else none

/-! The encoder: one packer a word format (R56). -/

def packA (mj : BitVec 6) (d a b : BitVec 5) (f : BitVec 11) : IWord := mj ++ d ++ a ++ b ++ f
def packI (mj : BitVec 6) (d a : BitVec 5) (imm : BitVec 16) : IWord := mj ++ d ++ a ++ imm
def packJ (mj : BitVec 6) (d : BitVec 5) (off : BitVec 21) : IWord := mj ++ d ++ off
def packV (mj : BitVec 6) (vd va vb : BitVec 5) (mk : BitVec 4) (dt : BitVec 1) (xm : BitVec 2) (op : BitVec 4) : IWord :=
  mj ++ vd ++ va ++ vb ++ mk ++ dt ++ xm ++ op
def packVM (mj : BitVec 6) (vd b x : BitVec 5) (mk : BitVec 4) (mode : BitVec 3) (op : BitVec 4) : IWord :=
  mj ++ vd ++ b ++ x ++ mk ++ mode ++ op
def packP (pd p1 p2 mk : BitVec 4) (vs op : BitVec 5) : IWord := 0x2E#6 ++ pd ++ p1 ++ p2 ++ mk ++ vs ++ op
def packX (zd : BitVec 2) (vs vs2 : BitVec 5) (mk af : BitVec 4) (tw : BitVec 1) (op : BitVec 5) : IWord :=
  0x32#6 ++ zd ++ vs ++ vs2 ++ mk ++ af ++ tw ++ op

/-- A register number of 4 bits in a 5-bit field (R57). -/
def wide (x : BitVec 4) : BitVec 5 := 0#1 ++ x
/-- Field values of 2 and 1 bits in a 4-bit field. -/
def wide2 (x : BitVec 2) : BitVec 4 := 0#2 ++ x
def wide1 (x : BitVec 1) : BitVec 4 := 0#3 ++ x

/-- The word of an instruction; `none` for a step of another agent, which has no word. -/
def encode (i : Instr) : Option IWord :=
  match i with
  | .add d a b => some (packA 0x01 d a b 0x000)
  | .sub d a b => some (packA 0x01 d a b 0x001)
  | .mul d a b => some (packA 0x01 d a b 0x002)
  | .mulh d a b => some (packA 0x01 d a b 0x003)
  | .div d a b => some (packA 0x01 d a b 0x004)
  | .divu d a b => some (packA 0x01 d a b 0x005)
  | .rem d a b => some (packA 0x01 d a b 0x006)
  | .remu d a b => some (packA 0x01 d a b 0x007)
  | .and d a b => some (packA 0x01 d a b 0x008)
  | .or d a b => some (packA 0x01 d a b 0x009)
  | .xor d a b => some (packA 0x01 d a b 0x00a)
  | .shl d a b => some (packA 0x01 d a b 0x00b)
  | .shr d a b => some (packA 0x01 d a b 0x00c)
  | .sra d a b => some (packA 0x01 d a b 0x00d)
  | .slt d a b => some (packA 0x01 d a b 0x00e)
  | .sltu d a b => some (packA 0x01 d a b 0x00f)
  | .min d a b => some (packA 0x01 d a b 0x010)
  | .minu d a b => some (packA 0x01 d a b 0x011)
  | .max d a b => some (packA 0x01 d a b 0x012)
  | .maxu d a b => some (packA 0x01 d a b 0x013)
  | .clz d a => some (packA 0x01 d a 0 0x014)
  | .ctz d a => some (packA 0x01 d a 0 0x015)
  | .popc d a => some (packA 0x01 d a 0 0x016)
  | .jalr d a => some (packA 0x01 d a 0 0x017)
  | .shli d a k => some (packA 0x01 d a 0 (1#2 ++ 0#2 ++ 0#1 ++ k))
  | .shri d a k => some (packA 0x01 d a 0 (1#2 ++ 1#2 ++ 0#1 ++ k))
  | .srai d a k => some (packA 0x01 d a 0 (1#2 ++ 2#2 ++ 0#1 ++ k))
  | .addi d a imm => some (packI 0x02 d a imm)
  | .andi d a imm => some (packI 0x03 d a imm)
  | .ori d a imm => some (packI 0x04 d a imm)
  | .xori d a imm => some (packI 0x05 d a imm)
  | .lih d imm h => some (packI 0x06 d (0#3 ++ h) imm)
  | .addpc d imm => some (packI 0x06 d 16 imm)
  | .lb d b off => some (packI 0x07 d b (off ++ 0#3))
  | .lh d b off => some (packI 0x07 d b (off ++ 1#3))
  | .lw d b off => some (packI 0x07 d b (off ++ 2#3))
  | .ld d b off => some (packI 0x07 d b (off ++ 3#3))
  | .lbu d b off => some (packI 0x07 d b (off ++ 4#3))
  | .lhu d b off => some (packI 0x07 d b (off ++ 5#3))
  | .lwu d b off => some (packI 0x07 d b (off ++ 6#3))
  | .sb x b off => some (packI 0x08 x b (off ++ 0#3))
  | .sh x b off => some (packI 0x08 x b (off ++ 1#3))
  | .sw x b off => some (packI 0x08 x b (off ++ 2#3))
  | .sd x b off => some (packI 0x08 x b (off ++ 3#3))
  | .beq a b off => some (packI 0x09 a b off)
  | .bne a b off => some (packI 0x0a a b off)
  | .blt a b off => some (packI 0x0b a b off)
  | .bge a b off => some (packI 0x0c a b off)
  | .bltu a b off => some (packI 0x0d a b off)
  | .bgeu a b off => some (packI 0x0e a b off)
  | .jal d off => some (packJ 0x0f d off)
  | .fadd d a b rm prec => some (packA 0x10 d a b (rm ++ prec ++ 0#3 ++ 0#4))
  | .fsub d a b rm prec => some (packA 0x10 d a b (rm ++ prec ++ 0#3 ++ 1#4))
  | .fmul d a b rm prec => some (packA 0x10 d a b (rm ++ prec ++ 0#3 ++ 2#4))
  | .fdiv d a b rm prec => some (packA 0x10 d a b (rm ++ prec ++ 0#3 ++ 3#4))
  | .fsqrt d a rm prec => some (packA 0x10 d a 0 (rm ++ prec ++ 0#3 ++ 4#4))
  | .fmin d a b prec => some (packA 0x10 d a b (0#3 ++ prec ++ 0#3 ++ 5#4))
  | .fmax d a b prec => some (packA 0x10 d a b (0#3 ++ prec ++ 0#3 ++ 6#4))
  | .fneg d a prec => some (packA 0x10 d a 0 (0#3 ++ prec ++ 0#3 ++ 7#4))
  | .fabs d a prec => some (packA 0x10 d a 0 (0#3 ++ prec ++ 0#3 ++ 8#4))
  | .feq d a b prec => some (packA 0x10 d a b (0#3 ++ prec ++ 0#3 ++ 9#4))
  | .flt d a b prec => some (packA 0x10 d a b (0#3 ++ prec ++ 0#3 ++ 10#4))
  | .fle d a b prec => some (packA 0x10 d a b (0#3 ++ prec ++ 0#3 ++ 11#4))
  | .fmadd a b c rm prec => some (packA 0x11 a b c (rm ++ prec ++ 0#6 ++ 0#1))
  | .fmsub a b c rm prec => some (packA 0x11 a b c (rm ++ prec ++ 0#6 ++ 1#1))
  | .fcvt d a rm dst src => some (packA 0x12 d a 0 (rm ++ dst ++ src))
  | .crr d n => some (packI 0x14 d 0 (0#4 ++ n))
  | .crw d a n => some (packI 0x14 d a (1#4 ++ n))
  | .crs d a n => some (packI 0x14 d a (2#4 ++ n))
  | .crc d a n => some (packI 0x14 d a (3#4 ++ n))
  | .rett => some (packA 0x15 0 0 0 0)
  | .idle => some (packA 0x15 0 0 0 1)
  | .savepin b l => some (packA 0x15 0 b l 2)
  | .asinv a v => some (packA 0x15 0 a v 3)
  | .pgprobe d a => some (packA 0x15 d a 0 4)
  | .timetbl d => some (packA 0x15 d 0 0 5)
  | .rcwait => some (packA 0x15 0 0 0 6)
  | .trap code => some (packI 0x16 0 0 code)
  | .fenceHart => some (packA 0x17 0 0 0 0x000)
  | .fenceCore => some (packA 0x17 0 0 0 0x001)
  | .fenceCluster => some (packA 0x17 0 0 0 0x002)
  | .fenceQuarter => some (packA 0x17 0 0 0 0x003)
  | .fenceDevice => some (packA 0x17 0 0 0 0x004)
  | .fenceSystem => some (packA 0x17 0 0 0 0x005)
  | .fenceSv => some (packA 0x17 0 0 0 0x100)
  | .fenceVs => some (packA 0x17 0 0 0 0x200)
  | .fencep p q => some (packA 0x17 0 0 0 (3#3 ++ 0#2 ++ p ++ q))
  | .wmset n a => some (packA 0x17 0 a 0 (4#3 ++ 0#5 ++ n))
  | .amoAdd d a b aq rl => some (packA 0x18 d a b (0#6 ++ rl ++ aq ++ 0#3))
  | .amoMin d a b aq rl => some (packA 0x18 d a b (0#6 ++ rl ++ aq ++ 1#3))
  | .amoMax d a b aq rl => some (packA 0x18 d a b (0#6 ++ rl ++ aq ++ 2#3))
  | .amoAnd d a b aq rl => some (packA 0x18 d a b (0#6 ++ rl ++ aq ++ 3#3))
  | .amoOr d a b aq rl => some (packA 0x18 d a b (0#6 ++ rl ++ aq ++ 4#3))
  | .amoXor d a b aq rl => some (packA 0x18 d a b (0#6 ++ rl ++ aq ++ 5#3))
  | .amoSwap d a b aq rl => some (packA 0x18 d a b (0#6 ++ rl ++ aq ++ 6#3))
  | .cas d a b aq rl => some (packA 0x18 d a b (0#6 ++ rl ++ aq ++ 7#3))
  | .binit a n => some (packA 0x19 0 a n 0)
  | .barrive a mk => some (packA 0x19 0 a (wide mk) 1)
  | .bwait d a => some (packA 0x19 d a 0 2)
  | .slate i b l => some (packA 0x19 i b l 3)
  | .smerge i => some (packA 0x19 0 i 0 4)
  | .lkdecl i b l => some (packA 0x19 i b l 5)
  | .lkstat d => some (packA 0x19 d 0 0 6)
  | .lksen d => some (packA 0x19 d 0 0 7)
  | .vamoAdd vd b vi mk aq rl => some (packVM 0x1a vd b vi mk (0#1 ++ rl ++ aq) 0)
  | .vamoMin vd b vi mk aq rl => some (packVM 0x1a vd b vi mk (0#1 ++ rl ++ aq) 1)
  | .vamoMax vd b vi mk aq rl => some (packVM 0x1a vd b vi mk (0#1 ++ rl ++ aq) 2)
  | .vamoAnd vd b vi mk aq rl => some (packVM 0x1a vd b vi mk (0#1 ++ rl ++ aq) 3)
  | .vamoOr vd b vi mk aq rl => some (packVM 0x1a vd b vi mk (0#1 ++ rl ++ aq) 4)
  | .vamoXor vd b vi mk aq rl => some (packVM 0x1a vd b vi mk (0#1 ++ rl ++ aq) 5)
  | .vamoSwap vd b vi mk aq rl => some (packVM 0x1a vd b vi mk (0#1 ++ rl ++ aq) 6)
  | .vamoCas vd b vi mk aq rl => some (packVM 0x1a vd b vi mk (0#1 ++ rl ++ aq) 7)
  | .vwaitEq vs b vi mk => some (packVM 0x1a vs b vi mk 0 8)
  | .vwaitNe vs b vi mk => some (packVM 0x1a vs b vi mk 0 9)
  | .vwaitLt vs b vi mk => some (packVM 0x1a vs b vi mk 0 10)
  | .vwaitGe vs b vi mk => some (packVM 0x1a vs b vi mk 0 11)
  | .vwaitLtu vs b vi mk => some (packVM 0x1a vs b vi mk 0 12)
  | .vwaitGeu vs b vi mk => some (packVM 0x1a vs b vi mk 0 13)
  | .sladd vs i vx mk => some (packVM 0x1b vs i vx mk 0 0)
  | .slmin vs i vx mk => some (packVM 0x1b vs i vx mk 0 1)
  | .slmax vs i vx mk => some (packVM 0x1b vs i vx mk 0 2)
  | .launch d desc q => some (packA 0x1c d desc q 0)
  | .gnode d desc => some (packA 0x1c d desc 0 1)
  | .qstate d q => some (packA 0x1c d q 0 2)
  | .strpush d st x => some (packA 0x1c d st x 3)
  | .strpop d st => some (packA 0x1c d st 0 4)
  | .hgive tb g => some (packA 0x1c 0 g 0 (tb ++ 5#5))
  | .htake d tb => some (packA 0x1c d 0 0 (tb ++ 6#5))
  | .cpy a b c => some (packA 0x1d a b c 0)
  | .cpyw a b c src dst => some (packA 0x1d a b c (dst ++ src ++ 1#3))
  | .pack a b c => some (packA 0x1d a b c 2)
  | .unpack a b c => some (packA 0x1d a b c 3)
  | .cpwait a => some (packA 0x1d a 0 0 4)
  | .vadd vd va vb mk dt xm => some (packV 0x20 vd va vb mk dt xm 0)
  | .vsub vd va vb mk dt xm => some (packV 0x20 vd va vb mk dt xm 1)
  | .vmul vd va vb mk dt xm => some (packV 0x20 vd va vb mk dt xm 2)
  | .vdiv vd va vb mk dt xm => some (packV 0x20 vd va vb mk dt xm 3)
  | .vmin vd va vb mk dt xm => some (packV 0x20 vd va vb mk dt xm 4)
  | .vmax vd va vb mk dt xm => some (packV 0x20 vd va vb mk dt xm 5)
  | .vand vd va vb mk dt => some (packV 0x20 vd va vb mk dt 0 6)
  | .vor vd va vb mk dt => some (packV 0x20 vd va vb mk dt 0 7)
  | .vxor vd va vb mk dt => some (packV 0x20 vd va vb mk dt 0 8)
  | .vshl vd va vb mk dt => some (packV 0x20 vd va vb mk dt 0 9)
  | .vshr vd va vb mk dt => some (packV 0x20 vd va vb mk dt 0 10)
  | .vsra vd va vb mk dt => some (packV 0x20 vd va vb mk dt 0 11)
  | .vmadd vd va vb mk dt xm => some (packV 0x20 vd va vb mk dt xm 12)
  | .vscale vd va vb mk dt xm => some (packV 0x20 vd va vb mk dt xm 13)
  | .vsqrt vd va mk dt xm => some (packV 0x21 vd va 0 mk dt xm 0)
  | .vabs vd va mk dt => some (packV 0x21 vd va 0 mk dt 0 1)
  | .vneg vd va mk dt => some (packV 0x21 vd va 0 mk dt 0 2)
  | .vpopc vd va mk dt => some (packV 0x21 vd va 0 mk dt 0 3)
  | .vmv vd va mk dt => some (packV 0x21 vd va 0 mk dt 0 4)
  | .vid vd mk dt => some (packV 0x21 vd 0 0 mk dt 0 5)
  | .vcmpEq md va vb mk dt xm => some (packV 0x22 (wide md) va vb mk dt xm 0)
  | .vcmpNe md va vb mk dt xm => some (packV 0x22 (wide md) va vb mk dt xm 1)
  | .vcmpLt md va vb mk dt xm => some (packV 0x22 (wide md) va vb mk dt xm 2)
  | .vcmpLe md va vb mk dt xm => some (packV 0x22 (wide md) va vb mk dt xm 3)
  | .vcmpGt md va vb mk dt xm => some (packV 0x22 (wide md) va vb mk dt xm 4)
  | .vcmpGe md va vb mk dt xm => some (packV 0x22 (wide md) va vb mk dt xm 5)
  | .vcmpLtu md va vb mk dt xm => some (packV 0x22 (wide md) va vb mk dt xm 6)
  | .vcmpLeu md va vb mk dt xm => some (packV 0x22 (wide md) va vb mk dt xm 7)
  | .vcmpGtu md va vb mk dt xm => some (packV 0x22 (wide md) va vb mk dt xm 8)
  | .vcmpGeu md va vb mk dt xm => some (packV 0x22 (wide md) va vb mk dt xm 9)
  | .mand md ma mb => some (packV 0x23 (wide md) (wide ma) (wide mb) 0 0 0 0)
  | .mor md ma mb => some (packV 0x23 (wide md) (wide ma) (wide mb) 0 0 0 1)
  | .mxor md ma mb => some (packV 0x23 (wide md) (wide ma) (wide mb) 0 0 0 2)
  | .mnot md ma => some (packV 0x23 (wide md) (wide ma) 0 0 0 0 3)
  | .mpopc d ma => some (packV 0x23 d (wide ma) 0 0 0 0 4)
  | .mfirst d ma => some (packV 0x23 d (wide ma) 0 0 0 0 5)
  | .vmerge vd va vb mk => some (packV 0x23 vd va vb mk 0 0 6)
  | .vnzidx vd va c mk => some (packV 0x23 vd va c mk 0 0 7)
  | .vbcast vd a mk => some (packV 0x24 vd a 0 mk 0 0 0)
  | .vslide vd va o mk => some (packV 0x24 vd va o mk 0 0 1)
  | .vperm vd va vi mk => some (packV 0x24 vd va vi mk 0 0 2)
  | .vredsum d va mk dt xm => some (packV 0x25 d va 0 mk dt xm 0)
  | .vredmin d va mk dt => some (packV 0x25 d va 0 mk dt 0 1)
  | .vredmax d va mk dt => some (packV 0x25 d va 0 mk dt 0 2)
  | .vredmini d va i mk dt => some (packV 0x25 d va i mk dt 0 3)
  | .vcvt vd va mk rm src dt xm => some (packA 0x27 vd va (wide mk) (rm ++ src ++ dt ++ xm ++ 0#1))
  | .vld vd b mk => some (packVM 0x28 vd b 0 mk 0 0)
  | .vlds vd b t mk => some (packVM 0x28 vd b t mk 0 1)
  | .vldx vd b vi mk => some (packVM 0x28 vd b vi mk 0 2)
  | .vldff vd b mk => some (packVM 0x28 vd b 0 mk 0 3)
  | .vst vs b mk => some (packVM 0x29 vs b 0 mk 0 0)
  | .vsts vs b t mk => some (packVM 0x29 vs b t mk 0 1)
  | .vstx vs b vi mk => some (packVM 0x29 vs b vi mk 0 2)
  | .vstxu vs b vi mk => some (packVM 0x29 vs b vi mk 0 3)
  | .satld vd b vi mk => some (packVM 0x2a vd b vi mk 0 0)
  | .satst vs b vi mk => some (packVM 0x2a vs b vi mk 0 1)
  | .vspill vs b => some (packVM 0x2a vs b 0 0 0 2)
  | .vfill vd b => some (packVM 0x2a vd b 0 0 0 3)
  | .setvl d a => some (packI 0x2c d a 0)
  | .vcfg fmt span klen => some (packI 0x2c 0 0 (1#2 ++ 0#1 ++ klen ++ span ++ fmt))
  | .vblk off => some (packI 0x2c 0 0 (2#2 ++ off))
  | .vloop a off => some (packI 0x2c 0 a (3#2 ++ off))
  | .vb mk off => some (packI 0x2d (wide mk) 0 off)
  | .vstop => some (packI 0x2d 0 1 0)
  | .psetd dd a => some (packP dd 0 0 0 a 0)
  | .psetvl g dd => some (packP 0 dd 0 0 g 1)
  | .pld pd b => some (packP pd 0 0 0 b 2)
  | .pst pa b => some (packP 0 pa 0 0 b 3)
  | .padd pd pa pb mk => some (packP pd pa pb mk 0 4)
  | .psub pd pa pb mk => some (packP pd pa pb mk 0 5)
  | .pmul pd pa pb mk => some (packP pd pa pb mk 0 6)
  | .pmulc pd pa pb mk => some (packP pd pa pb mk 0 7)
  | .pscal pd pa vs mk => some (packP pd pa 0 mk vs 8)
  | .pdiff pd pa dir mk => some (packP pd pa (wide1 dir) mk 0 9)
  | .pint pd pa dir mk => some (packP pd pa (wide1 dir) mk 0 10)
  | .pintd vd pa mk => some (packP 0 pa 0 mk vd 11)
  | .pproj pd pa deg mk => some (packP pd pa 0 mk (wide deg) 12)
  | .plift pd pa deg mk => some (packP pd pa 0 mk (wide deg) 13)
  | .ptrace pd vd pa face mk => some (packP pd pa (wide2 face) mk vd 14)
  | .pfaceAvg pd pa pb mk => some (packP pd pa pb mk 0 15)
  | .pfaceJump pd pa pb mk => some (packP pd pa pb mk 0 16)
  | .pfaceUp pd pa pb vu mk => some (packP pd pa pb mk vu 17)
  | .peval vd pa mk => some (packP 0 pa 0 mk vd 18)
  | .pevalb vd pa mk => some (packP 0 pa 0 mk vd 19)
  | .pevalx vd pa mk => some (packP 0 pa 0 mk vd 20)
  | .pfit pd pa mk => some (packP pd pa 0 mk 0 21)
  | .pnode pd pa mk => some (packP pd pa 0 mk 0 22)
  | .pconv pd pa basis mk => some (packP pd pa (wide1 basis) mk 0 23)
  | .mma zd vs mk afmt twin => some (packX zd vs 0 mk afmt twin 0)
  | .mopa zd va vb mk afmt => some (packX zd va vb mk afmt 0 1)
  | .zclr zd => some (packX zd 0 0 0 0 0 2)
  | .zrd vd zs r => some (packX zs vd r 0 0 0 3)
  | .zwr zd vs r => some (packX zd vs r 0 0 0 4)
  | .zcvt vd zs r afmt => some (packX zs vd r 0 afmt 0 5)
  | .wload o sc afmt => some (packX 0 o sc 0 afmt 0 6)
  | .wswap => some (packX 0 0 0 0 0 0 7)
  | .tgemm zd dsc afmt twin => some (packX zd dsc 0 0 afmt twin 8)
  | .talloc d tb sz => some (packA 0x33 d sz 0 (0#3 ++ 0#2 ++ tb))
  | .tfree tb => some (packA 0x33 0 0 0 (1#3 ++ 0#2 ++ tb))
  | .tstate d tb => some (packA 0x33 d 0 0 (2#3 ++ 0#2 ++ tb))
  | .lsend d pt a cls => some (packA 0x3e d pt a (0#9 ++ cls ++ 0#1))
  | .lpoll d a cls => some (packA 0x3e d a 0 (0#9 ++ cls ++ 1#1))
  | .nop => some (0xFC000000)
  | .hint h => some (0x3f#6 ++ h)
  | .hostFaultAnswer _ _ => none
  | .pageWalkComplete _ _ _ => none
  | .hostInvalidate _ _ => none
  | .hostMemAccess _ _ _ => none
  | .regionDeclare _ _ _ => none
  | .writeApply _ _ => none
  | .loadPerformed _ => none
  | .atomicAtHome _ => none
  | .watermarkStallEnd _ => none
  | .guardWindowRelease _ => none
  | .copyCommandStart _ _ => none
  | .copyCommandComplete _ _ => none
  | .tileWriterAccept _ _ => none
  | .tgemmStep _ => none
  | .arrayAcquire _ => none
  | .twinPairing _ => none
  | .pairingTimeout _ => none
  | .decodeTableReload _ _ => none
  | .strandWaitEnd _ => none
  | .woundDelivery _ => none
  | .locketCommit _ => none
  | .becomeIrrevocable _ => none
  | .teamStart _ _ => none
  | .kernelLoad _ _ => none
  | .kernelRetire _ _ => none
  | .queueEnable _ _ _ _ _ => none
  | .queueDisable _ => none
  | .queueReset _ => none
  | .queueResume _ => none
  | .hostRingSubmit _ _ => none
  | .ringEntryTake _ => none
  | .dispatcherGrant => none
  | .nodeComplete _ _ => none
  | .clusterSlotGrant _ => none
  | .stealMessage _ => none
  | .stealDelivery _ _ _ => none
  | .contextCreate _ _ _ _ _ _ _ => none
  | .contextSave _ => none
  | .saveComplete _ => none
  | .contextRestore _ => none
  | .contextTearDown _ => none
  | .contextTorn _ => none
  | .contextRelease _ => none
  | .resumeSave _ _ => none
  | .hostReleaseHart _ => none
  | .preemptionRequest _ _ => none
  | .forcedPreemption _ => none
  | .idleTimeBound _ => none
  | .recessStart _ _ => none
  | .drainWindowOpen => none
  | .recessEnd => none
  | .recessOverrunEnd => none
  | .powerStateEntry _ _ => none
  | .powerWake _ _ => none
  | .laneCapChange _ _ => none
  | .staggerLapse => none
  | .pwrctlSlewWrite _ => none
  | .pwrctlTolWrite _ => none
  | .pwrctlC2reqWrite _ => none
  | .deviceReset _ => none
  | .hostLinkTraining _ _ _ _ => none
  | .portEnable _ => none
  | .portTrained _ _ => none
  | .portTrainingTimeout _ => none
  | .portErrorThreshold _ => none
  | .partnerLost _ => none
  | .portQueueDiscard _ => none
  | .messageTransmit _ _ => none
  | .messageReceive _ _ _ => none
  | .putExecute _ _ _ _ => none
  | .sidebandFirmwareUpdate _ _ => none
  | .sidebandMonitoring => none
  | .sidebandRecordRead => none
  | .spdmAttestation _ => none
  | .illegalInstruction _ => none
  | .maintenanceWorkEnd => none
  | .gddr7RetrainingRequest _ => none
  | .mainSideDown => none

end Sys2Proof
end

