-- ==== Sys2Proof/Machine/Numbers.lean ====
section
/-! DEFINITION. Number formats, exact values, rounding and special values (02_numbers, R25-R52). Every value is an exact
fraction until it is rounded once. -/

namespace Sys2Proof.Machine

/-- The fifteen element and scale formats of R25. -/
inductive Fmt where
  | int8 | uint8 | int16 | int32 | int64 | fp16 | bf16 | fp32 | fp64 | e4m3 | e5m2 | e2m1 | l6 | e8m0 | s12
  deriving DecidableEq, Repr

/-- The format a code names; code 15 names none (R25, R26). -/
def Fmt.ofCode (c : BitVec 4) : Option Fmt :=
  [Fmt.int8, .uint8, .int16, .int32, .int64, .fp16, .bf16, .fp32, .fp64, .e4m3, .e5m2, .e2m1, .l6, .e8m0, .s12][c.toNat]?

/-- The code of a format (R25). -/
def Fmt.code : Fmt → BitVec 4
  | int8 => 0 | uint8 => 1 | int16 => 2 | int32 => 3 | int64 => 4 | fp16 => 5 | bf16 => 6 | fp32 => 7 | fp64 => 8
  | e4m3 => 9 | e5m2 => 10 | e2m1 => 11 | l6 => 12 | e8m0 => 13 | s12 => 14

/-- Container width in a vector register, in bits (R25). -/
def Fmt.width : Fmt → Nat
  | int8 | uint8 | e4m3 | e5m2 | e2m1 | l6 | e8m0 => 8
  | int16 | fp16 | bf16 | s12 => 16
  | int32 | fp32 => 32
  | int64 | fp64 => 64

/-- Value bits in the container (R25). -/
def Fmt.vbits : Fmt → Nat
  | e2m1 => 4 | l6 => 6 | s12 => 12 | f => f.width

/-- The integer formats (R28). -/
def Fmt.isInt : Fmt → Bool
  | int8 | uint8 | int16 | int32 | int64 => true
  | _ => false

/-- FP16, BF16, FP32 and FP64 (R29). -/
def Fmt.isIeee : Fmt → Bool
  | fp16 | bf16 | fp32 | fp64 => true
  | _ => false

/-- Formats whose values have a sign bit above a magnitude (R29, R32). -/
def Fmt.isFloat : Fmt → Bool
  | fp16 | bf16 | fp32 | fp64 | e4m3 | e5m2 | e2m1 => true
  | _ => false

/-- Keep the low `n` bits of an element code. -/
def lowBits (n : Nat) (e : Elem) : Elem := BitVec.ofNat 64 (e.toNat % 2 ^ n)

/-- A code as a two's-complement integer of `n` bits. -/
def signedOf (n : Nat) (e : Elem) : Int :=
  let v := e.toNat % 2 ^ n
  if v < 2 ^ (n - 1) then (v : Int) else (v : Int) - (2 ^ n : Nat)

/-- An integer wrapped to the low `n` bits (R28). -/
def wrapInt (n : Nat) (x : Int) : Elem := BitVec.ofNat 64 ((x % (2 ^ n : Nat)).toNat)

/-- The range of an integer format (R28). -/
def Fmt.intRange (f : Fmt) : Int × Int :=
  match f with
  | .uint8 => (0, 255)
  | _ => (-(2 ^ (f.width - 1) : Nat), (2 ^ (f.width - 1) : Nat) - 1)

/-- An element of an integer format as an integer (R28). -/
def intVal (f : Fmt) (e : Elem) : Int :=
  match f with
  | .uint8 => (e.toNat % 256 : Nat)
  | _ => signedOf f.width e

/-! Exception flags, in the order of fmode[9:5]: invalid, divide-by-zero, overflow, underflow, inexact (R43, R52). -/

abbrev FlagSet := BitVec 5
def fNone : FlagSet := 0
def fInvalid : FlagSet := 1
def fDivZero : FlagSet := 2
def fOverflow : FlagSet := 4
def fUnderflow : FlagSet := 8
def fInexact : FlagSet := 16

/-- Rounding modes (R44). -/
inductive Rm where
  | rne | rtz | rdn | rup | rto
  deriving DecidableEq, Repr

/-- The mode of `fmode.rm` (R43). -/
def Rm.ofField (b : BitVec 2) : Rm :=
  match b.toNat with
  | 0 => .rne | 1 => .rtz | 2 => .rdn | _ => .rup

/-- What rounding an operation reads: the mode in force, `fmode.sat` and `fmode.nanp` (R43, R44). -/
structure Env where
  rm : Rm
  sat : Bool
  nanp : Bool
  deriving DecidableEq, Repr

/-- An exact fraction; the denominator is positive. -/
structure Q where
  num : Int
  den : Nat
  deriving DecidableEq, Repr

/-- A whole number as a fraction. -/
def Q.ofInt (n : Int) : Q := ⟨n, 1⟩
/-- Sum; equal or dividing denominators are kept small, which leaves the value as it is. -/
def Q.add (a b : Q) : Q :=
  if a.den = b.den then ⟨a.num + b.num, a.den⟩
  else if a.den % b.den = 0 then ⟨a.num + b.num * (a.den / b.den : Nat), a.den⟩
  else if b.den % a.den = 0 then ⟨a.num * (b.den / a.den : Nat) + b.num, b.den⟩
  else ⟨a.num * b.den + b.num * a.den, a.den * b.den⟩
def Q.neg (a : Q) : Q := ⟨-a.num, a.den⟩
def Q.sub (a b : Q) : Q := a.add b.neg
def Q.mul (a b : Q) : Q := ⟨a.num * b.num, a.den * b.den⟩
/-- Quotient by a non-zero fraction. -/
def Q.div (a b : Q) : Q :=
  if b.num < 0 then ⟨-(a.num * b.den), a.den * b.num.natAbs⟩ else ⟨a.num * b.den, a.den * b.num.natAbs⟩
/-- The sum of a list of fractions. -/
def Q.sum (l : List Q) : Q := l.foldl Q.add ⟨0, 1⟩
/-- `2 ^ e` for any exponent. -/
def Q.pow2 (e : Int) : Q := if 0 ≤ e then ⟨(2 ^ e.toNat : Nat), 1⟩ else ⟨1, 2 ^ (-e).toNat⟩
/-- The order of fractions. -/
def Q.lt (a b : Q) : Bool := a.num * b.den < b.num * a.den
def Q.eqv (a b : Q) : Bool := a.num * b.den == b.num * a.den

/-- The exponent of the leading bit of `n / d`, `n` and `d` positive. -/
def ilog2 (n d : Nat) : Int :=
  let e : Int := (Nat.log2 n : Int) - (Nat.log2 d : Int)
  let below := if 0 ≤ e then n < d <<< e.toNat else n <<< (-e).toNat < d
  if below then e - 1 else e

/-- `n / d` as a whole number of units of `2 ^ q`, rounded under `rm` for the sign given, and whether it was inexact (R44). -/
def quantise (rm : Rm) (neg : Bool) (n d : Nat) (q : Int) : Nat × Bool :=
  let a := if 0 ≤ q then n else n <<< (-q).toNat
  let b := if 0 ≤ q then d <<< q.toNat else d
  let m := a / b
  let r := a % b
  if r = 0 then (m, false)
  else
    (match rm with
      | .rne => if b < 2 * r || (2 * r == b && m % 2 == 1) then m + 1 else m
      | .rtz => m
      | .rdn => if neg then m + 1 else m
      | .rup => if neg then m else m + 1
      | .rto => if m % 2 == 0 then m + 1 else m,
     true)

/-- Parameters of a binary format: fraction bits, bias, code of the largest finite magnitude, sign bit if there is one
(R29, R32, R42). -/
structure BinFmt where
  frac : Nat
  bias : Int
  maxCode : Nat
  sign : Nat
  deriving DecidableEq, Repr

/-- The parameters of the formats with a fraction field; the others never use them. -/
def Fmt.bin : Fmt → BinFmt
  | .fp64 => ⟨52, 1023, 0x7FEFFFFFFFFFFFFF, 63⟩
  | .fp32 => ⟨23, 127, 0x7F7FFFFF, 31⟩
  | .fp16 => ⟨10, 15, 0x7BFF, 15⟩
  | .bf16 => ⟨7, 127, 0x7F7F, 15⟩
  | .e4m3 => ⟨3, 7, 0x7E, 7⟩
  | .e5m2 => ⟨2, 15, 0x7B, 7⟩
  | .e2m1 => ⟨1, 1, 7, 3⟩
  | .s12 => ⟨4, 127, 0xFEF, 64⟩
  | .l6 => ⟨0, 0, 0x0F, 5⟩
  | .e8m0 => ⟨0, 127, 0xFE, 64⟩
  | _ => ⟨0, 0, 0, 64⟩

/-- A magnitude code with its sign bit. -/
def withSign (f : Fmt) (neg : Bool) (mag : Nat) : Elem :=
  BitVec.ofNat 64 (if neg && f.bin.sign < 64 then mag + 2 ^ f.bin.sign else mag)

/-- The canonical NaN (R29, R32, R34, R35, R42); formats without a NaN give 0 (R46 step 2). -/
def canonNaN : Fmt → Elem
  | .fp64 => 0x7FF8000000000000
  | .fp32 => 0x7FC00000
  | .fp16 => 0x7E00
  | .bf16 => 0x7FC0
  | .e4m3 => 0x7F
  | .e5m2 => 0x7E
  | .l6 => 0x30
  | .e8m0 => 0xFF
  | .s12 => 0xFFF
  | _ => 0

/-- The code of +infinity (R29, R32). -/
def infCode : Fmt → Nat
  | .fp64 => 0x7FF0000000000000
  | .fp32 => 0x7F800000
  | .fp16 => 0x7C00
  | .bf16 => 0x7F80
  | .e5m2 => 0x7C
  | _ => 0

def Fmt.hasInf : Fmt → Bool
  | .fp64 | .fp32 | .fp16 | .bf16 | .e5m2 => true
  | _ => false

/-- What an element means: a NaN with its sign, its payload left-aligned in 52 bits and whether it signals (R30, R47); an
infinity; or a sign and an exact magnitude `n / d`. -/
inductive Num where
  | nan (signal neg : Bool) (payload : Nat)
  | inf (neg : Bool)
  | fin (neg : Bool) (n d : Nat)
  deriving DecidableEq, Repr

/-- The fixed L6 table T (R36). -/
def l6T (k : Nat) : Nat :=
  match k with
  | 0 => 32768 | 1 => 38968 | 2 => 46341 | _ => 55109

/-- The table value of log code `l`, a positive fraction (R36). -/
def l6Val (l : Int) : Q := (Q.ofInt (l6T (l % 4).toNat)).mul (Q.pow2 (l / 4 - 15))

/-- The log code of an L6 element, -16 to 15 (R35). -/
def l6Log (e : Elem) : Int := signedOf 5 e
def l6Sign (e : Elem) : Bool := e.getLsbD 5

/-- A code of a binary format with its exponent and fraction fields (R30, R32, R42). -/
def decodeBin (f : Fmt) (e : Elem) : Num :=
  let p := f.bin
  let c := e.toNat % 2 ^ f.vbits
  let neg := p.sign < 64 && c / 2 ^ p.sign % 2 == 1
  let mag := if p.sign < 64 then c % 2 ^ p.sign else c
  let fr := mag % 2 ^ p.frac
  let ex := mag / 2 ^ p.frac
  if mag ≤ p.maxCode then
    let m := if ex = 0 then fr else 2 ^ p.frac + fr
    let q : Int := (if ex = 0 then 1 else (ex : Int)) - p.bias - p.frac
    if 0 ≤ q then .fin neg (m <<< q.toNat) 1 else .fin neg m (2 ^ (-q).toNat)
  else if f.hasInf && fr == 0 then .inf neg
  else .nan (f.isIeee && fr < 2 ^ (p.frac - 1)) neg
    (if f.isIeee || f == .e5m2 then fr <<< (52 - p.frac) else 2 ^ 51)

/-- What an element of a format means (R27-R42). -/
def decodeNum (f : Fmt) (e : Elem) : Num :=
  if f.isInt then
    let v := intVal f e
    .fin (v < 0) v.natAbs 1
  else
    match f with
    | .l6 =>
      if e.toNat % 64 = 0x30 then .nan false true (2 ^ 51)
      else if e.toNat % 64 = 0x10 then .fin false 0 1
      else
        let v := l6Val (l6Log e)
        .fin (l6Sign e) v.num.natAbs v.den
    | .e8m0 =>
      let c := e.toNat % 256
      if c = 255 then .nan false false (2 ^ 51)
      else
        let v := Q.pow2 ((c : Int) - 127)
        .fin false v.num.natAbs v.den
    | _ => decodeBin f e

/-- The exact signed value of a finite number; 0 for the others, which are settled before. -/
def Num.q : Num → Q
  | .fin neg n d => ⟨if neg then -(n : Int) else n, d⟩
  | _ => ⟨0, 1⟩
def Num.isNaN : Num → Bool
  | .nan _ _ _ => true
  | _ => false
def Num.isSignal : Num → Bool
  | .nan s _ _ => s
  | _ => false
def Num.isInf : Num → Bool
  | .inf _ => true
  | _ => false
def Num.isZero : Num → Bool
  | .fin _ n _ => n == 0
  | _ => false
def Num.neg : Num → Bool
  | .nan _ s _ => s
  | .inf s => s
  | .fin s _ _ => s
/-- The number with the other sign. -/
def Num.negate : Num → Num
  | .nan g s p => .nan g s p
  | .inf s => .inf (!s)
  | .fin s n d => .fin (!s) n d

/-- The NaN result of format `f` that carries an operand's payload (R47). -/
def nanResult (f : Fmt) (nanp neg : Bool) (payload : Nat) : Elem :=
  if nanp then
    if f.isIeee then
      let p := f.bin
      let fr := payload >>> (52 - p.frac)
      withSign f neg (infCode f + (if fr < 2 ^ (p.frac - 1) then fr + 2 ^ (p.frac - 1) else fr))
    else if f == .e4m3 || f == .e5m2 then withSign f neg (canonNaN f).toNat
    else canonNaN f
  else canonNaN f

/-- A finite result that overflows, or an infinite result, under the column of `rm` (R45). -/
def overflowResult (f : Fmt) (sat : Bool) (rm : Rm) (neg : Bool) : Elem :=
  let mx := withSign f neg f.bin.maxCode
  let top := if f.hasInf then withSign f neg (infCode f) else if f == .e4m3 then withSign f neg 0x7F else canonNaN f
  if sat || f == .e2m1 then mx
  else
    match rm with
    | .rne => top
    | .rtz | .rto => mx
    | .rdn => if neg then top else mx
    | .rup => if neg then mx else top

/-- A zero result with its sign; L6, E8M0 and S12 have one zero or none (R35, R40, R51). -/
def zeroResult (f : Fmt) (neg : Bool) : Elem :=
  if f == .l6 then 0x10 else if f.isFloat then withSign f neg 0 else 0

/-- Round a magnitude to a format with a fraction field (R44): tininess is judged after rounding with an unbounded
exponent. -/
def roundBin (f : Fmt) (env : Env) (neg : Bool) (n d : Nat) : Elem × FlagSet :=
  let p := f.bin
  let e := ilog2 n d
  let qmin : Int := 1 - p.bias - p.frac
  let q := max (e - p.frac) qmin
  let (m, inexact) := quantise env.rm neg n d q
  let mag := (q - qmin).toNat * 2 ^ p.frac + m
  if p.maxCode < mag then (overflowResult f env.sat env.rm neg, fOverflow ||| fInexact)
  else
    let u := (quantise env.rm neg n d (e - p.frac)).1
    let tiny := e + (if u < 2 ^ (p.frac + 1) then 0 else 1) < 1 - p.bias
    (withSign f neg mag, (if inexact then fInexact else fNone) ||| (if tiny && inexact then fUnderflow else fNone))

/-- The largest log code from -16 (zero) to 16 whose table value is not above `n / d` (R40). -/
def l6Below (n d : Nat) (k : Nat) : Int :=
  match k with
  | 0 => -16
  | k + 1 =>
    let l : Int := (k : Int) - 15
    let v := l6Val l
    if v.num.natAbs * d ≤ n * v.den then l else l6Below n d k

/-- The log code next to `n / d` between `l`, whose value is `lo`, and `l + 1`, whose value is `hi` (R40). -/
def l6Pick (rm : Rm) (neg : Bool) (x lo hi : Q) (l : Int) : Int :=
  if x.eqv lo then l
  else
    match rm with
    | .rtz | .rto => l
    | .rdn => if neg then l + 1 else l
    | .rup => if neg then l else l + 1
    | .rne =>
      let twice := x.add x
      let mid := lo.add hi
      if twice.lt mid then l
      else if mid.lt twice then l + 1
      else if l % 2 = 0 then l else l + 1

/-- Round a positive magnitude to L6 (R40); tininess is judged against the table continued one step below V(-15). -/
def roundL6 (env : Env) (neg : Bool) (n d : Nat) : Elem × FlagSet :=
  let x : Q := ⟨n, d⟩
  let lo := l6Below n d 32
  if lo = 16 then (overflowResult .l6 env.sat env.rm neg, fOverflow ||| fInexact)
  else
    let vlo := if lo = -16 then ⟨0, 1⟩ else l6Val lo
    let l := l6Pick env.rm neg x vlo (l6Val (lo + 1)) lo
    if l = 16 then (overflowResult .l6 env.sat env.rm neg, fOverflow ||| fInexact)
    else
      let inexact := l = -16 || !x.eqv (l6Val l)
      let tiny := x.lt (l6Val (-15)) &&
        !(!x.lt (l6Val (-16)) && l6Pick env.rm neg x (l6Val (-16)) (l6Val (-15)) (-16) == -15)
      let code : Elem := if l = -16 then 0x10 else wrapInt 5 l ||| (if neg then 0x20 else 0)
      (code, (if inexact then fInexact else fNone) ||| (if tiny && inexact then fUnderflow else fNone))

/-- Round a positive magnitude to E8M0 (R51): a tie goes to the even code, anything below 2^-127 to 0x00. -/
def roundE8M0 (env : Env) (n d : Nat) : Elem × FlagSet :=
  if n <<< 127 < d then (0, fUnderflow ||| fInexact)
  else
    let e := ilog2 n d
    let p := Q.pow2 e
    let code := (e + 127).toNat
    let twice := 2 * n * p.den
    let three := 3 * p.num.natAbs * d
    let exact := n * p.den == p.num.natAbs * d
    let up := match env.rm with
      | .rne => three < twice || (twice == three && code % 2 == 1)
      | .rup => !exact
      | _ => false
    let c := if up then code + 1 else code
    if 254 < c then (overflowResult .e8m0 env.sat env.rm false, fOverflow ||| fInexact)
    else (BitVec.ofNat 64 c, if exact then fNone else fInexact)

/-- Round an exact value to an integer format: out of range gives the nearest end and invalid (R50), and invalid alone: whether R52's inexact row applies
beside it to a value with a fraction the spec leaves open (DESIGN CHOICE, log 54). -/
def roundInt (f : Fmt) (rm : Rm) (x : Q) : Elem × FlagSet :=
  let neg := x.num < 0
  let (m, inexact) := quantise rm neg x.num.natAbs x.den 0
  let v : Int := if neg then -(m : Int) else m
  let r := f.intRange
  if v < r.1 then (wrapInt f.width r.1, fInvalid)
  else if r.2 < v then (wrapInt f.width r.2, fInvalid)
  else (wrapInt f.width v, if inexact then fInexact else fNone)

/-- Round the exact value `x` to a floating, L6 or scale format; `zneg` is the sign of an exact zero (R40, R44, R51). -/
def roundQ (f : Fmt) (env : Env) (x : Q) (zneg : Bool) : Elem × FlagSet :=
  if f.isInt then roundInt f env.rm x
  else if x.num = 0 then
    if f == .e8m0 then (0, fUnderflow ||| fInexact) else (zeroResult f zneg, fNone)
  else
    let neg := x.num < 0
    match f with
    | .l6 => roundL6 env neg x.num.natAbs x.den
    | .e8m0 => if neg then (0xFF, fInvalid) else roundE8M0 env x.num.natAbs x.den
    | .s12 => if neg then (0xFFF, fInvalid) else roundBin .s12 env false x.num.natAbs x.den
    | _ => roundBin f env neg x.num.natAbs x.den

/-! Settling an element (R46). -/

/-- The first NaN of the operands, in order. -/
def firstNaN (l : List Num) : Option Num := l.find? Num.isNaN

/-- The NaN result of operands of which one is NaN, and invalid if one signals (R46 step 1, R47). -/
def settleNaN (f : Fmt) (env : Env) (l : List Num) : Elem × FlagSet :=
  (match firstNaN l with
    | some (.nan _ neg p) => nanResult f env.nanp neg p
    | _ => canonNaN f,
   if l.any Num.isSignal then fInvalid else fNone)

/-- An infinite result that an infinite input yields: the RNE column, no flag (R45). -/
def infFromInput (f : Fmt) (env : Env) (neg : Bool) : Elem × FlagSet := (overflowResult f env.sat .rne neg, fNone)

/-- An invalid operation (R46 step 2). -/
def invalidResult (f : Fmt) : Elem × FlagSet := (canonNaN f, fInvalid)

/-- The sign of an exact zero sum of terms with these signs (R44). -/
def zeroSumSign (rm : Rm) (signs : List Bool) : Bool :=
  if signs.isEmpty then false
  else if signs.all id then true
  else if signs.all not then false
  else rm == .rdn

/-- Sum of two numbers that are not NaN, rounded once (R44-R46). -/
def addNum (f : Fmt) (env : Env) (a b : Num) : Elem × FlagSet :=
  if a.isInf || b.isInf then
    if a.isInf && b.isInf && a.neg != b.neg then invalidResult f
    else infFromInput f env (if a.isInf then a.neg else b.neg)
  else
    roundQ f env (a.q.add b.q)
      (if a.isZero && b.isZero then zeroSumSign env.rm [a.neg, b.neg] else env.rm == .rdn)

/-- Product of two numbers that are not NaN (R44-R46). -/
def mulNum (f : Fmt) (env : Env) (a b : Num) : Elem × FlagSet :=
  let s := a.neg != b.neg
  if a.isInf || b.isInf then
    if a.isZero || b.isZero then invalidResult f else infFromInput f env s
  else roundQ f env (a.q.mul b.q) s

/-- Quotient of two numbers that are not NaN (R44-R46). -/
def divNum (f : Fmt) (env : Env) (a b : Num) : Elem × FlagSet :=
  let s := a.neg != b.neg
  if a.isInf then (if b.isInf then invalidResult f else infFromInput f env s)
  else if b.isInf then (zeroResult f s, fNone)
  else if b.isZero then
    if a.isZero then invalidResult f else (overflowResult f env.sat env.rm s, fDivZero)
  else roundQ f env (a.q.div b.q) s

/-- `a * b + c` with one rounding, `neg` negating the product; no operand is NaN (R44-R46, R99). -/
def fmaNum (f : Fmt) (env : Env) (neg : Bool) (a b c : Num) : Elem × FlagSet :=
  let s := (a.neg != b.neg) != neg
  if a.isInf || b.isInf then
    if a.isZero || b.isZero then invalidResult f
    else if c.isInf && c.neg != s then invalidResult f
    else infFromInput f env s
  else if c.isInf then infFromInput f env c.neg
  else
    let p := a.q.mul b.q
    let p := if neg then p.neg else p
    roundQ f env (p.add c.q)
      (if p.num = 0 && c.isZero then zeroSumSign env.rm [s, c.neg] else env.rm == .rdn)

/-- Integer square root, bit by bit from bit `k - 1` down. -/
def isqrtBits (n : Nat) (k r : Nat) : Nat :=
  match k with
  | 0 => r
  | k + 1 => if (r + 2 ^ k) * (r + 2 ^ k) ≤ n then isqrtBits n k (r + 2 ^ k) else isqrtBits n k r

/-- The integer square root. -/
def isqrt (n : Nat) : Nat := isqrtBits n (Nat.log2 n / 2 + 1) 0

/-- A fraction that rounds, in every format and mode here, as the square root of `n / d` does; `d` is a power of two. An
inexact root is replaced by the midpoint of the interval of width 2^-64 of its last place that holds it. -/
def sqrtQ (n d : Nat) : Q :=
  let t := Nat.log2 d
  let n' := if t % 2 = 1 then 2 * n else n
  let t' := (t + 1) / 2
  let r := isqrt (n' * 4 ^ 64)
  if r * r = n' * 4 ^ 64 then ⟨r, 2 ^ (64 + t')⟩ else ⟨2 * r + 1, 2 ^ (65 + t')⟩

/-- Square root (R46): a number below -0 is invalid, the root of -0 is -0. -/
def sqrtNum (f : Fmt) (env : Env) (a : Num) : Elem × FlagSet :=
  match a with
  | .fin neg n d =>
    if n = 0 then (zeroResult f neg, fNone)
    else if neg then invalidResult f
    else roundQ f env (sqrtQ n d) false
  | .inf neg => if neg then invalidResult f else infFromInput f env false
  | .nan _ _ _ => settleNaN f env [a]

/-- Two-operand floating arithmetic. -/
inductive Arith where
  | add | sub | mul | div
  deriving DecidableEq, Repr

/-- A floating result by R44-R47 for codes of format `f`. -/
def fpArith (op : Arith) (f : Fmt) (env : Env) (x y : Elem) : Elem × FlagSet :=
  let a := decodeNum f x
  let b := decodeNum f y
  if a.isNaN || b.isNaN then settleNaN f env [a, b]
  else
    match op with
    | .add => addNum f env a b
    | .sub => addNum f env a b.negate
    | .mul => mulNum f env a b
    | .div => divNum f env a b

/-- `x * y + z`, or `z - x * y`, rounded once; a NaN among the factors comes before a NaN addend (R99, R122). -/
def fpFma (f : Fmt) (env : Env) (neg : Bool) (x y z : Elem) : Elem × FlagSet :=
  let a := decodeNum f x
  let b := decodeNum f y
  let c := decodeNum f z
  if a.isNaN || b.isNaN || c.isNaN then settleNaN f env [a, b, c] else fmaNum f env neg a b c

def fpSqrt (f : Fmt) (env : Env) (x : Elem) : Elem × FlagSet := sqrtNum f env (decodeNum f x)

/-- The order of numbers that are not NaN, infinities included; the two zeros are equal. -/
def numLt (a b : Num) : Bool :=
  match a, b with
  | .inf s, .inf t => s && !t
  | .inf s, _ => s
  | _, .inf t => !t
  | _, _ => a.q.lt b.q
def numEq (a b : Num) : Bool :=
  match a, b with
  | .inf s, .inf t => s == t
  | .inf _, _ => false
  | _, .inf _ => false
  | _, _ => a.q.eqv b.q

/-- Strictly below, with -0 below +0 (R99, R122). -/
def numBelow (a b : Num) : Bool := numLt a b || (numEq a b && a.neg && !b.neg)

/-- An operand that a form selects: an infinity is an infinite result that an infinite input yields (R45). -/
def selected (f : Fmt) (env : Env) (e : Elem) : Elem × FlagSet :=
  match decodeNum f e with
  | .inf neg => infFromInput f env neg
  | _ => (lowBits f.vbits e, fNone)

/-- Smaller (`mx = false`) or larger of two floating elements, a selection without rounding (R45, R99). -/
def fpMinMax (mx : Bool) (f : Fmt) (env : Env) (x y : Elem) : Elem × FlagSet :=
  let a := decodeNum f x
  let b := decodeNum f y
  if a.isNaN || b.isNaN then settleNaN f env [a, b]
  else selected f env (if (if mx then numBelow a b else numBelow b a) then y else x)

/-- Clear or invert the sign bit, a NaN too, without flags (R99, R126). -/
def fpAbs (f : Fmt) (x : Elem) : Elem := lowBits (f.vbits - 1) x
def fpNeg (f : Fmt) (x : Elem) : Elem := lowBits f.vbits x ^^^ BitVec.ofNat 64 (2 ^ (f.vbits - 1))

/-! Integer elements (R28, R122, R123). -/

/-- Wrap an exact integer result, or clamp it under `fmode.sat` with overflow (R28). -/
def intResult (f : Fmt) (sat : Bool) (x : Int) : Elem × FlagSet :=
  let r := f.intRange
  if sat && x < r.1 then (wrapInt f.width r.1, fOverflow)
  else if sat && r.2 < x then (wrapInt f.width r.2, fOverflow)
  else (wrapInt f.width x, fNone)

/-- Integer quotient toward zero; a zero divisor gives -1 or 255 and divide-by-zero (R123). -/
def intDiv (f : Fmt) (sat : Bool) (x y : Int) : Elem × FlagSet :=
  if y = 0 then (wrapInt f.width (-1), fDivZero) else intResult f sat (x.tdiv y)

/-! L6 elements (R38). -/

/-- The L6 element of a sign and a log code out of any range (R38). -/
def l6Result (env : Env) (neg : Bool) (l : Int) : Elem × FlagSet :=
  if 15 < l then (overflowResult .l6 env.sat env.rm neg, fOverflow ||| fInexact)
  else if l < -15 then
    let away := (env.rm == .rdn && neg) || (env.rm == .rup && !neg)
    (if away then (if neg then 0x31 else 0x11) else 0x10, fUnderflow ||| fInexact)
  else (wrapInt 5 l ||| (if neg then 0x20 else 0), fNone)

def l6IsNaN (e : Elem) : Bool := e.toNat % 64 == 0x30
def l6IsZero (e : Elem) : Bool := e.toNat % 64 == 0x10

def l6Mul (env : Env) (x y : Elem) : Elem × FlagSet :=
  if l6IsNaN x || l6IsNaN y then (0x30, fNone)
  else if l6IsZero x || l6IsZero y then (0x10, fNone)
  else l6Result env (l6Sign x != l6Sign y) (l6Log x + l6Log y)

def l6Div (env : Env) (x y : Elem) : Elem × FlagSet :=
  if l6IsNaN x || l6IsNaN y then (0x30, fNone)
  else if l6IsZero y then
    if l6IsZero x then (0x30, fInvalid)
    else (overflowResult .l6 env.sat env.rm (l6Sign x != l6Sign y), fDivZero)
  else if l6IsZero x then (0x10, fNone)
  else l6Result env (l6Sign x != l6Sign y) (l6Log x - l6Log y)

/-! Scales and conversions. -/

/-- An element times the E8M0 scale of code `k`, one rounding (R48, R124): a NaN element gives NaN; the NaN code gives NaN with no
operand NaN, and a signalling element beside it raises invalid (R46). -/
def scaleNum (f : Fmt) (env : Env) (x : Elem) (k : Nat) : Elem × FlagSet :=
  let a := decodeNum f x
  if k = 255 then
    (canonNaN f, if a.isSignal then fInvalid else fNone)
  else
    match a with
    | .nan _ _ _ => settleNaN f env [a]
    | .inf neg => infFromInput f env neg
    | .fin neg _ _ => roundQ f env (a.q.mul (Q.pow2 ((k : Int) - 127))) neg

/-- Conversion of an element that is not an integer into an integer format (R50). -/
def toInt (f : Fmt) (rm : Rm) (a : Num) : Elem × FlagSet :=
  match a with
  | .nan _ _ _ => (0, fInvalid)
  | .inf neg => (wrapInt f.width (if neg then f.intRange.1 else f.intRange.2), fInvalid)
  | .fin _ _ _ => roundInt f rm a.q

/-- The pairs of R49 whose NaN keeps the source's sign whatever `fmode.nanp` holds. -/
def widensSigned (src dst : Fmt) : Bool :=
  match src with
  | .e4m3 => dst.isIeee
  | .l6 => dst == .fp32 || dst == .fp64
  | _ => false

/-- The NaN result of a conversion from `src` to `dst` (R46, R47, R49, R51). -/
def convertNaN (src dst : Fmt) (env : Env) (a : Num) : Elem × FlagSet :=
  match dst with
  | .e2m1 => (0, fInvalid)
  | .e8m0 => (0xFF, fInvalid)
  | .s12 => (0xFFF, fInvalid)
  | _ =>
    let fl := if a.isSignal then fInvalid else fNone
    if widensSigned src dst then (withSign dst a.neg (canonNaN dst).toNat, fl)
    else if (src == .e8m0 || src == .s12) && dst.isIeee && !(src == .s12 && (dst == .fp16 || dst == .bf16)) && dst != .fp16
    then (canonNaN dst, fl)
    else settleNaN dst env [a]

/-- Conversion of an element from format `src` to format `dst` (R40, R44-R51, R135). R50 speaks of a narrower integer format only;
between INT8 and UINT8, of one width, the model does the same: it keeps the low bits, or clamps with overflow under `fmode.sat`
(DESIGN CHOICE, log 46). -/
def convert (src dst : Fmt) (env : Env) (x : Elem) : Elem × FlagSet :=
  let a := decodeNum src x
  if dst.isInt then
    if src.isInt then intResult dst env.sat (intVal src x) else toInt dst env.rm a
  else
    match a with
    | .nan _ _ _ => convertNaN src dst env a
    | .inf neg =>
      if neg && (dst == .e8m0 || dst == .s12) then (canonNaN dst, fInvalid) else infFromInput dst env neg
    | .fin neg _ _ => roundQ dst env a.q neg

/-- The exact widening of the copy engine, which reads no `fmode` field and raises no flag (R49, R232). -/
def widen (src dst : Fmt) (x : Elem) : Elem := (convert src dst ⟨.rne, false, true⟩ x).1

end Sys2Proof.Machine
end

