-- ==== Sys2Proof/Config.lean ====
section
/-! DEFINITION. What one device fixes, and the values the spec leaves open: each open value is an opaque constant, so that
nothing can be proved about which value it is. -/

namespace Sys2Proof.Config

/-- Cores and hart slots of the device (R3). -/
def numCores : Nat := 256
def numSlots : Nat := 1024
/-- Where the places of R223 begin and end. -/
def vaultBase : Nat := 0x004000000000
def vaultSize : Nat := 0x10000000
def slabBase : Nat := 0x008000000000
def slabSize : Nat := 0x100000
def gddrEnd : Nat := 0x002000000000
def hostBase : Nat := 0x800000000000
/-- Byte `o` of the weight space of core `k` is location `weightBase + k * weightSize + o`, above every physical address
(R198, R223: weight space is a space of its own). -/
def weightBase : Nat := 0x1000000000000
def weightSize : Nat := 0x2000000
/-- The windows of R225. -/
def slabWindow : Nat := 0x00FFFE0000000000
def weightWindow : Nat := 0x00FFFF0000000000
def windowsEnd : Nat := 0x0100000000000000
/-- Size of a save area (R360). -/
def saveSize : Nat := 0x3F000
/-- What a byte of memory that nothing has written reads as (DESIGN CHOICE, log 3: the spec gives no contents after power-on). -/
def unwritten : Byte := 0

/-- Which pair a free-order reduction combines next: a free value by serial number (R55, log 4). -/
opaque reducePick : Nat → Nat
/-- The keys that order the element writes of one vector form: free values by serial number and element (R142, R143, R252, log 5). -/
opaque elementKey : Nat → Nat → Nat
/-- The draw of the hallmark at boot `n` (R239, log 10). -/
opaque hallmarkDraw : Nat → Nat
/-- The hallmark of boot `n`: never 0 and never all ones (R239). -/
def hallmark (n : Nat) : BitVec 32 := BitVec.ofNat 32 (hallmarkDraw n % (2 ^ 32 - 2) + 1)
/-- The bytes of a save area that no rule gives: the vector resume state, an encoding of the device's own (R369), and the spill
beyond the lines spilled (log 10). -/
opaque resumeByte : Nat → Nat → Byte
/-- The voltage in mV of a cluster where it is in band, and its process reading at 32 above, by serial number (R400, log 10). -/
opaque monitor : Nat → Nat → Nat
/-- The answer of the side-band port to an SPDM request (R413, log 10). -/
opaque spdmAnswer : Nat → Nat → Nat

/-- An order of the core resets of boot `n`: any permutation of the 2^64 counts (R87, log 8). -/
opaque resetOrder : Nat → Equiv.Perm Word
/-- Cycles from the start of the beacon to the reset of core `c` at boot `n`: no two cores are reset at one instant, and none with the beacon (R87, log 8). -/
def coreSkew (n c : Nat) : Word := resetOrder n (BitVec.ofNat 64 (c + 1)) - resetOrder n 0
/-- By how much, less 16, core `c` sees an edge of the recess calendar after the beacon's instant, by boot, core and edge (R389, R392, log 8). -/
opaque edgeSkew : Nat → Nat → Nat → Nat
/-- Where the launch record of a group of a context could lie, before it is aligned to 64, by context, group and trial (R287, log 12). -/
opaque recordAt : Nat → Nat → Nat → Word

/-- Whether the store of a save finds a pinned page lost whose translation the host has unmapped, by the serial number of the save and the unit's
address (R365, R382, log 53). -/
opaque pinLost : Nat → Word → Bool

/-- How far each column of a step in flight has come when the array freezes, by serial number and column, and by 64 for the fastest
column (R217, log 13). -/
opaque freezeRow : Nat → Nat → Nat

/-- The contents of a tile that has become empty, by serial number and slab offset (R192, R193, log 14). -/
opaque tileByte : Nat → Nat → Byte

end Sys2Proof.Config
end

