-- ==== Sys2Proof/Machine/State.lean ====
section
/-! DEFINITION. The state of the device: everything the spec gives it, as plain data, and the state after reset. -/

namespace Sys2Proof.Machine

/-! ## Memory, views and clocks (11_memory, 13_ordering) -/

/-- Bytes by location, in canonical form: locations strictly rising, no entry equal to `Config.unwritten`. A location below
2^48 is a physical address (R223); above stands weight space (`Config.weightBase`). -/
abbrev Memory := List Host.Cell

/-- A vector clock: one count for each quarter (R255). -/
structure Clock where
  q0 : Nat
  q1 : Nat
  q2 : Nat
  q3 : Nat
  deriving DecidableEq, Repr

def Clock.zero : Clock := ⟨0, 0, 0, 0⟩

/-- The clock and issuing quarter of the write a byte holds, its place in the coherence order (R256). -/
structure Stamp where
  clk : Clock
  quarter : Nat
  deriving DecidableEq, Repr

/-- What one path of one quarter sees (R250, R262): the bytes, and the stamp of the last write of each byte. -/
structure View where
  bytes : Memory
  stamps : Tbl Stamp
  deriving DecidableEq, Repr

/-- The class of an access (R254); engines and the host have none. -/
inductive Cls where
  | scalar | vector | engine
  deriving DecidableEq, Repr

/-- The five paths (R226), in the numbering of `FENCEP` (R263). -/
inductive Path where
  | h | x | c | l | n
  deriving DecidableEq, Repr

/-- A write issued into its quarter's sequence (R255). `toScalar` and `toVector` say that an edge of R257, R258 or R261 orders it
before its hart's later accesses of that class; bit `5 r + p` of `applied` that path `p` of view `r` shows it. -/
structure Write where
  quarter : Nat
  clk : Clock
  slot : Option Nat
  cls : Cls
  path : Path
  bytes : List Host.Cell
  toScalar : Bool
  toVector : Bool
  applied : BitVec 20
  deriving DecidableEq, Repr

/-! ## The hart (04_scalar, 05_vector, 08_polynomial, 10_tiles, 19_locket) -/

/-- A cached translation: the leaf entry as read, where it lies, its page's base and size exponent, and whether d is set. -/
structure Trans where
  asid : Nat
  base : Nat
  bits : Nat
  leaf : Word
  /-- Physical addresses of the leaves of the page's group (R380). -/
  leaves : List Nat
  dirty : Bool
  deriving DecidableEq, Repr

/-- What a parked hart waits for (R366). -/
inductive Why where
  /-- A recess stalls the access (R394). -/
  | recess
  /-- A walk of the page of this address, under way (R384). -/
  | walk (va : Word)
  /-- A page that is migrating (R382). -/
  | migrating
  /-- A watermark of a producer group (R269). -/
  | watermark
  /-- A locket held by another task (R346). -/
  | touch (locket : Nat)
  /-- A line of the locket write buffer (R351). -/
  | overflow
  /-- A phase of the barrier at this location (R322); the register that receives the status. -/
  | barrier (loc : Nat) (d : SReg)
  /-- A strand (R292). -/
  | strand
  /-- A copy command's completion, or a place in the engine (R228, R237). -/
  | engine
  /-- `IDLE`, until the end of recess `target` or 65,536 cycles from `since` (R104). -/
  | idle (target since : Nat)
  /-- `RCWAIT`, until the end of recess `target` (R393). -/
  | recessEnd (target : Nat)
  /-- The guard window of a later launch (R302). -/
  | guard
  /-- The array's owner (R200). -/
  | array
  /-- The accesses that still use a translation which an `ASINV` drops (R387). -/
  | invalidation
  /-- The answer of the device dispatcher to a launch or a node (R308, R311). -/
  | dispatcher
  /-- The next step of a `TGEMM`, which runs once its tile is ready (R212): the descriptor as it was read. -/
  | tile (desc : BitVec 256)
  /-- The twin partner, this attempt's bound running from `since`; the descriptor of a twin `TGEMM` (R215). -/
  | pair (since : Nat) (desc : Option (BitVec 256))
  /-- The conditions of `VWAIT`: the elements still waited for (R329). -/
  | elements (left : MWord)
  /-- The `SAVEPIN` of the runtime for a member that has not begun (R360, R382). -/
  | area
  /-- The host port, through which alone host memory is reached, while its link is down (R7, R405). -/
  | hostLink
  deriving DecidableEq, Repr

/-- A parked instruction: why it waits; the instruction that executes again, `NOP` standing for the fetch of the next one; the
translations that the device keeps until it completes (R146, R155, R185); the start index of its attempt (R140). -/
structure Wait where
  why : Why
  instr : Instr
  held : List Trans
  start : Nat
  deriving DecidableEq, Repr

/-- A vector block in the vector unit or the queue (R112-R119). -/
structure Block where
  /-- Address of the next word. -/
  pc : Word
  /-- An implied block of one word (R113). -/
  implied : Bool
  /-- First word of a `VLOOP` body, whose words lie in the 64 from there (R115). -/
  loop : Option Word
  /-- Trips left, the running one included. -/
  trips : Nat
  /-- Fragment mask F (R116). -/
  frag : MWord
  /-- Pending fragments, the latest first, at most 8 (R117). -/
  pending : List (Word × MWord)
  /-- Grant and `vcfg` the block was issued with. -/
  vl : Nat
  vcfg : Word
  /-- The scalar registers as the issue captured them (R112, R115); none in a block that resumed after its own trap, which reads them
  afresh (R145). -/
  captured : Option (Vector Word 32)
  /-- The loop buffer of a `VLOOP`: the words fetched so far, by address (R115). -/
  buffer : List (Word × IWord)
  /-- The elements of the executing gather or scatter that have failed their translation so far, and reason and level of the lowest
  one's failure (R147). -/
  noted : MWord
  failed : Option (Nat × Nat)
  /-- The wait of the word that stands in the vector unit. -/
  wait : Option Wait
  deriving DecidableEq, Repr

/-- The vector resume state (R369). -/
structure VResume where
  resume : Word
  trapped : Block
  queued : List Block
  deriving DecidableEq, Repr

/-- A slate table entry (R330, R331). -/
structure Slate where
  base : Word
  length : Nat
  offset : Nat
  op : Nat
  fmt : BitVec 4
  deriving DecidableEq, Repr

/-- The arrival record (R321). -/
structure Arrival where
  addr : Word
  phase : BitVec 32
  valid : Bool
  deriving DecidableEq, Repr

/-- One line of the locket write buffer (R349): the block's virtual and physical address, a valid bit for each byte, the bytes; the leaves
of the translations that its writes went through and that did not have d set (R383). -/
structure Line where
  va : Word
  pa : Nat
  valid : BitVec 64
  data : BitVec 512
  leaves : List Nat
  deriving DecidableEq, Repr

/-- The task of a hart (R343, R344, R350, R351). -/
structure Task where
  stamp : Nat
  restarted : Bool
  irrevocable : Bool
  committing : Bool
  deriving DecidableEq, Repr

/-- The running member of a group: group number, team index and member number (R273). -/
structure MemberId where
  group : Nat
  team : Nat
  member : Nat
  deriving DecidableEq, Repr

/-- A hart slot is free, runs a member, or holds a hart frozen by a double trap, by a save fault, or by a save whose stores wait out a recess
(R366, R394): the save index, the number of the free bytes of the save, whether V and M are saved, whether a twin half was discarded
(R83, R217, R365, R373). -/
inductive Run where
  | free
  | running
  | frozen
  | saveFault (unit serial : Nat) (vec twin : Bool)
  | saving (unit serial : Nat) (vec twin : Bool)
  deriving DecidableEq, Repr

/-- A pending pre-emption request: the instant of the request and its forced bound in cycles, 0 for one that arrived in system mode (R366);
after a rollback the request waits for the next `SETVL` (R356). -/
structure Preempt where
  at_ : Nat
  bound : Option Nat
  deriving DecidableEq, Repr

/-- A twin attempt (R215): of a `TGEMM` or an `MMA`, its panels, its step, and whether its halves are integers. -/
structure Attempt where
  tgemm : Bool
  panels : Nat
  step : Nat
  integer : Bool
  deriving DecidableEq, Repr

/-- A place of a hart that an uncorrectable soft error can strike (R372). -/
inductive BadPlace where
  | s (r : SReg) | v (r : Nat) | m (r : MReg) | p (r : PReg) | d (r : PReg) | z (r : ZReg)
  /-- A watermark register, and a control register by its number. -/
  | w (n : Nat) | c (n : Nat)
  /-- A byte of the satchel windows, and a line of the locket write buffer, by its physical block. -/
  | satchel (o : Nat) | line (pa : Nat)
  deriving DecidableEq, Repr

/-- Everything a hart slot holds. -/
structure Hart where
  run : Run
  member : Option MemberId
  /-- Scalar registers (R83). -/
  s : Vector Word 32
  pc : Word
  /-- Vector and mask registers (R106). -/
  v : Vector VWord 32
  m : Vector MWord 16
  /-- Polynomial registers, 1,024 slots of 32 bits each, and their descriptors (R160). -/
  p : Vector (BitVec 32768) 16
  d : Vector Word 16
  /-- Accumulator tiles, word (r, c) at bit 32 (64 r + c) (R201). -/
  z : Vector (BitVec 65536) 4
  /-- Watermarks (R266), and what a reader that each lets go follows (R269). -/
  w : Vector Word 8
  wclk : Vector Clock 8
  /-- Watermark `n` as the view of quarter `r` shows it, with the history of that value, at `8 r + n` (R269). -/
  marks : Vector (Word × Clock) 32
  /-- Control registers (R85, R86). -/
  fmode : Word
  vcfg : Word
  vlgrant : Word
  velem : Word
  seniority : Word
  grpcoord : Word
  asid : Nat
  lcause : Word
  lepc : Word
  lvelem : Word
  laddr : Word
  /-- `lstat.mode`: system mode (R84). -/
  system : Bool
  ltvec : Word
  lhold : Word
  /-- Satchel windows, lane `l` offset `o` at `1024 l + o` (R149). -/
  satchel : Memory
  slates : Tbl Slate
  arrival : Arrival
  blk : Option Block
  vq : List Block
  vrs : Option VResume
  wait : Option Wait
  lines : List Line
  /-- Lines spilled at a save and not yet refilled (R353). -/
  spill : List Line
  task : Task
  /-- A wound on its way to this holder (R347). -/
  wound : Bool
  preempt : List Preempt
  /-- Cycles of a recess overrun still to be reported by cause 0x19, and whether an access of the vector unit stalled (R371). -/
  overrun : Option (Nat × Bool)
  /-- The clock H of the hart's causal history (R255). -/
  clock : Clock
  /-- The writes that its accesses of the scalar and of the vector class must follow because it saw them, or a causal successor of
  them, elsewhere than in its view: at a home, at a locket's release, at its start (R256, R260, R261, R310, R350). -/
  seen : Clock
  seenV : Clock
  /-- The save area registered by `SAVEPIN` (R361). -/
  saveArea : Option Word
  /-- The scan image in the save area is to be scanned in when the hart next needs the array (R219). -/
  image : Bool
  /-- The descriptor of the `TGEMM` whose step the image holds in flight: what of the step the image has no place for (R218, R219). -/
  inFlight : Option (BitVec 256)
  /-- The attempt of the twin partner that timed out and that this hart's next attempt pairs with (R215). -/
  missed : Option Attempt
  /-- Sequence number of the hart's fault records (R386). -/
  faultSeq : Nat
  /-- The places that hold an uncorrectable soft error (R372). -/
  bad : List BadPlace
  deriving DecidableEq, Repr

/-! ## Cores and clusters -/

/-- States of a tile (R192). -/
inductive TileState where
  | free | empty | filling | ready | draining
  deriving DecidableEq, Repr

/-- A tile-table entry (R192, R247, R294); sizes and bases in bytes. -/
structure Tile where
  state : TileState
  base : Nat
  size : Nat
  group : Option Nat
  holder : Nat
  taker : Option Nat
  /-- The engine's cluster and the generation of the tag (R247). -/
  tag : Option (Nat × Bool)
  /-- The engine's cluster and the number of an `UNPACK` that gave the tag while its kind was not known, which it takes back if it turns out to
  be of none of kinds 0 to 3 (R246, R247, log 31). -/
  giver : Option (Nat × Nat)
  /-- A writer has completed since the tile was empty (R193): what a tile is again whose writers turn out to be none. -/
  full : Bool
  /-- What a taker of the handle follows (R295). -/
  clock : Clock
  deriving DecidableEq, Repr

/-- A latch of the array: 64 columns of 64 bytes, its format and up to 4 scale codes a column (R200). -/
structure Latch where
  bytes : BitVec 32768
  fmt : BitVec 4
  scale : BitVec 2048
  deriving DecidableEq, Repr

/-- A `TGEMM` step in flight in the array (R200, R217, R218): its descriptor, its tile Zd, step, rows, K bytes and format; the next row and
the slip of each column; the rows of the step; the sums of the rows a column has passed, Zd's words elsewhere. -/
structure Flight where
  desc : BitVec 256
  zd : ZReg
  step : Nat
  rows : Nat
  klen : Nat
  afmt : BitVec 4
  progress : List (Nat × Nat)
  window : BitVec 16384
  sums : BitVec 65536
  deriving DecidableEq, Repr

/-- Everything a core holds beside its harts. -/
structure Core where
  front : Latch
  back : Latch
  /-- The slot that owns the array, and the step a freeze left in flight (R200). -/
  owner : Option Nat
  flight : Option Flight
  tiles : Tbl Tile
  /-- `vlcap.lanes` (R86). -/
  lanes : Nat
  /-- Beacon cycles this core's counter does not count: reset skew and parked time (R87). -/
  lag : Nat
  /-- Beacon count at the core's last donation (R280). -/
  donated : Option Nat
  /-- Power state A0 to A2 as 0 to 2 (R396). -/
  power : Nat
  /-- Beacon counts since when no vector block ran and since when all slots are free (R396). -/
  lastBlock : Nat
  lastBusy : Nat
  deriving DecidableEq, Repr

/-- Kinds of copy command (R230, R246). -/
inductive CmdKind where
  | cpy | cpyw | pack | unpack
  deriving DecidableEq, Repr

inductive CmdState where
  /-- Accepted, not started. -/
  | accepted
  /-- Started, and waiting for a tile or a migrating page (R193, R236). -/
  | waiting
  /-- A reload that has started (R246). -/
  | reloading
  /-- Waiting for the host's answer to the fault of this address (R237). -/
  | faulted (va : Word)
  /-- Its bytes are written; completes with this status once they are applied everywhere (R264). -/
  | moved (status : Nat)
  deriving DecidableEq, Repr

/-- A block of a copy command that has been judged and read: where its bytes go, and whether it arrives in compressed form (R228, R244). -/
structure HeldBlock where
  dst : Nat
  bytes : List Byte
  packed : Bool
  deriving DecidableEq, Repr

/-- A copy command (R228-R237). -/
structure Cmd where
  seq : Nat
  kind : CmdKind
  src : BitVec 4
  dst : BitVec 4
  len : Word
  dest : Word
  source : Word
  core : Nat
  /-- The member that issued it; none for a transform (R315, R372). -/
  issuer : Option MemberId
  asid : Nat
  group : Option Nat
  /-- The queue and node of a transform (R315). -/
  node : Option (Nat × Nat)
  /-- Generation an `UNPACK` decodes with, and whether its acceptance knew the tile that fixes it (R247). -/
  gen : Bool
  genFixed : Bool
  state : CmdState
  /-- Tiles the command reads and writes, admitted so far (R236). -/
  reads : List Nat
  writes : List Nat
  /-- Pages of the slab window that its tile rules refused as it was accepted (R236). -/
  doom : List Word
  /-- The blocks before the block that it stopped at, and the header and index list of its sparse image, once read (R228, R233, R237). -/
  held : List HeldBlock
  head : List Byte
  /-- The clock of the bytes it has read and of its latest write. -/
  clock : Clock
  deriving DecidableEq, Repr

/-- The user tables of a decode generation (R245). -/
structure Generation where
  t16 : BitVec 128
  t16w : BitVec 256
  t256 : BitVec 4096
  deriving DecidableEq, Repr

/-- A task record of a cluster dispatcher (R316): the next team of a place, or a pre-empted member. -/
inductive Record where
  | team (group place : Nat)
  | member (id : MemberId)
  deriving DecidableEq, Repr

structure Cluster where
  /-- Number of the next command (R229). -/
  seq : Nat
  cmds : List Cmd
  /-- Completed commands: number, status and clock, the latest first (R237). -/
  done : List (Nat × Nat × Clock)
  gens : Vector Generation 2
  /-- The active generation (R245). -/
  active : Bool
  /-- The ready list, oldest first (R316). -/
  ready : List Record
  deriving DecidableEq, Repr

/-! ## Translation (21_page) -/

/-- A pinned page: owner context, page and count (R382). -/
structure Pin where
  trans : Trans
  count : Nat
  deriving DecidableEq, Repr

/-- A fault record sent to the host and not yet answered (R386): its ticket, its source, and its fields. -/
structure FaultRecord where
  ticket : Nat
  asid : Nat
  source : Nat
  access : Nat
  reason : Nat
  level : Nat
  element : Bool
  va : Word
  where_ : Word
  index : Nat
  seq : Nat
  deriving DecidableEq, Repr

/-- A host record (R375). -/
structure HostRecord where
  kind : Nat
  asid : Nat
  hart : Nat
  cause : Nat
  lepc : Word
  laddr : Word
  extra : Nat
  deriving DecidableEq, Repr

/-! ## Groups, kernels, queues, contexts -/

/-- A locket of a group: its range, the slot or the saved member that holds it, and the waiters (R341, R346). -/
structure Locket where
  base : Word
  length : Nat
  holder : Option MemberId
  waiters : List Nat
  /-- What a task that acquires it follows (R350). -/
  clock : Clock
  deriving DecidableEq, Repr

inductive GroupState where
  | pending | running | complete | failed
  deriving DecidableEq, Repr

/-- A member: not started, in a slot, saved and ready (R316), ended, failed, or stopped with its group. -/
inductive MemberState where
  | waiting
  | running (slot : Nat)
  | saved
  | ended
  | failed
  | stopped
  deriving DecidableEq, Repr

structure Member where
  state : MemberState
  stage : Nat
  /-- What of a saved member its save area does not hold by a layout of the spec: its save area, the vector resume state, the
  locket lines, the task, the clock (R362, R369). -/
  saved : Option Hart
  /-- Its latest slot (R277). -/
  slot : Nat
  /-- The area of the save-area pool that the runtime took for it (R360). -/
  area : Option Word
  deriving DecidableEq, Repr

/-- A watermark binding (R268, R307). -/
structure Binding where
  producer : Nat
  base : Word
  index : Nat
  size : Nat
  deriving DecidableEq, Repr

/-- A place of a group (R275, R276): cluster and k, the wave whose team is on it, whether that team runs. -/
structure Place where
  cluster : Nat
  k : Nat
  wave : Nat
  busy : Bool
  /-- The stacks of its members, by member number (R289). -/
  stackOf : List Nat
  deriving DecidableEq, Repr

structure Group where
  asid : Nat
  kernel : Word
  queue : Option Nat
  node : Option Nat
  prio : Nat
  x : Nat
  y : Nat
  n : Nat
  stages : Nat
  entry : List Word
  strands : List (Nat × Nat × Nat)
  tiles : List Nat
  args : List Word
  stackBytes : Nat
  record : Word
  bindings : List Binding
  guard : Nat
  /-- The launch before this one in the same ring: in service mode (R301, R310), and in guarded mode, where it bounds that launch's W0 (R302). -/
  pred : Option Nat
  tied : Option Nat
  state : GroupState
  places : List Place
  lockets : Tbl Locket
  /-- Strand `j` of team `t` at `16 t + j`: the items, oldest first, each with what its pop follows (R291, R292). -/
  items : Tbl (List (Word × Clock))
  /-- Member `m` of team `t` at `32 t + m`. -/
  members : Tbl Member
  /-- What the first instructions follow: the launcher's accesses and those of the predecessors (R310). -/
  clock : Clock
  /-- The history of the members that have ended, for the group's successors (R310). -/
  ended : Clock
  /-- The cores where the `.tile` entries have been allocated (R288). -/
  tiled : List Nat
  deriving DecidableEq, Repr

/-- A kernel by its record address (R284, R285). -/
structure Kernel where
  asid : Nat
  record : Word
  retired : Bool
  retiring : Bool
  groups : Nat
  weightBase : Nat
  weightLen : Nat
  deriving DecidableEq, Repr

inductive NodeState where
  | waiting | ready | running | done
  deriving DecidableEq, Repr

/-- A node of a task graph: its descriptor (64 bytes), counter and state (R311, R313). -/
structure Node where
  desc : BitVec 512
  counter : Nat
  state : NodeState
  /-- The group of a launch node, or the cluster and number of a transform's command. -/
  group : Option Nat
  cmd : Option (Nat × Nat)
  /-- The launch descriptor as read when the node became ready (R312); none where it could not be read. -/
  launch : Option (BitVec 2048)
  /-- What the members of its group follow: its predecessors (R310). -/
  clock : Clock
  /-- The completion step (R337). -/
  step : Option Nat
  deriving DecidableEq, Repr

/-- An entry of a ring: a descriptor the host wrote, or a launch accepted with its group number (R298, R308). -/
inductive Entry where
  | host (desc : BitVec 2048)
  | launched (group : Nat)
  deriving DecidableEq, Repr

inductive QState where
  | off | empty | active | fault
  deriving DecidableEq, Repr

inductive GraphState where
  | none | building | running | done | stopped
  deriving DecidableEq, Repr

structure Queue where
  state : QState
  asid : Nat
  prio : Nat
  guarded : Bool
  cap : Nat
  ring : List Entry
  /-- The group of the entry taken and waiting for a grant: at most one at a time (R304). -/
  taken : Option Nat
  /-- The launch before the next entry (R301). -/
  last : Option Nat
  graph : GraphState
  nodes : List Node
  /-- Completion steps of the graph since its seal (R337). -/
  steps : Nat
  fault : Nat
  node : Nat
  from_ : Nat
  deriving DecidableEq, Repr

inductive CtxState where
  | free | loaded | running | saving | saved | dying | torn
  deriving DecidableEq, Repr

/-- A context (R359), with the root of its tables (R377), its pools (R289, R360), its channels and rings (R409). -/
structure Ctx where
  state : CtxState
  root : Nat
  stackBase : Word
  stackLen : Nat
  /-- Stacks given out: address and length. -/
  stackList : List (Nat × Nat)
  saveBase : Word
  saveLen : Nat
  /-- Save areas of the pool given out. -/
  areas : List Word
  ltvec : Word
  /-- Channels the context may send on, by port (R409). -/
  sends : List (Nat × Nat)
  /-- Channels it receives on, by port, and its put window. -/
  receives : List (Nat × Nat)
  putBase : Word
  putLen : Nat
  ring0 : List (BitVec 512)
  ring1 : List (BitVec 512)
  /-- The debugger session of the context is stopped (R336). -/
  held : Bool
  deriving DecidableEq, Repr

/-! ## Recess, power, link -/

structure Recess where
  /-- Number and class of the next recess, or of the one in progress (R389, R390). -/
  number : Nat
  cls : Nat
  /-- Beacon count at which the recess in progress started. -/
  start : Option Nat
  /-- Number of the last recess of class 2. -/
  lastClass2 : Option Nat
  /-- A port or a controller has asked for retraining since then (R391). -/
  retrain : Bool
  deriving DecidableEq, Repr

inductive PortState where
  | down | training | up | retraining
  deriving DecidableEq, Repr

structure Port where
  state : PortState
  /-- Queues of the two classes: sender's ASID and message (R410). -/
  q0 : List (Nat × BitVec 512)
  q1 : List (Nat × BitVec 512)
  /-- Retraining is requested, or a failed training is tried again, at the next class-2 recess (R407). -/
  retrain : Bool
  /-- Beacon count at which the port entered its state. -/
  since : Nat
  /-- The hallmark of the partner, learned in training (R408). -/
  peer : BitVec 32
  /-- The blocks of the latest put as they crossed: whether the beat header marks the block compressed, and the bytes (R244, R408). -/
  beats : List (Bool × List Byte)
  /-- The ticket that the head of a class's queue waits for (R411). -/
  fault0 : Option Nat
  fault1 : Option Nat
  /-- Failed trainings, discarded and dropped messages, counted for the side-band port. -/
  failed : Nat
  discarded : Nat
  dropped : Nat
  deriving DecidableEq, Repr

/-- The firmware, power rail and answers of the side-band port (R413). -/
structure Sideband where
  staged : Option Nat
  running : Nat
  mainUp : Bool
  /-- Host records read so far. -/
  read : Nat
  /-- The latest answer, as words. -/
  answer : List Nat
  deriving DecidableEq, Repr

/-- A compressed region (R240, R241): base, size, whether it is compressing or disabled, the inversion table, the blocks stored
compressed; the block that overflowed the table, which with the base and the page size is the compression-disabled event (R242). -/
structure Region where
  base : Nat
  size : Nat
  compressing : Bool
  inverted : List Nat
  packed : List Nat
  event : Option Nat
  deriving DecidableEq, Repr

/-- A steal message in transit (R317): the record, thief, victim. -/
structure Steal where
  record : Option Record
  thief : Nat
  victim : Nat
  deriving DecidableEq, Repr

/-- A walk in flight, of the walker of a cluster: the misses to one page share it (R384). `probe` says that only `PGPROBE` wants it, which
sets no bit (R388). -/
structure Walk where
  cluster : Nat
  asid : Nat
  va : Word
  probe : Bool
  deriving DecidableEq, Repr

/-- Who moves next (log 1): a hart, one of the table's events, time, the runtime handler of a hart (R414), or the host binding a
channel of a port to a context (R409). -/
inductive Move where
  | hart (slot : Nat)
  /-- The scalar stream of a hart runs ahead of the blocks it has issued (R112). -/
  | scalar (slot : Nat)
  | event (i : Instr)
  | elapse (cycles : Nat)
  | runtime (slot : Nat)
  /-- An uncorrectable soft error strikes a location; a correctable one is counted (R372). -/
  | softError (loc : Nat)
  | corrected
  /-- An uncorrectable soft error strikes a place of a hart (R372). -/
  | strike (slot : Nat) (p : BadPlace)
  | bindSend (asid port channel : Nat)
  | bindReceive (asid port channel : Nat) (putBase : Word) (putLen : Nat)
  /-- The host submits a node descriptor for a context (R311). -/
  | submit (asid : Nat) (desc : BitVec 512)
  /-- The debugger session of a context stops or continues (R336). -/
  | session (asid : Nat) (stop : Bool)
  /-- The watermarks of the hart in a slot reach the view of a quarter (R269). -/
  | marks (slot quarter : Nat)
  /-- The host changes bytes of its own memory (R406). -/
  | hostStore (loc : Nat) (data : List Byte)
  /-- A ramp-down of the power controllers begins or is over (R396, R398). -/
  | rampDown (on : Bool)
  deriving DecidableEq, Repr

/-- The host link as trained: its rate and width, and the options refused (R405). -/
structure HostLink where
  rate : Nat
  width : Nat
  refused : List HostOption
  deriving DecidableEq, Repr

/-- The device. -/
structure State where
  schedule : List Move
  /-- The slot that executes (log 1). -/
  cur : Nat
  /-- Counter that the free values are drawn by; the model's own (log 4). -/
  freeCtr : Nat
  harts : Tbl Hart
  cores : Tbl Core
  clusters : Tbl Cluster
  /-- View `5 r + p`: path `p` of quarter `r` (R250, R262). -/
  views : Tbl View
  writes : List Write
  /-- `A_r`, the writes each view has applied, and `L_p`, whose entry `p` is `S_p` (R255). -/
  applied : Vector Clock 4
  issued : Vector Clock 4
  regions : List Region
  /-- Form bits: the blocks of the slabs that are held compressed (R223, R244). -/
  slabForms : List Nat
  boots : Nat
  /-- Locations with an uncorrectable soft error, and the count of corrected ones (R372). -/
  soft : List Nat
  corrected : Nat
  tlbs : Tbl (List Trans)
  walks : List Walk
  pins : List Pin
  /-- Invalidations of the host that still wait for accesses to be performed (R387). -/
  invals : List (Word × Word)
  /-- Words of the device's own that wait for a recess or a migrating page, oldest first: the ASID, the address, the word (R381, R394). -/
  owed : List (Nat × Word × Nat)
  ctxs : Tbl Ctx
  groups : Tbl Group
  nextGroup : Nat
  nextStamp : Nat
  kernels : List Kernel
  queues : Tbl Queue
  lastGrant : Tbl Nat
  /-- Slots reserved by R306, each with its candidate: `2048 q` for the ring of queue `q`, `2048 q + 1 + j` for node `j` of its graph. -/
  reserved : List (Nat × Nat)
  steals : List Steal
  records : List HostRecord
  faults : List FaultRecord
  nextTicket : Nat
  /-- Sequence numbers of the records of engines and ports (R386). -/
  engineSeq : Tbl Nat
  beacon : Nat
  recess : Recess
  /-- `pwrctl.slew`, `.tol`, `.c2req` (R401). -/
  slew : Nat
  tol : Nat
  c2req : Bool
  /-- Armed stagger offsets in µs, each with the beacon count of its receipt (R399). -/
  stagger : List (Nat × Nat)
  /-- Beacon count until which an upward ramp holds every cap (R399). -/
  capHold : Option Nat
  /-- An upward ramp of the caps is in progress, and a ramp-down of the power (R396, R398, R399). -/
  ramping : Bool
  rampDown : Bool
  /-- Power state of each quarter and of the device, 0, 3 or 4 (R396). -/
  quarterPower : Tbl Nat
  devicePower : Nat
  /-- The latest monitor readings of each cluster: in 0.1 degrees C, in mV, and of the process (R400). -/
  temps : Tbl Nat
  volts : Tbl Nat
  process : Tbl Nat
  /-- The clusters whose reading has passed 95 degrees C and not fallen below it since (R400). -/
  hot : List Nat
  /-- The host link, none while it is down (R405), and what the host's latest read returned (R406). -/
  hostLink : Option HostLink
  hostData : List Byte
  ports : Tbl Port
  sideband : Sideband
  deriving DecidableEq, Repr

/-- Why the machine stops: no step of the model does (see NOTES.md, Stops). -/
inductive Fault where
  /-- Raised by nothing; a fault is safe. -/
  | none
  deriving DecidableEq, Repr

/-- Why an instruction has no meaning. -/
inductive Refusal where
  /-- Raised by `exec` for an instruction without a meaning yet, named as the opcode table names it; safe. -/
  | notModelled (mnemonic : String)
  deriving DecidableEq, Repr

/-! ## Reset (R9, R83, R86) -/

/-- Both latches at an acquisition: zero bytes, INT8, every scale code 0x7F, 2^0 (R200). -/
def Latch.reset : Latch := ⟨0, 0, BitVec.ofNat 2048 ((2 ^ 2048 - 1) / 255 * 0x7F)⟩

def Tile.free : Tile := ⟨.free, 0, 0, none, 0, none, none, none, false, Clock.zero⟩

def Core.reset : Core := ⟨Latch.reset, Latch.reset, none, none, [], 32, 0, none, 0, 0, 0⟩

def Generation.zero : Generation := ⟨0, 0, 0⟩
def Cluster.reset : Cluster := ⟨0, [], [], Vector.replicate 2 Generation.zero, false, []⟩

/-- A hart slot at reset: free, with every register at its reset value. -/
def Hart.reset : Hart where
  run := .free
  member := none
  s := Vector.replicate 32 0
  pc := 0
  v := Vector.replicate 32 0
  m := Vector.replicate 16 0
  p := Vector.replicate 16 0
  d := Vector.replicate 16 0x0F01
  z := Vector.replicate 4 0
  w := Vector.replicate 8 0
  wclk := Vector.replicate 8 Clock.zero
  marks := Vector.replicate 32 (0, Clock.zero)
  fmode := 0
  vcfg := 0x1007
  vlgrant := 0
  velem := 0
  seniority := 0
  grpcoord := 0
  asid := 0
  lcause := 0
  lepc := 0
  lvelem := 0
  laddr := 0
  system := false
  ltvec := 0
  lhold := 0
  satchel := []
  slates := []
  arrival := ⟨0, 0, false⟩
  blk := none
  vq := []
  vrs := none
  wait := none
  lines := []
  spill := []
  task := ⟨0, false, false, false⟩
  wound := false
  preempt := []
  overrun := none
  clock := Clock.zero
  seen := Clock.zero
  seenV := Clock.zero
  saveArea := none
  image := false
  inFlight := none
  missed := none
  faultSeq := 0
  bad := []

def View.reset : View := ⟨[], []⟩
def Queue.off : Queue := ⟨.off, 0, 0, false, 16, [], none, none, .none, [], 0, 0, 0, 0⟩
def Ctx.free : Ctx := ⟨.free, 0, 0, 0, [], 0, 0, [], 0, [], [], 0, 0, [], [], false⟩
/-- After a reset a port is training (R407). -/
def Port.reset : Port := ⟨.training, [], [], false, 0, 0, [], none, none, 0, 0, 0⟩

/-- The device right after reset: memory with nothing listed, every slot free. -/
def State.reset : State where
  schedule := []
  cur := 0
  freeCtr := 0
  harts := []
  cores := []
  clusters := []
  views := []
  writes := []
  applied := Vector.replicate 4 Clock.zero
  issued := Vector.replicate 4 Clock.zero
  regions := []
  slabForms := []
  boots := 0
  soft := []
  corrected := 0
  tlbs := []
  walks := []
  pins := []
  invals := []
  owed := []
  ctxs := []
  groups := []
  nextGroup := 1
  nextStamp := 0
  kernels := []
  queues := []
  lastGrant := []
  reserved := []
  steals := []
  records := []
  faults := []
  nextTicket := 0
  engineSeq := []
  beacon := 0
  recess := ⟨0, 0, none, none, false⟩
  slew := 10
  tol := 0
  c2req := false
  stagger := []
  capHold := none
  ramping := false
  rampDown := false
  quarterPower := []
  devicePower := 0
  temps := []
  volts := []
  process := []
  hot := []
  hostLink := none
  hostData := []
  ports := []
  sideband := ⟨none, 0, true, 0, []⟩

end Sys2Proof.Machine
end

