-- ==== Sys2Proof/Machine/Flags.lean ====
section
/-! DEFINITION. The mode register `fmode` and the element configuration `vcfg` (R43, R44, R52, R58, R86). -/

namespace Sys2Proof.Machine

/-! Fields of `fmode` (R43): rm [1:0], sat [2], nanp [3], la [4], nv dz of uf nx [9:5]. -/

def fmodeRm (w : Word) : BitVec 2 := w.extractLsb' 0 2
def fmodeSat (w : Word) : Bool := w.getLsbD 2
def fmodeNanp (w : Word) : Bool := w.getLsbD 3
def fmodeLa (w : Word) : Bool := w.getLsbD 4
def fmodeFlags (w : Word) : FlagSet := w.extractLsb' 5 5

/-- Accrue flags, each by logical or (R52, R90). -/
def accrue (w : Word) (f : FlagSet) : Word := w ||| (f.zeroExtend 64 <<< 5)

/-- What rounding reads when a word names no rounding (R43, R90). -/
def modeEnv (w : Word) : Env := ⟨Rm.ofField (fmodeRm w), fmodeSat w, fmodeNanp w⟩

/-- What rounding reads under a rounding code (R58): 0 names `fmode.rm`, 1 to 4 a mode, 5 RTO. -/
def codeEnv (rm : BitVec 3) (w : Word) : Env :=
  let e := modeEnv w
  match rm.toNat with
  | 0 => e
  | 1 => { e with rm := .rne } | 2 => { e with rm := .rtz } | 3 => { e with rm := .rdn } | 4 => { e with rm := .rup }
  | _ => { e with rm := .rto }

/-! Fields of `vcfg` (R86). -/

def cfgCode (c : Word) : BitVec 4 := c.extractLsb' 0 4
def cfgSpanCode (c : Word) : BitVec 2 := c.extractLsb' 4 2
def cfgKlen (c : Word) : Nat := (c.extractLsb' 6 7).toNat

/-- The element format in force; fmt 15 is never held (R26). -/
def cfgFmt (c : Word) : Fmt := (Fmt.ofCode (cfgCode c)).getD .fp32
/-- The span, 1, 2, 4 or 8 (R86). -/
def cfgSpan (c : Word) : Nat := 2 ^ (cfgSpanCode c).toNat

/-- VLMAX of a format and span (R107). -/
def vlmaxOf (f : Fmt) (span : Nat) : Nat := min 256 (2048 / f.width * span)
def cfgVlmax (c : Word) : Nat := vlmaxOf (cfgFmt c) (cfgSpan c)

/-- Registers of a group of container width `x` (R107). -/
def groupSize (vlmax x : Nat) : Nat := (vlmax * x + 2047) / 2048

/-- The `vcfg` word of its three fields (R75, R86). -/
def cfgWord (fmt : BitVec 4) (span : BitVec 2) (klen : BitVec 7) : Word := (klen ++ span ++ fmt).zeroExtend 64

end Sys2Proof.Machine
end

