-- ==== Sys2Proof/Machine/Memory.lean ====
section
/-! DEFINITION. Memory, views, vector clocks and the sequences of writes (R18, R223, R250-R256, R260). -/

namespace Sys2Proof.Machine

/-! ## Memory as data -/

/-- The byte at a location. -/
def Memory.get (m : Memory) (a : Nat) : Byte :=
  match m with
  | [] => Config.unwritten
  | (j, b) :: r => if j = a then b else Memory.get r a

/-- Write a byte, keeping the canonical form. -/
def Memory.put (m : Memory) (a : Nat) (b : Byte) : Memory :=
  match m with
  | [] => if b = Config.unwritten then [] else [(a, b)]
  | (j, c) :: r =>
    if a < j then (if b = Config.unwritten then (j, c) :: r else (a, b) :: (j, c) :: r)
    else if a = j then (if b = Config.unwritten then r else (a, b) :: r)
    else (j, c) :: Memory.put r a b

/-- Every key is above `lo`, keys rise, and no entry holds what an unlisted location reads as. -/
def Memory.wfFrom (lo : Option Nat) (m : Memory) : Bool :=
  match m with
  | [] => true
  | (j, b) :: r => (match lo with | none => true | some l => decide (l < j)) && b != Config.unwritten && Memory.wfFrom (some j) r

/-- The canonical form. -/
def Memory.wf (m : Memory) : Bool := Memory.wfFrom none m

/-- Write each cell of a list. -/
def Memory.putAll (m : Memory) (cs : List Host.Cell) : Memory := cs.foldl (fun m c => m.put c.1 c.2) m

/-- `n` bytes from `a` up, as a little-endian number (R18). -/
def leNat (bs : List Byte) : Nat :=
  match bs with
  | [] => 0
  | b :: r => b.toNat + 256 * leNat r

/-- The `n` bytes of a number, little-endian (R18). -/
def leBytes (n : Nat) (x : Nat) : List Byte :=
  match n with
  | 0 => []
  | n + 1 => BitVec.ofNat 8 (x % 256) :: leBytes n (x / 256)

/-- Cells of consecutive locations. -/
def cellsAt (a : Nat) (bs : List Byte) : List Host.Cell :=
  match bs with
  | [] => []
  | b :: r => (a, b) :: cellsAt (a + 1) r

/-! ## Places (R223, R224, R253) -/

/-- A physical address that the map of R223 assigns. -/
def physAssigned (a : Nat) : Bool :=
  a < Config.gddrEnd || (Config.vaultBase ≤ a && a < Config.vaultBase + 32 * Config.vaultSize)
    || (Config.slabBase ≤ a && a < Config.slabBase + 256 * Config.slabSize) || (Config.hostBase ≤ a && a < 2 ^ 48)

/-- An address in GDDR 7 or a vault. -/
def inDram (a : Nat) : Bool :=
  a < Config.gddrEnd || (Config.vaultBase ≤ a && a < Config.vaultBase + 32 * Config.vaultSize)

/-- An address in host memory. -/
def inHostMem (a : Nat) : Bool := Config.hostBase ≤ a && a < 2 ^ 48

/-- The slab a location lies in: core and offset. -/
def slabOf (a : Nat) : Option (Nat × Nat) :=
  if Config.slabBase ≤ a && a < Config.slabBase + 256 * Config.slabSize then
    some ((a - Config.slabBase) / Config.slabSize, (a - Config.slabBase) % Config.slabSize)
  else none

/-- Location of byte `o` of the slab of core `k`, and of its weight space (R198, R223). -/
def slabLoc (k o : Nat) : Nat := Config.slabBase + k * Config.slabSize + o
def weightLoc (k o : Nat) : Nat := Config.weightBase + k * Config.weightSize + o

/-- The home quarter of a location (R224, R253). -/
def homeOf (a : Nat) : Nat :=
  if Config.weightBase ≤ a then (a - Config.weightBase) / Config.weightSize / 64 % 4
  else if a < Config.gddrEnd then a / 0x800000000
  else if Config.vaultBase ≤ a && a < Config.vaultBase + 32 * Config.vaultSize then (a - Config.vaultBase) / Config.vaultSize / 8
  else
    match slabOf a with
    | some (k, _) => k / 64
    | none => 0

/-! ## Clocks (R255) -/

def Clock.get (c : Clock) (q : Nat) : Nat :=
  match q with
  | 0 => c.q0 | 1 => c.q1 | 2 => c.q2 | _ => c.q3
def Clock.set (c : Clock) (q n : Nat) : Clock :=
  match q with
  | 0 => { c with q0 := n } | 1 => { c with q1 := n } | 2 => { c with q2 := n } | _ => { c with q3 := n }
def Clock.max (a b : Clock) : Clock := ⟨Nat.max a.q0 b.q0, Nat.max a.q1 b.q1, Nat.max a.q2 b.q2, Nat.max a.q3 b.q3⟩
def Clock.sum (c : Clock) : Nat := c.q0 + c.q1 + c.q2 + c.q3
/-- `a ≤ b` in every entry. -/
def Clock.le (a b : Clock) : Bool := a.q0 ≤ b.q0 && a.q1 ≤ b.q1 && a.q2 ≤ b.q2 && a.q3 ≤ b.q3

def quarterClock (v : Vector Clock 4) (q : Nat) : Clock := v.getD (q % 4) Clock.zero
def setQuarterClock (v : Vector Clock 4) (q : Nat) (c : Clock) : Vector Clock 4 := v.setIfInBounds (q % 4) c

/-- `a` stands after `b` in the coherence order (R256). -/
def Stamp.after (a b : Stamp) : Bool :=
  b.clk.sum < a.clk.sum || (b.clk.sum == a.clk.sum && b.quarter < a.quarter)
    || (b.clk.sum == a.clk.sum && b.quarter == a.quarter && b.clk.get b.quarter ≤ a.clk.get a.quarter)

/-! ## Views -/

def Path.index : Path → Nat
  | h => 0 | x => 1 | c => 2 | l => 3 | n => 4
def Path.ofIndex (n : Nat) : Path :=
  match n with
  | 0 => .h | 1 => .x | 2 => .c | 3 => .l | _ => .n

/-- The number of path `p` of view `r`. -/
def viewKey (r : Nat) (p : Path) : Nat := 5 * r + p.index
def State.view (s : State) (r : Nat) (p : Path) : View := s.views.get View.reset (viewKey r p)
def State.setView (s : State) (r : Nat) (p : Path) (v : View) : State := { s with views := s.views.put (viewKey r p) v }

/-- Show one byte of a write in a view, unless the view holds a later write of that byte (R256). -/
def View.show_ (v : View) (st : Stamp) (c : Host.Cell) : View :=
  if st.after (v.stamps.get ⟨Clock.zero, 0⟩ c.1) then ⟨v.bytes.put c.1 c.2, v.stamps.put c.1 st⟩ else v

/-- Show a whole write in a view, in one step (R251, R252, R271). -/
def View.apply (v : View) (w : Write) : View := w.bytes.foldl (fun v c => v.show_ ⟨w.clk, w.quarter⟩ c) v

/-! ## Sequences -/

/-- Number of a write in its quarter's sequence. -/
def Write.seq (w : Write) : Nat := w.clk.get w.quarter

/-- Path `p` of view `r` shows the write. -/
def Write.shown (w : Write) (r : Nat) (p : Path) : Bool := w.applied.getLsbD (viewKey r p)

/-- The write may be applied now: on its own path in causal order (R255), on another path once its own shows it (R262). -/
def State.canApply (s : State) (w : Write) (r : Nat) (p : Path) : Bool :=
  !w.shown r p &&
  (if p = w.path then
    let a := quarterClock s.applied r
    a.get w.quarter + 1 == w.seq && Clock.le (w.clk.set w.quarter 0) a
  else w.shown r w.path)

def Write.mark (w : Write) (r : Nat) (p : Path) : Write :=
  { w with applied := w.applied ||| BitVec.ofNat 20 (2 ^ viewKey r p) }

/-- The write is visible everywhere on every path. -/
def Write.settled (w : Write) : Bool := w.applied == BitVec.allOnes 20

/-- Replace the write that carries the same number by `f` of it, and drop it when it is settled. -/
def Write.updateIn (ws : List Write) (w : Write) (f : Write → Write) : List Write :=
  match ws with
  | [] => []
  | x :: r =>
    if x.quarter = w.quarter && x.seq = w.seq then (if (f x).settled then r else f x :: r)
    else x :: Write.updateIn r w f

/-! ## Zero-elision blocks (R238-R244)

A view holds values, which are the same in every form (R244). What form each block is stored in is state of its own: the blocks that a
compressing region stores compressed or inverted, and the form bits of the slabs. -/

/-- The non-zero words of a block (R238). -/
def liveWords (ws : List Nat) : List Nat := ws.filter (· != 0)
def blockBitmap (ws : List Nat) : Nat := ws.zipIdx.foldl (fun n p => if p.1 = 0 then n else n + 2 ^ p.2) 0
def rawBlock (ws : List Nat) : List Byte := ws.flatMap (leBytes 4)

/-- The slot of a compressed block, and the bytes of it that cross a link or a controller (R238). -/
def packedSlot (hm : BitVec 32) (ws : List Nat) : List Byte :=
  leBytes 8 (blockBitmap ws) ++ rawBlock (liveWords ws) ++ List.replicate (244 - 4 * (liveWords ws).length) 0 ++ leBytes 4 hm.toNat
def packedBeats (hm : BitVec 32) (ws : List Nat) : List Byte := leBytes 8 (blockBitmap ws) ++ rawBlock (liveWords ws) ++ leBytes 4 hm.toNat

/-- Words of a slot, `j` upward: the next packed word for a bit of the bitmap, else 0 (R240). -/
def expandWords (bits j n : Nat) (ps : List Nat) : List Nat :=
  match n with
  | 0 => []
  | n + 1 => if bits.testBit j then ps.headD 0 :: expandWords bits (j + 1) n ps.tail else 0 :: expandWords bits (j + 1) n ps

/-- The 32-bit words of some bytes. -/
def wordsOf (bs : List Byte) : List Nat := (List.range (bs.length / 4)).map fun j => leNat ((bs.drop (4 * j)).take 4)

/-- Read a stored slot of a compressing region (R240): the words of the block; none for a corrupt slot. -/
def readSlot (hm : BitVec 32) (listed : Bool) (slot : List Byte) : Option (List Nat) :=
  let ws := wordsOf slot
  if ws.getD 63 0 = hm.toNat then
    let bits := leNat (slot.take 8)
    let k := ((List.range 64).filter bits.testBit).length
    if 61 < k || ((slot.drop (8 + 4 * k)).take (244 - 4 * k)).any (· != 0) then none
    else some (expandWords bits 0 64 (wordsOf ((slot.drop 8).take (4 * k))))
  else if listed then some (ws.set 63 (2 ^ 32 - 1 - ws.getD 63 0))
  else some ws

/-- The byte of a block that the latest write of it leaves, on whichever path it came (R241, R256). -/
def State.homeByte (s : State) (loc : Nat) : Byte :=
  ([Path.x, .c, .l, .n].foldl (fun best p =>
    let v := s.view (homeOf loc) p
    let st := v.stamps.get ⟨Clock.zero, 0⟩ loc
    if st.after best.2 then (v.bytes.get loc, st) else best)
    ((s.view (homeOf loc) .h).bytes.get loc, (s.view (homeOf loc) .h).stamps.get ⟨Clock.zero, 0⟩ loc)).1

/-- The 64 words of a 256-byte block. -/
def State.blockWords (s : State) (b : Nat) : List Nat :=
  (List.range 64).map fun j => leNat ((List.range 4).map fun i => s.homeByte (b + 4 * j + i))

/-- The region that stores a location in the forms of R240. -/
def State.regionOf (s : State) (loc : Nat) : Option Region :=
  s.regions.find? fun rg => rg.compressing && rg.base ≤ loc && loc < rg.base + rg.size

/-- A block is held compressed where it lies (R223, R240). -/
def State.packedAt (s : State) (b : Nat) : Bool :=
  match s.regionOf b with
  | some rg => rg.packed.contains b
  | none => s.slabForms.contains b

/-- The slot that stores a block (R238, R241). -/
def State.storedSlot (s : State) (b : Nat) : List Byte :=
  let ws := s.blockWords b
  if s.packedAt b then packedSlot (Config.hallmark s.boots) ws
  else
    match s.regionOf b with
    | some rg => if rg.inverted.contains b then rawBlock (ws.set 63 (2 ^ 32 - 1 - ws.getD 63 0)) else rawBlock ws
    | none => rawBlock ws

/-- What the writing of a block makes of a compressing region; `none` on overflow of its 16 entries (R241). -/
def Region.store (rg : Region) (hm : BitVec 32) (b : Nat) (ws : List Nat) : Option Region :=
  let rest := { rg with inverted := rg.inverted.filter (· != b), packed := rg.packed.filter (· != b) }
  if (liveWords ws).length ≤ 61 then some { rest with packed := rest.packed ++ [b] }
  else if ws.getD 63 0 ≠ hm.toNat then some rest
  else if rg.inverted.contains b then some { rg with packed := rest.packed }
  else if rg.inverted.length < 16 then some { rest with inverted := rest.inverted ++ [b] }
  else none

/-- Settle a block of a region that a write has reached at its home, with the record of kind 7 on overflow (R241, R242). R242 gives the
record no ASID: it holds 0 (DESIGN CHOICE, log 16). -/
def State.noteBlock (s : State) (b : Nat) : State :=
  match s.regionOf b with
  | none => s
  | some rg =>
    match rg.store (Config.hallmark s.boots) b (s.blockWords b) with
    | some rg' => { s with regions := s.regions.map fun x => if x = rg then rg' else x }
    | none =>
      { s with
        regions := s.regions.map fun x => if x = rg then { rg with compressing := false, inverted := [], packed := [], event := some b } else x
        records := s.records ++ [⟨7, 0, 0xFFFF, 0, BitVec.ofNat 64 rg.base, BitVec.ofNat 64 b, 0⟩] }

/-- The blocks that a write touches, each once. -/
def blocksOf (cs : List Host.Cell) : List Nat := (cs.map fun c => c.1 / 256 * 256).dedup

/-- Apply a write in path `p` of view `r` (R251, R255). -/
def State.apply (s : State) (w : Write) (r : Nat) (p : Path) : State :=
  if s.canApply w r p then
    let v := (s.view r p).apply w
    let s := s.setView r p v
    let s := { s with writes := Write.updateIn s.writes w (·.mark r p) }
    let s := if p = w.path then
        { s with applied := setQuarterClock s.applied r ((quarterClock s.applied r).set w.quarter w.seq) } else s
    if s.regions.isEmpty then s
    else ((blocksOf w.bytes).filter fun b => p = w.path && homeOf b == r).foldl (fun s b => s.noteBlock b) s
  else s

/-- Apply, in issue order, every write selected: the device may apply a write at any instant, so it does what a waiting
agent needs at that instant (log 11). -/
def State.applySel (s : State) (sel : Write → Bool) (r : Nat) (p : Path) : State :=
  s.writes.foldl (fun t w => if sel w then
    match t.writes.find? (fun x => x.quarter == w.quarter && x.seq == w.seq) with
    | some x => t.apply x r p
    | none => t
    else t) s

/-- Every write of the history `c`, applied in view `r` on its own path. -/
def State.settleView (s : State) (c : Clock) (r : Nat) : State :=
  s.writes.foldl (fun t w => if w.seq ≤ c.get w.quarter then
    match t.writes.find? (fun x => x.quarter == w.quarter && x.seq == w.seq) with
    | some x => t.apply x r x.path
    | none => t
    else t) s

/-- Every write of the history `c`, applied in all four views on its own path. -/
def State.settleAll (s : State) (c : Clock) : State :=
  [0, 1, 2, 3].foldl (fun s r => s.settleView c r) s

/-- Show the writes of the history `c` made on path `p` on path `q` of every view as well (R263). -/
def State.cross (s : State) (c : Clock) (p q : Path) : State :=
  [0, 1, 2, 3].foldl (fun s r => s.applySel (fun w => w.path = p && w.seq ≤ c.get w.quarter) r q) s

/-- Issue a write into the sequence of quarter `q` with causal history `h` (R255); a slab block it writes is held raw (R244). -/
def State.issueWrite (s : State) (q : Nat) (h : Clock) (slot : Option Nat) (cls : Cls) (path : Path) (bytes : List Host.Cell) :
    State × Clock :=
  let l := quarterClock s.issued q
  let v := ((quarterClock s.applied q).max h).max l
  let v := v.set q (l.get q + 1)
  ({ s with issued := setQuarterClock s.issued q v, writes := s.writes ++ [⟨q, v, slot, cls, path, bytes, false, false, 0⟩]
            slabForms := s.slabForms.filter fun b => !(blocksOf bytes).contains b }, v)

/-- The write that carries a clock is ordered before its hart's later accesses of both classes (R257, R271). -/
def State.orderBoth (s : State) (q : Nat) (v : Clock) : State :=
  { s with writes := s.writes.map fun w => if w.quarter = q && w.clk = v then { w with toScalar := true, toVector := true } else w }

/-- The writes of a slot are no longer its own: the hart that made them has left it (R251). -/
def State.disown (s : State) (k : Nat) : State :=
  { s with writes := s.writes.map fun w => if w.slot = some k then { w with slot := none } else w }

/-- Issue and apply at the home one write made there: an atomic (R260). -/
def State.homeWrite (s : State) (h : Clock) (slot : Option Nat) (cls : Cls) (bytes : List Host.Cell) : State × Clock :=
  match bytes with
  | [] => (s, h)
  | (a, _) :: _ =>
    let q := homeOf a
    let (s, v) := s.issueWrite q h slot cls .h bytes
    (s.settleView v q, v)

/-- Bring the home view of a location up to what an atomic there must follow: its sequence, and the history `h` (R260). -/
def State.settleHome (s : State) (h : Clock) (loc : Nat) : State :=
  let q := homeOf loc
  s.settleView (h.max (quarterClock s.issued q)) q

/-! ## Reading -/

/-- The view in which a hart of quarter `q` sees a location on the H path: host memory through the host port, whose view is that of
Q0 (R250). -/
def viewOf (q loc : Nat) : Nat := if inHostMem loc then 0 else q

/-- The latest write of slot `k` to a byte that its own view does not show yet and that its class sees before (R96, R143,
R251, R258). It is returned even where the view holds a write that is coherence-later and causally before the load, on which R251 and R256 part (DESIGN CHOICE,
log 22). -/
def ownByte (ws : List Write) (k r : Nat) (cls : Cls) (loc : Nat) : Option Byte :=
  ws.foldl (fun acc w =>
    if w.slot = some k && !w.shown r .h && w.path = .h && (w.cls = cls || (cls = .scalar && w.toScalar) || (cls = .vector && w.toVector)) then
      match w.bytes.find? (fun c => c.1 == loc) with
      | some c => some c.2
      | none => acc
    else acc) none

/-- One byte as a view shows it. -/
def State.viewByte (s : State) (r : Nat) (p : Path) (loc : Nat) : Byte := (s.view r p).bytes.get loc

/-- `n` bytes of a view, little-endian. -/
def State.viewNat (s : State) (r : Nat) (p : Path) (loc n : Nat) : Nat :=
  leNat ((List.range n).map fun i => s.viewByte r p (loc + i))

/-- The clock of the write that a byte of a view comes from. -/
def State.byteClock (s : State) (r : Nat) (p : Path) (loc : Nat) : Clock := ((s.view r p).stamps.get ⟨Clock.zero, 0⟩ loc).clk

/-- The clock of the writes that the bytes of an access come from (R255: a load that returns w). -/
def State.readClock (s : State) (r : Nat) (p : Path) (loc n : Nat) : Clock :=
  (List.range n).foldl (fun c i => c.max (s.byteClock r p (loc + i))) Clock.zero

end Sys2Proof.Machine
end

