-- ==== Sys2Proof/Machine/Ops.lean ====
section
/-! DEFINITION. The named operations every meaning is written with: whose state it is, registers, moving on, taking a trap and
returning from one. -/

namespace Sys2Proof.Machine

/-! ## Whose state -/

def State.hart (s : State) (k : Nat) : Hart := s.harts.get Hart.reset k
def State.setHart (s : State) (k : Nat) (h : Hart) : State := { s with harts := s.harts.put k h }
/-- The executing hart. -/
def State.me (s : State) : Hart := s.hart s.cur
def State.setMe (s : State) (h : Hart) : State := s.setHart s.cur h
/-- Change the executing hart and nothing else. -/
def State.upd (s : State) (f : Hart → Hart) : State := s.setMe (f s.me)

/-- Quarter, core and cluster of a slot (R3, R86). -/
def slotQuarter (k : Nat) : Nat := k / 256 % 4
def slotCore (k : Nat) : Nat := k / 4
def slotCluster (k : Nat) : Nat := k / 32

def State.core (s : State) (c : Nat) : Core := s.cores.get Core.reset c
def State.setCore (s : State) (c : Nat) (x : Core) : State := { s with cores := s.cores.put c x }
/-- A launch or other work wakes a core, and the quarter and the device it lies in (R397). -/
def State.wakeCore (s : State) (c : Nat) : State :=
  { s.setCore c { s.core c with power := 0 } with quarterPower := s.quarterPower.put (c / 64) 0, devicePower := 0 }
/-- A command, a host access or a message wakes a quarter and the device. -/
def State.wakeQuarter (s : State) (q : Nat) : State := { s with quarterPower := s.quarterPower.put q 0, devicePower := 0 }
/-- An access of the host, an engine or a port wakes the home quarter of each place it reaches (R397). -/
def State.wakePlaces (s : State) (locs : List Nat) : State :=
  (locs.map homeOf).dedup.foldl State.wakeQuarter s
def State.cluster (s : State) (c : Nat) : Cluster := s.clusters.get Cluster.reset c
def State.setCluster (s : State) (c : Nat) (x : Cluster) : State := { s with clusters := s.clusters.put c x }
def State.ctx (s : State) (a : Nat) : Ctx := s.ctxs.get Ctx.free a
def State.setCtx (s : State) (a : Nat) (x : Ctx) : State := { s with ctxs := s.ctxs.put a x }
def State.group? (s : State) (g : Nat) : Option Group := s.groups.find g
def State.setGroup (s : State) (g : Nat) (x : Group) : State := { s with groups := s.groups.put g x }
def State.queue (s : State) (q : Nat) : Queue := s.queues.get Queue.off q
def State.setQueue (s : State) (q : Nat) (x : Queue) : State := { s with queues := s.queues.put q x }
def State.port (s : State) (p : Nat) : Port := s.ports.get Port.reset p
def State.setPort (s : State) (p : Nat) (x : Port) : State := { s with ports := s.ports.put p x }
/-- The core and the group of the executing hart. -/
def State.myCore (s : State) : Core := s.core (slotCore s.cur)
def State.myGroup? (s : State) : Option (Nat × Group) :=
  match s.me.member with
  | some id => (s.group? id.group).map fun g => (id.group, g)
  | none => none

/-- Draw the number of the next free value (log 4). -/
def State.draw (s : State) : State × Nat := ({ s with freeCtr := s.freeCtr + 1 }, s.freeCtr)

/-! ## Scalar registers (R83) -/

def Hart.sget (h : Hart) (r : SReg) : Word := if r = 0 then 0 else h.s.getD r.toNat 0
def Hart.sput (h : Hart) (r : SReg) (x : Word) : Hart := if r = 0 then h else { h with s := h.s.setIfInBounds r.toNat x }

/-- A scalar operand of a vector word: the value captured at the issue of its block (R112, R115). -/
def Hart.operand (h : Hart) (r : SReg) : Word :=
  match h.blk with
  | some b =>
    match b.captured with
    | some c => if r = 0 then 0 else c.getD r.toNat 0
    | none => h.sget r
  | none => h.sget r

/-! ## Vector and mask registers (R106) -/

def Hart.vget (h : Hart) (r : Nat) : VWord := h.v.getD r 0
def Hart.vput (h : Hart) (r : Nat) (x : VWord) : Hart := { h with v := h.v.setIfInBounds r x }
def Hart.mget (h : Hart) (r : MReg) : MWord := if r = 0 then BitVec.allOnes 256 else h.m.getD r.toNat 0
def Hart.mput (h : Hart) (r : MReg) (x : MWord) : Hart := if r = 0 then h else { h with m := h.m.setIfInBounds r.toNat x }

/-! ## Moving on -/

/-- The next word of the scalar stream: in task mode `velem` is 0 after every instruction (R370). -/
def Hart.next (h : Hart) : Hart := { h with pc := h.pc + 4, velem := if h.system then h.velem else 0, wait := none }

/-- Continue the scalar stream at a target (R97, R98). -/
def Hart.jump (h : Hart) (t : Word) : Hart := { h with pc := t, velem := if h.system then h.velem else 0, wait := none }

/-- What the scalar stream does while blocks run or wait: the vector unit keeps its blocks and `velem`, and takes those issued (R112). -/
def Hart.ahead (h : Hart) (f : Hart → Hart) : Hart :=
  match h.blk with
  | none => f h
  | some b =>
    let g := f { h with blk := none, vq := [] }
    { g with blk := some b, vq := h.vq ++ g.blk.toList ++ g.vq, velem := h.velem }

/-- A vector block as an issue of this moment makes it (R112). -/
def Hart.newBlock (h : Hart) (pc : Word) (implied : Bool) (loop : Option Word) (trips : Nat) : Block :=
  ⟨pc, implied, loop, trips, BitVec.allOnes 256, [], h.vlgrant.toNat % 512, h.vcfg, some h.s, [], 0, none, none⟩

/-- A word of the vector unit that the scalar stream meets is issued as a block of one word (R113). -/
def Hart.enterUnit (h : Hart) : Hart :=
  match h.blk with
  | some _ => h
  | none => { h with blk := some (h.newBlock h.pc true none 1), pc := h.pc + 4 }

/-- A captured operand takes the value that an earlier word writes (R112). -/
def Block.feed (b : Block) (r : SReg) (x : Word) : Block := { b with captured := b.captured.map fun c => c.setIfInBounds r.toNat x }

/-- The vector unit writes a scalar register. The words that follow read the new value, in its own block and in those issued after it;
but a `VLOOP` reads what it captured (R112, R115). -/
def Hart.unitPut (h : Hart) (r : SReg) (x : Word) : Hart :=
  match h.blk with
  | some b =>
    { h.sput r x with
      blk := some (if b.loop.isSome then b else b.feed r x)
      vq := h.vq.map fun q => q.feed r x }
  | none => h.sput r x

/-- The wait of the word in the vector unit. -/
def Hart.unitWait (h : Hart) : Option Wait :=
  match h.blk with
  | some b => b.wait
  | none => none
/-- The wait of the stream that executes: of the word in the vector unit, else of the scalar stream's. -/
def Hart.parked (h : Hart) : Option Wait := if h.blk.isSome then h.unitWait else h.wait
/-- The waits of a hart: its scalar stream's and its vector unit's. -/
def Hart.waits (h : Hart) : List Wait := h.wait.toList ++ h.unitWait.toList
/-- The instruction has parked before and executes again (R366). -/
def Hart.parkedAt (h : Hart) (i : Instr) : Bool :=
  match h.parked with
  | some w => w.instr == i
  | none => false

/-- The next word of a block, none of the last one's progress left. -/
def Block.goto (b : Block) (pc : Word) : Block := { b with pc := pc, noted := 0, failed := none, wait := none }

/-- End of the running block: the next queued block starts, or the scalar stream continues (R112). -/
def Hart.endBlock (h : Hart) : Hart :=
  match h.vq with
  | b :: q => { h with blk := some b, vq := q }
  | [] => { h with blk := none }

/-- The next word after a vector word: of the block, or of the scalar stream when the word was an implied block (R113). -/
def Hart.vnext (h : Hart) : Hart :=
  match h.blk with
  | some b =>
    if b.implied then { h with velem := 0 }.endBlock else { h with blk := some (b.goto (b.pc + 4)), velem := 0 }
  | none => { h with pc := h.pc + 4, velem := 0 }

/-- Address of the executing word. -/
def Hart.wordAddr (h : Hart) : Word :=
  match h.blk with
  | some b => b.pc
  | none => h.pc

/-- The grant, the configuration and the fragment mask under which a vector word executes (R112, R116). -/
def Hart.vl (h : Hart) : Nat :=
  match h.blk with
  | some b => b.vl
  | none => h.vlgrant.toNat % 512
def Hart.cfg (h : Hart) : Word :=
  match h.blk with
  | some b => b.vcfg
  | none => h.vcfg
def Hart.frag (h : Hart) : MWord :=
  match h.blk with
  | some b => b.frag
  | none => BitVec.allOnes 256

/-! ## Instruction words -/

/-- The word of an instruction, for the traps that record it (R101, R368). -/
def wordOf (i : Instr) : Word := ((encode i).getD 0).zeroExtend 64

/-! ## Records (R375) -/

def State.record (s : State) (r : HostRecord) : State := { s with records := s.records ++ [r] }

/-! ## Taking a trap (R100) and returning from one (R102) -/

/-- The register S29, which is exchanged with `lhold` (R100, R102). -/
def Hart.exchange (h : Hart) : Hart := { h with s := h.s.setIfInBounds 29 h.lhold, lhold := h.s.getD 29 0 }

/-- What entering a trap records: the point, the cause, the value, and system mode (R100), without the PC. -/
def Hart.enter (h : Hart) (code : Nat) (vec : Bool) (lepc laddr : Word) : Hart :=
  { h.exchange with
    lepc := lepc
    lvelem := h.velem
    lcause := BitVec.ofNat 64 (code % 256 + if vec then 256 else 0)
    laddr := laddr
    system := true
    wait := none }

/-- A block as the vector resume state holds it: it reads its operands afresh when it resumes, a `VLOOP` those captured, and its loop
buffer is filled again (R115, R145, R369). -/
def Block.stopped (b : Block) : Block :=
  { b with wait := none, buffer := [], captured := if b.loop.isSome then b.captured else none }

/-- The vector resume state that a trap of the vector unit leaves: the scalar resume point, the trapped block, the queue (R369). -/
def Hart.stopVector (h : Hart) : Hart :=
  let h := h.enterUnit
  match h.blk with
  | some b => { h with blk := none, vq := [], vrs := some ⟨h.pc, b.stopped, h.vq⟩ }
  | none => h

/-- A trap raised in system mode: the hart freezes with its state intact and the host is told (R373). -/
def State.doubleTrap (s : State) (code : Nat) : State :=
  let h := s.me
  (s.setMe { h with run := .frozen }).record ⟨3, h.asid, s.cur, code, h.lepc, h.laddr, h.lvelem.toNat % 65536⟩

/-- Take a trap (R100): the handler's slot of 64 bytes in the table at `ltvec`; a trap in system mode is a double trap. -/
def State.trapAt (s : State) (code : Nat) (vec : Bool) (lepc laddr : Word) : State :=
  let h := s.me
  if h.system then s.doubleTrap code
  else
    let h := (if vec then h.stopVector else h).enter code vec lepc laddr
    s.setMe { h with pc := h.ltvec + BitVec.ofNat 64 (64 * code) }

/-- A trap of the executing scalar-stream word. -/
def State.trap (s : State) (code : Nat) (laddr : Word) : State := s.trapAt code false s.me.pc laddr

/-- A trap of the executing vector word, with `velem` recording `j` (R136, R140, R145). -/
def State.vtrap (s : State) (code : Nat) (j : Nat) (laddr : Word) : State :=
  let h := s.me
  if h.system then s.doubleTrap code
  else (s.setMe { h with velem := BitVec.ofNat 64 (j % 65536) }).trapAt code true h.wordAddr laddr

/-- A trap of a polynomial or matrix word that stands in a block: the vector unit stops there, and `lcause.vec` is 0 (R189, R222). -/
def State.polyTrapIn (s : State) (code : Nat) (laddr : Word) : State :=
  let h := s.me
  if h.system then s.doubleTrap code
  else (s.setMe { h.stopVector with velem := 0 }).trapAt code false h.wordAddr laddr

/-- Trap codes (R101, R368). -/
def tIllegal : Nat := 0x01
def tPrivilege : Nat := 0x02
def tInstrAlign : Nat := 0x03
def tDataAlign : Nat := 0x04
def tFetch : Nat := 0x05
def tLoad : Nat := 0x06
def tStore : Nat := 0x07
def tFormat : Nat := 0x08
def tSatchel : Nat := 0x09
def tSpill : Nat := 0x0A
def tFragment : Nat := 0x0B
def tPoly : Nat := 0x0C
def tMatrix : Nat := 0x0D
def tTile : Nat := 0x0E
def tScan : Nat := 0x0F
def tSoftware : Nat := 0x10
def tPairing : Nat := 0x11
def tIrrevocable : Nat := 0x12
def tBarrier : Nat := 0x13
def tSlate : Nat := 0x14
def tLocket : Nat := 0x15
def tStrand : Nat := 0x16
def tWatermark : Nat := 0x17
def tPreempt : Nat := 0x18
def tOverrun : Nat := 0x19
def tMachine : Nat := 0x1A
def tSave : Nat := 0x1B

/-- The effect of `RETT` on a hart in system mode (R102, R369): the point, `velem`, S29, task mode; with `lcause.vec` the
trapped block resumes at (`lepc`, `lvelem`) and the scalar stream at its resume point, else the vector resume state is
discarded. At another word than the trapped one nothing of that word's progress is left. -/
def Hart.ret (h : Hart) : Hart :=
  let g := { h.exchange with velem := h.lvelem, system := false, vrs := none, wait := none }
  if h.lcause.getLsbD 8 then
    match h.vrs with
    | some r =>
      { g with pc := r.resume, blk := some (if r.trapped.pc = h.lepc then r.trapped else r.trapped.goto h.lepc), vq := r.queued }
    | none => { g with pc := h.lepc }
  else { g with pc := h.lepc }

/-! ## Parking (R366) -/

/-- The scalar stream stays at the word it executes, which executes again. -/
def State.park (s : State) (why : Why) (i : Instr) : State := s.upd fun h => { h with wait := some ⟨why, i, [], 0⟩ }
/-- The vector unit stays at its word. -/
def State.parkUnit (s : State) (w : Wait) : State :=
  s.upd fun h =>
    let g := h.enterUnit
    { g with blk := g.blk.map fun b => { b with wait := some w } }
/-- A park at which the device keeps translations: at a touch and for a line of the buffer, at no other stall (R387). -/
def Why.keeps (w : Why) : Bool :=
  match w with
  | .touch _ | .overflow => true
  | _ => false

/-- The hart waits at an `ASINV`, where a wound or a pre-emption reaches it, although it is in system mode (R366, R387; DEDUCED, log 42). -/
def Hart.atAsinv (h : Hart) : Bool :=
  match h.wait with
  | some w => (match w.instr with | .asinv _ _ => true | _ => false)
  | none => false

/-- The member has not begun: the runtime pins its save area (R360). -/
def Hart.arming (h : Hart) : Bool := h.wait.any fun w => w.why == .area

/-- A pending pre-emption request takes the hart where it waits (R366): in task mode or at an `ASINV`; after a rollback only a `SETVL` does
(R356), and no task that is committing is stopped (R354). -/
def Hart.yields (h : Hart) : Bool :=
  (!h.system || h.atAsinv) && !h.arming && !h.task.committing && h.preempt.any fun p => p.bound.isSome

/-! ## Checks shared by many forms -/

/-- The task of a slot holds a locket (R345). -/
def State.holdsLocket (s : State) (k : Nat) : Bool :=
  match (s.hart k).member with
  | some id =>
    match s.group? id.group with
    | some g => g.lockets.any fun l => l.2.holder == some id
    | none => false
  | none => false

/-- The task holds a locket and is not irrevocable, so its writes are buffered (R349, R352). -/
def State.buffering (s : State) (k : Nat) : Bool := s.holdsLocket k && !(s.hart k).task.irrevocable

/-- Set flags in `fmode` of the executing hart (R52). -/
def Hart.raise (h : Hart) (f : FlagSet) : Hart := { h with fmode := accrue h.fmode f }

/-- Run an operation of the executing hart for another slot. -/
def State.asSlot (s : State) (k : Nat) (f : State → State) : State :=
  let c := s.cur
  { f { s with cur := k } with cur := c }

/-- A wound may be delivered to the hart in a slot now: in task mode or at an `ASINV` (R387), unless it is void. -/
def Hart.woundReady (h : Hart) : Bool := h.wound && h.run == .running && (!h.system || h.atAsinv) && !h.task.committing && !h.task.irrevocable

/-- A hart saw writes up to a clock elsewhere than in its view: they enter its history, and its later accesses of the class
follow them (R255, R256). -/
def Hart.sees (h : Hart) (cls : Cls) (c : Clock) : Hart :=
  match cls with
  | .vector => { h with clock := h.clock.max c, seenV := h.seenV.max c }
  | _ => { h with clock := h.clock.max c, seen := h.seen.max c }
/-- In both classes: an acquire (R261). -/
def Hart.seesAll (h : Hart) (c : Clock) : Hart := (h.sees .scalar c).sees .vector c

/-- Bits [63:57] of an address all equal bit 56 (R376). -/
def canonical (a : Word) : Bool := a.toNat / 2 ^ 56 == 0 || a.toNat / 2 ^ 56 == 255

end Sys2Proof.Machine
end

