-- ==== Sys2Proof/Machine/Page.lean ====
section
/-! DEFINITION. Translation (21_page): entries, walks, the caches, the permissions, and the fault records. -/

namespace Sys2Proof.Machine

/-- Kinds of access, as a fault record numbers them (R386). -/
inductive Kind where
  | load | write | fetch | atomic | pin
  deriving DecidableEq, Repr

def Kind.code : Kind → Nat
  | load => 0 | write => 1 | fetch => 2 | atomic => 3 | pin => 4
/-- Accesses that write through their translation (R381, R383); a pin writes nothing itself. -/
def Kind.isWrite : Kind → Bool
  | write | atomic => true
  | _ => false
/-- The trap of a failed translation (R101, R385). -/
def Kind.trap : Kind → Nat
  | load => tLoad | fetch => tFetch | _ => tStore

/-- Why a translation failed: the reason and the level of R386. -/
structure Fail where
  reason : Nat
  level : Nat
  deriving DecidableEq, Repr

/-- Reasons 4 and 6 only trap; the others send a record (R385). -/
def Fail.recorded (f : Fail) : Bool := f.reason != 4 && f.reason != 6

/-- A walk met an uncorrectable soft error in a table: a machine-check, no fault (R384). The number is no reason of R386. -/
def Fail.corrupt : Fail := ⟨8, 0xFF⟩

/-! ## Entries (R379, R380) -/

def pteV (e : Word) : Bool := e.getLsbD 0
def pteLeaf (e : Word) : Bool := e.getLsbD 1
def pteR (e : Word) : Bool := e.getLsbD 2
def pteW (e : Word) : Bool := e.getLsbD 3
def pteX (e : Word) : Bool := e.getLsbD 4
def pteState (e : Word) : Nat := (e.extractLsb' 5 3).toNat
def pteD (e : Word) : Bool := e.getLsbD 9
def pteFrame (e : Word) : Nat := (e.extractLsb' 12 36).toNat * 4096
def pteSize (e : Word) : Nat := (e.extractLsb' 48 4).toNat

/-- The size exponent of a size code, and its level (R380). -/
def sizeBits (c : Nat) : Nat :=
  if c ≤ 8 then 12 + c else [21, 22, 24, 26, 28, 30, 32].getD (c - 9) 32
def sizeLevel (c : Nat) : Nat := if c ≤ 8 then 0 else if c ≤ 13 then 1 else 2

/-- A valid entry at a level that is malformed (R379). -/
def pteMalformed (e : Word) (level : Nat) : Bool :=
  e.extractLsb' 10 2 != 0 || e.extractLsb' 52 12 != 0 ||
  (if pteLeaf e then
    let k := sizeBits (pteSize e)
    2 < level || sizeLevel (pteSize e) != level || pteFrame e % 2 ^ k != 0 || 5 < pteState e
      || !(physAssigned (pteFrame e) && physAssigned (pteFrame e + 2 ^ k - 1))
      || (pteState e == 5 && !(inDram (pteFrame e) && inDram (pteFrame e + 2 ^ k - 1)))
  else level == 0 || pteSize e != 0 || !inDram (pteFrame e))

/-- Index of level `l` in a virtual address (R378). -/
def vaIndex (va : Word) (l : Nat) : Nat := va.toNat / 2 ^ (12 + 9 * l) % 512

/-- A location reads corrupt: it holds an uncorrectable soft error, or the slot of its compressed block does, which no reading expands
(R240, R372). -/
def State.spoiled (s : State) (loc : Nat) : Bool :=
  s.soft.contains loc || (s.packedAt (loc / 256 * 256) && s.soft.any fun a => a / 256 == loc / 256)
/-- A location of an access reads corrupt (R372). -/
def State.corrupt (s : State) (loc n : Nat) : Bool := !s.soft.isEmpty && (List.range n).any fun i => s.spoiled (loc + i)

/-- A walk of a table at a level, in the view of a quarter (R378, R384); it ends after five levels. -/
def State.walkFrom (s : State) (q : Nat) (va : Word) (table level : Nat) : Fail ⊕ (Word × Nat × Nat) :=
  let at_ := table + 8 * vaIndex va level
  let e := BitVec.ofNat 64 (s.viewNat q .h at_ 8)
  if s.corrupt at_ 8 then .inl Fail.corrupt
  else if !pteV e then .inl ⟨1, level⟩
  else if pteMalformed e level then .inl ⟨5, level⟩
  else if pteLeaf e then .inr (e, at_, level)
  else
    match level with
    | 0 => .inl ⟨5, 0⟩
    | l + 1 => s.walkFrom q va (pteFrame e) l

/-- The cached form of a leaf that translates `va` (R380). -/
def transOf (asid : Nat) (va : Word) (e : Word) (at_ level : Nat) : Trans :=
  let k := sizeBits (pteSize e)
  let n := 2 ^ (k - (12 + 9 * level))
  let first := at_ - 8 * (vaIndex va level % n)
  ⟨asid, va.toNat / 2 ^ k * 2 ^ k, k, e, (List.range n).map fun i => first + 8 * i, pteD e⟩

/-- A cached translation covers an address. -/
def Trans.covers (t : Trans) (asid : Nat) (va : Word) : Bool := t.asid == asid && va.toNat / 2 ^ t.bits * 2 ^ t.bits == t.base

/-- The translation in force without a walk: a pinned one (R382), or one the quarter caches (R384). -/
def State.cached (s : State) (q asid : Nat) (va : Word) : Option Trans :=
  match s.pins.find? fun p => p.trans.covers asid va with
  | some p => some p.trans
  | none => (s.tlbs.get [] q).find? fun t => t.covers asid va

/-- Set a bit of every leaf of a group, each an atomic at the home of the table (R383). -/
def State.setLeafBit (s : State) (leaves : List Nat) (bit : Nat) : State :=
  leaves.foldl (fun s a =>
    let s := s.settleHome Clock.zero a
    let old := s.viewNat (homeOf a) .h a 8
    if old / 2 ^ bit % 2 = 1 then s
    else (s.homeWrite Clock.zero none .engine (cellsAt a (leBytes 8 (old + 2 ^ bit)))).1) s

/-- Cache a walked leaf: its a bit is set first (R383, R384). -/
def State.fill (s : State) (q : Nat) (t : Trans) : State :=
  let s := s.setLeafBit t.leaves 8
  { s with tlbs := s.tlbs.put q (t :: s.tlbs.get [] q) }

/-- Two copies of one translation: the same page of one context, from the same leaves. -/
def Trans.same (t x : Trans) : Bool := x.asid == t.asid && x.base == t.base && x.leaves == t.leaves

/-- Mark a cached translation dirty after setting d (R383). -/
def State.dirty (s : State) (q : Nat) (t : Trans) : State :=
  if t.dirty then s
  else
    let s := s.setLeafBit t.leaves 9
    { s with
      tlbs := s.tlbs.put q ((s.tlbs.get [] q).map fun x => if t.same x then { x with dirty := true } else x)
      pins := s.pins.map fun p => if t.same p.trans then { p with trans := { p.trans with dirty := true } } else p }

/-- What a leaf allows (R381): a denial with its reason, or whether the access waits on a migration. -/
def leafAllows (e : Word) (k : Kind) : Fail ⊕ Bool :=
  match k with
  | .load => if pteR e then .inr false else .inl ⟨2, 0xFF⟩
  | .fetch => if pteX e then .inr false else .inl ⟨2, 0xFF⟩
  | .pin =>
    if pteState e = 4 then .inr true
    else if pteState e = 0 || pteState e = 3 then (if pteW e then .inr false else .inl ⟨2, 0xFF⟩)
    else .inl ⟨7, 0xFF⟩
  | _ =>
    if pteState e = 1 then .inl ⟨2, 0xFF⟩
    else if pteState e = 2 then .inl ⟨3, 0xFF⟩
    else if pteState e = 4 then .inr true
    else if pteW e then .inr false
    else .inl ⟨2, 0xFF⟩

/-- The outcome of a translation. -/
inductive Tr where
  | ok (s : State) (loc : Nat)
  | fail (f : Fail)
  | wait (s : State) (why : Why)

/-- The physical address that a translation gives. -/
def Trans.loc (t : Trans) (va : Word) : Nat := pteFrame t.leaf + va.toNat % 2 ^ t.bits

/-- A location of host memory while the host link is down: nothing of the device reaches it (R7, R405). -/
def State.unlinked (s : State) (loc : Nat) : Bool := s.hostLink.isNone && inHostMem loc

/-- Use a translation for an access (R381). An access to host memory waits for the host link, which a pin, that moves no byte, does not need (R7; log 35). -/
def State.useTrans (s : State) (t : Trans) (k : Kind) (va : Word) : Tr :=
  match leafAllows t.leaf k with
  | .inl f => .fail f
  | .inr true => .wait s .migrating
  | .inr false => if k != .pin && s.unlinked (t.loc va) then .wait s .hostLink else .ok s (t.loc va)

/-- Memory is stalled by a recess (R394). -/
def State.stalled (s : State) : Bool := s.recess.start.isSome

/-- A virtual address in the windows of R225. -/
def inWindow (va : Word) : Bool := Config.slabWindow ≤ va.toNat && va.toNat < Config.windowsEnd

/-- Set d of the page that a write of an engine, a port or a save is performed in, at once after its translation (R383). -/
def State.markDirty (s : State) (q asid : Nat) (va : Word) : State :=
  if inWindow va then s
  else
    match s.cached q asid va with
    | some t => s.dirty q t
    | none => s

/-- The page of an address that a walk in a quarter is of: the leaf's that the table holds, where it holds one (R384). -/
def State.walkPage (s : State) (q asid : Nat) (va : Word) : Word :=
  match s.walkFrom q va (s.ctx asid).root 4 with
  | .inr (e, at_, level) => BitVec.ofNat 64 (transOf asid va e at_ level).base
  | .inl _ => BitVec.ofNat 64 (va.toNat / 4096 * 4096)

/-- A walk of a quarter is the one of a page. -/
def Walk.of (w : Walk) (q asid : Nat) (page : Word) : Bool := w.cluster / 8 == q && w.asid == asid && w.va == page

/-- A miss joins the walk of its page, or takes one of the 128 of its cluster's walker; further misses wait for a free one (R384). A walk
that an access joins is no longer `PGPROBE`'s alone (R388). -/
def State.missWalk (s : State) (cl asid : Nat) (va : Word) (probe : Bool) : State :=
  let page := s.walkPage (cl / 8) asid va
  if s.walks.any (·.of (cl / 8) asid page) then
    { s with walks := s.walks.map fun w => if w.of (cl / 8) asid page then { w with probe := w.probe && probe } else w }
  else if 128 ≤ (s.walks.filter fun w => w.cluster == cl).length then s
  else { s with walks := s.walks ++ [⟨cl, asid, page, probe⟩] }

/-- Translate an address of a context for an access from core `c` of quarter `q` (R225, R376-R385). -/
def State.translate (s : State) (q c asid : Nat) (k : Kind) (va : Word) : Tr :=
  if !canonical va then .fail ⟨4, 0xFF⟩
  else if inWindow va then
    if k != .fetch && va.toNat < Config.slabWindow + Config.slabSize then .ok s (slabLoc c (va.toNat - Config.slabWindow))
    else .fail ⟨6, 0xFF⟩
  else
    match s.cached q asid va with
    | some t => s.useTrans t k va
    | none =>
      if s.stalled then .wait (s.missWalk (c / 8) asid va false) (.walk va)
      else
        match s.walkFrom q va (s.ctx asid).root 4 with
        | .inl f => .fail f
        | .inr (e, at_, level) =>
          match leafAllows e k with
          | .inl f => .fail f
          | .inr _ =>
            let t := transOf asid va e at_ level
            (s.fill q t).useTrans { t with leaf := t.leaf ||| 0x100 } k va

/-- The translations that the device keeps for the word that executes (R146, R155, R185). -/
def Hart.held (h : Hart) : List Trans :=
  match h.parked with
  | some w => w.held
  | none => []

/-- Translate for the executing hart: a translation kept for its word stays in force (R387). -/
def State.translateMe (s : State) (k : Kind) (va : Word) : Tr :=
  match if k = .fetch then none else s.me.held.find? fun t => t.covers s.me.asid va with
  | some t => s.useTrans t k va
  | none => s.translate (slotQuarter s.cur) (slotCore s.cur) s.me.asid k va

/-- The translation that an access of the executing hart goes through: the one kept for its word, else the one in force. -/
def State.myTrans (s : State) (va : Word) : Option Trans :=
  match s.me.held.find? fun t => t.covers s.me.asid va with
  | some t => some t
  | none => if inWindow va then none else s.cached (slotQuarter s.cur) s.me.asid va

/-- Set d of the leaf that a write of the executing hart goes through (R383). -/
def State.markMine (s : State) (va : Word) : State :=
  match s.myTrans va with
  | some t => s.dirty (slotQuarter s.cur) t
  | none => s

/-- The leaves that a buffered write of the executing hart is to set d in at its commit (R383). -/
def State.dirtyLeaves (s : State) (va : Word) : List Nat :=
  match s.myTrans va with
  | some t => if t.dirty then [] else t.leaves
  | none => []

/-- The translations in force for some addresses of the executing hart, to be kept over a park. -/
def State.hold (s : State) (as : List Word) : List Trans :=
  as.filterMap s.myTrans

/-- A machine-check: the record and the trap (R372). -/
def State.machineCheck (s : State) (vec : Bool) (j : Nat) (laddr : Word) : State :=
  let h := s.me
  let s := s.record ⟨4, h.asid, s.cur, tMachine, if vec then h.wordAddr else h.pc, laddr, j⟩
  if vec then s.vtrap tMachine j laddr else s.trap tMachine laddr

/-- The scalar stream stays at a word whose accesses reach these addresses (R387). -/
def State.parkHold (s : State) (why : Why) (i : Instr) (as : List Word) : State :=
  s.upd fun h => { h with wait := some ⟨why, i, if why.keeps then s.hold as else [], 0⟩ }

/-- Send a fault record of the executing hart (R385, R386), in the place of one that its slot still has outstanding: a handler has returned before the
answer, or the slot held another hart then (DEDUCED, log 40). -/
def State.sendFault (s : State) (k : Kind) (f : Fail) (va : Word) (element : Bool) (lepc : Word) (index : Nat) : State :=
  let h := s.me
  if f.recorded then
    { s.setMe { h with faultSeq := (h.faultSeq + 1) % 2 ^ 32 } with
      faults := (s.faults.filter fun x => x.source != s.cur) ++ [⟨s.nextTicket, h.asid, s.cur, k.code, f.reason, f.level, element, va, lepc, index, h.faultSeq⟩]
      nextTicket := s.nextTicket + 1 }
  else s
/-- A record of the hart in a slot waits for its answer. -/
def State.unanswered (s : State) (k : Nat) : Bool := s.faults.any fun f => f.source == k

/-- The fault record of the executing hart's instruction: in system mode none while its trapping instruction's is outstanding (R385). -/
def State.faultRecord (s : State) (k : Kind) (f : Fail) (va : Word) (element : Bool) (lepc : Word) (index : Nat) : State :=
  if s.me.system && s.unanswered s.cur then s else s.sendFault k f va element lepc index

/-- A failed translation of a scalar-stream word: the record and the trap (R95, R385). -/
def State.failScalar (s : State) (k : Kind) (f : Fail) (va : Word) : State :=
  if f = Fail.corrupt then s.machineCheck false 0 va else (s.faultRecord k f va false s.me.pc 0).trap k.trap va

/-- A failed translation of a vector word at `velem` = `j` (R145, R147). -/
def State.failVector (s : State) (k : Kind) (f : Fail) (va : Word) (element : Bool) (j : Nat) : State :=
  if f = Fail.corrupt then s.machineCheck true j va else (s.faultRecord k f va element s.me.wordAddr j).vtrap k.trap j va

/-- The first addresses of the pages of `[a, a + n)`, at the 4 KiB grain that every page is a multiple of. -/
def pagesOf (a : Word) (n : Nat) : List Word :=
  if n = 0 then []
  else (List.range ((a.toNat % 4096 + n - 1) / 4096 + 1)).map fun i =>
    if i = 0 then a else BitVec.ofNat 64 (a.toNat / 4096 * 4096 + 4096 * i)

/-- Parts of a range that lie in one page each; a range that passes 2^64 goes on at address 0 (log 16). -/
def partsOf (a : Word) (n : Nat) : List (Word × Nat) :=
  (pagesOf a n).map fun p => (p, min (n - (p - a).toNat) (4096 - p.toNat % 4096))

/-- The outcome of translating a range: a map from pages to locations. -/
inductive TrRange where
  | ok (s : State)
  | fail (s : State) (f : Fail) (va : Word)
  | wait (s : State) (why : Why)

/-- Translate every page of a list in its order (R155, R185). The failure reported is the first: the lowest failing address, which in a frame
that wraps past 2^64 means the first in the frame's own order (DESIGN CHOICE, log 50). -/
def State.translateAll (s : State) (k : Kind) (ps : List Word) : TrRange :=
  match ps with
  | [] => .ok s
  | a :: r =>
    match s.translateMe k a with
    | .ok s _ => s.translateAll k r
    | .fail f => .fail s f a
    | .wait s w => .wait s w

/-- A translation lies in the scope of an invalidation: every context, one context, or one page of it (R387). -/
def Trans.inScope (t : Trans) (a va : Word) : Bool :=
  let asid := a.toNat % 4096
  if a.getLsbD 13 then true
  else if a.getLsbD 12 then t.asid == asid
  else canonical va && t.covers asid va

/-- Drop the cached translations in a scope, in every quarter (R387). -/
def State.invalidate (s : State) (a va : Word) : State :=
  { s with tlbs := s.tlbs.map fun e => (e.1, e.2.filter fun t => !t.inScope a va) }

/-- A word of a hart still keeps a translation in the scope, so its access is not performed yet (R387). -/
def State.keptBy (s : State) (other : Nat → Bool) (a va : Word) : Bool :=
  s.harts.any fun e => other e.1 && e.2.run == .running && e.2.waits.any fun w => w.held.any fun t => t.inScope a va
/-- Of a hart other than the executing one. -/
def State.keepsInScope (s : State) (a va : Word) : Bool := s.keptBy (fun k => k != s.cur) a va

end Sys2Proof.Machine
end

