-- ==== Sys2Proof/Machine/Access.lean ====
section
/-! DEFINITION. An H-path access of a hart, from its address to its bytes: translation, watermarks, lockets, recesses, the locket
write buffer, and the views (R95, R96, R140-R146, R269, R345-R351, R394). -/

namespace Sys2Proof.Machine

/-! ## Watermarks (R266-R270) -/

/-- The hart record of a member: in its slot, or as it was saved or stopped. -/
def State.memberHart (s : State) (g : Group) (key : Nat) : Option Hart :=
  match g.members.find key with
  | some m =>
    match m.state with
    | .running k => some (s.hart k)
    | _ => m.saved
  | none => none

/-- A watermark of a hart as a view shows it, else as the register holds it (R269). -/
def Hart.mark (h : Hart) (view : Option Nat) (idx : Nat) : Nat :=
  match view with
  | some r => (h.marks.getD (8 * r + idx) (0, Clock.zero)).1.toNat
  | none => (h.w.getD idx 0).toNat

/-- The watermarks of a hart reach the views of some quarters (R265, R269). -/
def Hart.showMarks (h : Hart) (rs : List Nat) : Hart :=
  { h with marks := rs.foldl (fun m r =>
      (List.range 8).foldl (fun m i => m.setIfInBounds (8 * r + i) (h.w.getD i 0, h.wclk.getD i Clock.zero)) m) h.marks }

/-- What one member contributes to its group's watermark (R268). -/
def State.memberMark (s : State) (view : Option Nat) (g : Group) (key idx : Nat) : Nat :=
  match g.members.find key with
  | some m =>
    match m.state with
    | .waiting => 0
    | .ended => 2 ^ 64 - 1
    | .running k => (s.hart k).mark view idx
    | _ => match m.saved with | some h => h.mark view idx | none => 0
  | none => 0

/-- Keys of the members of a group: member `m` of team `t` at `32 t + m` (R273). -/
def Group.memberKeys (g : Group) : List Nat :=
  (List.range (g.x * g.y)).flatMap fun t => (List.range g.n).map fun m => 32 * t + m

/-- The group watermark (R268), as a view shows it, else by the registers; a group that the device no longer knows is complete. -/
def State.groupMark (s : State) (view : Option Nat) (gn idx : Nat) : Nat :=
  match s.group? gn with
  | none => 2 ^ 64 - 1
  | some g =>
    if g.state = .complete then 2 ^ 64 - 1
    else g.memberKeys.foldl (fun a k => Nat.min a (s.memberMark view g k idx)) (2 ^ 64 - 1)

/-- The view in which the executing hart sees the watermarks of a group: of one that has failed they are judged as they stand (R270). -/
def State.markView (s : State) (gn : Nat) : Option Nat :=
  match s.group? gn with
  | some g => if g.state = .failed then none else some (slotQuarter s.cur)
  | none => none

/-- A read of `n` bytes at `a` lies at or above a binding's watermark (R269). -/
def State.aboveMark (s : State) (b : Binding) (a n : Nat) : Bool :=
  b.base.toNat ≤ a + n - 1 && b.base.toNat + s.groupMark (s.markView b.producer) b.producer b.index * b.size ≤ a + n - 1

/-- What the bindings of the executing hart's group say of a read: go on, stall, or trap (R269, R270). -/
def State.markGate (s : State) (a n : Nat) : Option Bool :=
  match s.myGroup? with
  | none => none
  | some (_, g) =>
    match g.bindings.filter fun b => s.aboveMark b a n with
    | [] => none
    | bs => some (bs.any fun b => match s.group? b.producer with | some p => p.state = .failed | none => false)

/-- The history of the `WMSET`s that made a group's watermark what the executing hart's view shows: those of its harts, and all of a hart
that has ended. -/
def State.groupMarkClock (s : State) (gn idx : Nat) : Clock :=
  match s.group? gn with
  | none => Clock.zero
  | some g => g.memberKeys.foldl (fun c k => match s.memberHart g k with | some h => c.max (h.marks.getD (8 * slotQuarter s.cur + idx) (0, Clock.zero)).2 | none => c) g.ended

/-- What a read that its watermarks let go is causally after (R269). -/
def State.markClock (s : State) (a n : Nat) : Clock :=
  match s.myGroup? with
  | none => Clock.zero
  | some (_, g) =>
    (g.bindings.filter fun b => b.base.toNat ≤ a + n - 1).foldl (fun c b => c.max (s.groupMarkClock b.producer b.index)) Clock.zero

/-! ## Lockets (R345-R347) -/

/-- Two byte ranges share a byte. -/
def overlaps (a n b m : Nat) : Bool := a < b + m && b < a + n

/-- The declared lockets that an access reaches, in ascending id (R345). -/
def Group.touched (g : Group) (a n : Nat) : List (Nat × Locket) :=
  g.lockets.filter fun l => 0 < l.2.length && overlaps a n l.2.base.toNat l.2.length

def MemberId.key (id : MemberId) : Nat := 32 * id.team + id.member

/-- The task of a member (R343). -/
def State.taskOf (s : State) (id : MemberId) : Option Task :=
  match s.group? id.group with
  | some g => (s.memberHart g id.key).map (·.task)
  | none => none

/-- Another task of the group is irrevocable (R351). -/
def State.otherIrrevocable (s : State) (g : Group) (id : MemberId) : Bool :=
  g.lockets.any fun l =>
    match l.2.holder with
    | some o => o != id && (match s.taskOf o with | some t => t.irrevocable | none => false)
    | none => false

/-- The waiter that a released locket goes to: the oldest that waits at it (R346), a frozen hart being none (R100), or the irrevocable one while there is one (R351). -/
def State.oldestWaiter (s : State) (lid : Nat) (ws : List Nat) : Option Nat :=
  (ws.filter fun k => k == s.cur || ((s.hart k).run == .running && (s.hart k).waits.any fun w => w.why == .touch lid)).foldl (fun a k =>
    match a with
    | none => some k
    | some j =>
      if (s.hart k).task.irrevocable && !(s.hart j).task.irrevocable then some k
      else if (s.hart j).task.irrevocable then some j
      else if (s.hart k).task.stamp < (s.hart j).task.stamp then some k else some j) none

/-- A locket that is free goes to its oldest waiter (R346), to no task while another of the group is irrevocable (R351). Every later load of the
task that gets it, in either of its streams, follows the commit that released it (R350). -/
def State.grantLocket (s : State) (gn lid : Nat) : State :=
  match s.group? gn with
  | none => s
  | some g =>
    match g.lockets.find lid with
    | none => s
    | some l =>
      match s.oldestWaiter lid l.waiters with
      | none => s
      | some k =>
        match (s.hart k).member with
        | none => s
        | some id =>
          if l.holder.isSome || s.otherIrrevocable g id then s
          else
            (s.setGroup gn { g with lockets := g.lockets.put lid { l with holder := some id, waiters := l.waiters.filter (· != k) } }).setHart k
              ((s.hart k).seesAll l.clock)

/-- Release every locket of a member, each to its oldest waiter or free (R346, R348, R350). Lockets that stayed free with waiters while the
member was irrevocable go to their oldest waiters too (R351, R356). A release takes nothing from the clock that an earlier commit left on a locket: after a
rollback its next holder still follows that commit (DESIGN CHOICE, log 43). -/
def State.releaseLockets (s : State) (id : MemberId) : State :=
  match s.group? id.group with
  | none => s
  | some g =>
    let s := s.setGroup id.group { g with
      lockets := g.lockets.map fun l => (l.1, if l.2.holder = some id then { l.2 with holder := none } else l.2) }
    (g.lockets.filter fun l => l.2.holder == some id || l.2.holder.isNone).foldl (fun s l => s.grantLocket id.group l.1) s

/-- A slot no longer waits for any locket of its group (R347, R354). -/
def State.dropWaiter (s : State) (gn k : Nat) : State :=
  match s.group? gn with
  | none => s
  | some g => s.setGroup gn { g with lockets := g.lockets.map fun l => (l.1, { l.2 with waiters := l.2.waiters.filter (· != k) }) }

/-- Wound a holder: in its slot it takes the wound at its next boundary. One that is saved, or that a save fault holds while it is being
saved, loses its buffered lines and its lockets at once, and its saved state will be replaced (R347, R353). -/
def State.woundMember (s : State) (id : MemberId) : State :=
  match s.group? id.group with
  | none => s
  | some g =>
    match g.members.find id.key with
    | none => s
    | some m =>
      match m.state with
      | .running k =>
        let h := s.hart k
        if h.task.committing || h.task.irrevocable then s
        else
          match h.run with
          | .saveFault _ _ _ _ | .saving _ _ _ _ => (s.setHart k { h with wound := true, lines := [], spill := [] }).releaseLockets id
          | _ => s.setHart k { h with wound := true }
      | .saved =>
        match m.saved with
        | some h =>
          (s.setGroup id.group { g with members := g.members.put id.key { m with saved := some { h with wound := true, spill := [] } } }).releaseLockets id
        | none => s
      | _ => s

/-- The outcome of a gate. -/
inductive Gate where
  | go (s : State)
  | wait (s : State) (why : Why)

/-- Touch one locket (R345, R346, R351). A free one whose waiters were held off while a task was irrevocable goes to the oldest of them and
of the toucher (R356). -/
def State.touchOne (s : State) (id : MemberId) (lid : Nat) : Gate :=
  match s.group? id.group with
  | none => .go s
  | some g =>
    match g.lockets.find lid with
    | none => .go s
    | some l =>
      if l.holder = some id then .go (s.upd fun h => h.seesAll l.clock)
      else
        let lq : Locket := { l with waiters := if l.waiters.contains s.cur then l.waiters else l.waiters ++ [s.cur] }
        let queued := s.setGroup id.group { g with lockets := g.lockets.put lid lq }
        match l.holder with
        | none =>
          if s.otherIrrevocable g id then .wait queued (.touch lid)
          else if (queued.oldestWaiter lid lq.waiters).any (· != s.cur) then .wait (queued.grantLocket id.group lid) (.touch lid)
          else
            let lh : Locket := { l with holder := some id, waiters := l.waiters.filter (· != s.cur) }
            .go ((s.setGroup id.group { g with lockets := g.lockets.put lid lh }).upd fun h => h.seesAll l.clock)
        | some o =>
          match s.taskOf o with
          | some t =>
            if t.irrevocable then .wait queued (.touch lid)
            else if s.me.task.irrevocable || s.me.task.stamp < t.stamp then .wait (queued.woundMember o) (.touch lid)
            else .wait queued (.touch lid)
          | none => .wait queued (.touch lid)

def State.touchAll (s : State) (id : MemberId) (ls : List (Nat × Locket)) : Gate :=
  match ls with
  | [] => .go s
  | l :: r =>
    match s.touchOne id l.1 with
    | .go s => s.touchAll id r
    | .wait s w => .wait s w

/-- Touch the lockets of `n` bytes at a virtual address (R345). -/
def State.touch (s : State) (a n : Nat) : Gate :=
  match s.me.member with
  | none => .go s
  | some id =>
    match s.group? id.group with
    | none => .go s
    | some g => s.touchAll id (g.touched a n)

/-! ## The locket write buffer (R349) -/

def coreSlots (c : Nat) : List Nat := [4 * c, 4 * c + 1, 4 * c + 2, 4 * c + 3]
/-- Lines in use in the buffer of a core. -/
def State.linesUsed (s : State) (c : Nat) : Nat := (coreSlots c).foldl (fun n k => n + (s.hart k).lines.length) 0

def Line.byte? (l : Line) (loc : Nat) : Option Byte :=
  if loc / 64 * 64 = l.pa && l.valid.getLsbD (loc % 64) then some (l.data.extractLsb' (8 * (loc % 64)) 8) else none
def Line.put (l : Line) (o : Nat) (b : Byte) : Line :=
  { l with
    valid := l.valid ||| BitVec.ofNat 64 (2 ^ o)
    data := (l.data &&& ~~~(BitVec.ofNat 512 (255 * 2 ^ (8 * o)))) ||| (b.zeroExtend 512 <<< (8 * o)) }

/-- The task's own buffered byte, in the buffer or still in its spill. -/
def Hart.buffered (h : Hart) (loc : Nat) : Option Byte :=
  (h.lines ++ h.spill).findSome? fun l => l.byte? loc

/-- Put one byte into the task's lines, taking a line for a block it does not hold. -/
def putLine (ls : List Line) (va : Word) (loc : Nat) (b : Byte) : List Line :=
  match ls with
  | [] => [(⟨BitVec.ofNat 64 (va.toNat / 64 * 64), loc / 64 * 64, 0, 0, []⟩ : Line).put (loc % 64) b]
  | l :: r => if l.pa = loc / 64 * 64 then l.put (loc % 64) b :: r else l :: putLine r va loc b

def putLines (ls : List Line) (va : Word) (loc : Nat) (bs : List Byte) : List Line :=
  match bs with
  | [] => ls
  | b :: r => putLines (putLine ls va loc b) (va + 1) (loc + 1) r

/-- The lines that `n` bytes at a location reach hold leaves to set d in (R383). -/
def throughLeaves (ls : List Line) (loc n : Nat) (leaves : List Nat) : List Line :=
  ls.map fun l => if overlaps loc n l.pa 64 then { l with leaves := l.leaves ++ leaves.filter fun a => !l.leaves.contains a } else l

/-! ## Reading and writing bytes -/

/-- One byte as a load of the executing hart finds it, and the clock of the write it returns: its buffered byte, its own write not yet
applied, else what its view shows (R251, R255, R349). -/
def State.readByte (s : State) (cls : Cls) (loc : Nat) : Byte × Clock :=
  let r := viewOf (slotQuarter s.cur) loc
  match s.me.buffered loc with
  | some b => (b, Clock.zero)
  | none =>
    match ownByte s.writes s.cur r cls loc with
    | some b => (b, Clock.zero)
    | none => (s.viewByte r .h loc, s.byteClock r .h loc)

/-- The bytes of a load of the executing hart, of a view that shows what the access follows (R251, R256); its history takes in the
writes it returns (R255), and its later accesses of the class follow them: host memory is read in the view of Q0, and everything else in the
hart's own, so that what one of the two views shows the other may not show yet (R250, R256). -/
def State.readBytes (s : State) (cls : Cls) (loc n : Nat) : State × List Byte :=
  let h := s.me
  let s := s.settleView (if cls = .vector then h.seenV else h.seen) (viewOf (slotQuarter s.cur) loc)
  let bs := (List.range n).map fun i => s.readByte cls (loc + i)
  let c := bs.foldl (fun c b => c.max b.2) Clock.zero
  (s.setMe (h.sees cls c), bs.map (·.1))

/-- An ordinary write of the executing hart, issued into its quarter's sequence (R255). -/
def State.issueMe (s : State) (cls : Cls) (cells : List Host.Cell) : State :=
  if cells.isEmpty then s
  else
    let h := s.me
    let (t, v) := s.issueWrite (slotQuarter s.cur) h.clock (some s.cur) cls .h cells
    t.setMe { h with clock := h.clock.max v }

/-- Write bytes: into the buffer while the task holds a locket and is not irrevocable (R349), else as an ordinary write;
`none` when no line is free (R351). -/
def State.writeBytes (s : State) (cls : Cls) (va : Word) (loc : Nat) (bs : List Byte) : Option State :=
  if s.buffering s.cur then
    let h := s.me
    let ls := throughLeaves (putLines h.lines va loc bs) loc bs.length (s.dirtyLeaves va)
    if h.spill.isEmpty && s.linesUsed (slotCore s.cur) + ls.length ≤ 1024 + h.lines.length then some (s.setMe { h with lines := ls })
    else none
  else some ((s.markMine va).issueMe cls (cellsAt loc bs))

/-! ## The whole way of an access -/

/-- The lines that the writes of `n` bytes at a location of each block need are free (R351). -/
def State.linesFit (s : State) (ws : List (Word × Nat × Nat)) : Bool :=
  !s.buffering s.cur ||
    (s.me.spill.isEmpty && s.linesUsed (slotCore s.cur) +
      (ws.foldl (fun ls w => putLines ls w.1 w.2.1 (List.replicate w.2.2 0)) s.me.lines).length ≤ 1024 + s.me.lines.length)

/-- The outcome of an access before its bytes move. -/
inductive Acc where
  | ok (s : State) (loc : Nat)
  | fail (f : Fail)
  | wait (s : State) (why : Why)
  /-- The watermark trap (R270). -/
  | mark
  /-- An uncorrectable soft error: what `laddr` records of it (R372). -/
  | soft (laddr : Word)

/-- `laddr` of a machine-check with a code of its own (R372). -/
def codeAddr (code : Nat) : Word := BitVec.ofNat 64 (2 ^ 63 + code)

/-- The uncorrectable soft error that an access finds: in a line of the buffer that it reaches, or at a location of memory that it
reads, or writes other than through the buffer (R349, R372). -/
def State.softAt (s : State) (k : Kind) (va : Word) (loc n : Nat) : Option Word :=
  let h := s.me
  if h.lines.any fun l => h.bad.contains (.line l.pa) && overlaps loc n l.pa 64 then some (codeAddr 3)
  else if !s.soft.isEmpty && (List.range n).any (fun i =>
      s.spoiled (loc + i) && !(if k = .write then s.buffering s.cur else (h.buffered (loc + i)).isSome)) then some va
  else none

/-- A recess stalls what reaches a vault, GDDR 7, a slab or weight space; host memory is none of them (R394). -/
def recessStalls (loc : Nat) : Bool := !inHostMem loc

/-- A write of the executing hart is the first through its translation, so that it sets d in a leaf that lies in a vault or GDDR 7 (R379, R383). -/
def State.setsD (s : State) (k : Kind) (va : Word) : Bool :=
  k.isWrite && !s.buffering s.cur && (s.myTrans va).any fun t => !t.dirty

/-- The gates after translation: watermarks for reads, lockets, the recess, which the setting of d waits out too (R269, R345, R383, R394). -/
def State.gates (s : State) (cls : Cls) (k : Kind) (va : Word) (loc n : Nat) : Acc :=
  let reads := k = .load || k = .atomic
  match if reads then s.markGate va.toNat n else none with
  | some true => .mark
  | some false => .wait s .watermark
  | none =>
    let s := if reads then s.upd (·.sees cls (s.markClock va.toNat n)) else s
    match s.touch va.toNat n with
    | .wait s w => .wait s w
    | .go s =>
      if s.stalled && (recessStalls loc || s.setsD k va) then .wait s .recess
      else
        match s.softAt k va loc n with
        | some a => .soft a
        | none => .ok s loc

/-- An aligned access of `n` bytes of the executing hart. -/
def State.access (s : State) (cls : Cls) (k : Kind) (va : Word) (n : Nat) : Acc :=
  match s.translateMe k va with
  | .fail f => if f = Fail.corrupt then .soft va else .fail f
  | .wait s w => .wait s w
  | .ok s loc => s.gates cls k va loc n

/-- What every outcome but success means to a scalar-stream word `i`. -/
def State.scalarStop (s : State) (i : Instr) (k : Kind) (va : Word) (a : Acc) : State :=
  match a with
  | .ok s _ => s
  | .fail f => s.failScalar k f va
  | .wait s w => s.park w i
  | .mark => s.trap tWatermark va
  | .soft a => s.machineCheck false 0 a

/-- A scalar load of `n` bytes into S[d] (R94-R96). -/
def State.scalarLoad (s : State) (i : Instr) (d : SReg) (va : Word) (n : Nat) (signed : Bool) : State :=
  if va.toNat % n ≠ 0 then s.trap tDataAlign va
  else
    match s.access .scalar .load va n with
    | .ok s loc =>
      let (s, bs) := s.readBytes .scalar loc n
      let x := BitVec.ofNat 64 (leNat bs)
      let x := if signed && x.getLsbD (8 * n - 1) then x - BitVec.ofNat 64 (2 ^ (8 * n)) else x
      s.upd fun h => (h.sput d x).next
    | a => s.scalarStop i .load va a

/-- A scalar store of the low `n` bytes of a value (R94-R96). -/
def State.scalarStore (s : State) (i : Instr) (x : Word) (va : Word) (n : Nat) : State :=
  if va.toNat % n ≠ 0 then s.trap tDataAlign va
  else
    match s.access .scalar .write va n with
    | .ok s loc =>
      match s.writeBytes .scalar va loc (leBytes n x.toNat) with
      | some s => s.upd Hart.next
      | none => s.park .overflow i
    | a => s.scalarStop i .write va a

/-! ## Fences and edges (R257, R258, R261) -/

/-- An edge from the earlier accesses of one class of a hart to the later ones of the other (R258). -/
def State.edgeOf (s : State) (k : Nat) (toVector toScalar : Bool) : State :=
  let h := s.hart k
  let s := s.setHart k { h with
    seen := if toScalar then h.seen.max h.seenV else h.seen
    seenV := if toVector then h.seenV.max h.seen else h.seenV }
  { s with writes := s.writes.map fun w =>
      if w.slot = some k then
        { w with toVector := w.toVector || (toVector && w.cls = .scalar), toScalar := w.toScalar || (toScalar && w.cls = .vector) }
      else w }
/-- Of the executing hart. -/
def State.edge (s : State) (toVector toScalar : Bool) : State := s.edgeOf s.cur toVector toScalar

/-- A write of the history is still to be applied in a view. -/
def State.unsettled (s : State) (c : Clock) (rs : List Nat) : Bool :=
  s.writes.any fun w => w.seq ≤ c.get w.quarter && rs.any fun r => !w.shown r w.path

/-- Every write issued so far. -/
def State.allIssued (s : State) : Clock :=
  (quarterClock s.issued 0).max ((quarterClock s.issued 1).max ((quarterClock s.issued 2).max (quarterClock s.issued 3)))

/-- Wait, during a recess, or apply what is needed (R257, R259, log 11). -/
def State.fenceTo (s : State) (c : Clock) (rs : List Nat) : Option State :=
  if s.unsettled c rs then
    if s.stalled then none else some (rs.foldl (fun s r => s.settleView c r) s)
  else some s

end Sys2Proof.Machine
end

