-- ==== Sys2Proof/Machine/Operands.lean ====
section
/-! DEFINITION. Operands of the vector unit: elements, groups, masks, active elements, and the checks every vector form makes
first (R27, R53, R107, R116, R121, R136, R370). -/

namespace Sys2Proof.Machine

/-! ## Elements (R27, R107) -/

/-- Field of `n` bits at bit `lo` of a wide register. -/
def fieldOf {w : Nat} (x : BitVec w) (lo n : Nat) : Nat := x.toNat >>> lo % 2 ^ n

/-- Replace the field of `n` bits at bit `lo`. -/
def setField {w : Nat} (x : BitVec w) (lo n v : Nat) : BitVec w :=
  BitVec.ofNat w (x.toNat - (fieldOf x lo n <<< lo) + ((v % 2 ^ n) <<< lo))

/-- Element `i` of the group at register `r`, container width `w` (R107). -/
def Hart.elem (h : Hart) (r w i : Nat) : Elem :=
  BitVec.ofNat 64 (fieldOf (h.vget (r + w * i / 2048)) (w * i % 2048) w)

/-- Write element `i` of the group at register `r`: the whole container. -/
def Hart.setElem (h : Hart) (r w i : Nat) (e : Elem) : Hart :=
  let k := r + w * i / 2048
  h.vput k (setField (h.vget k) (w * i % 2048) w e.toNat)

/-- Write the elements that `f` gives below `n`, every source read before (R107). -/
def Hart.putElems (h : Hart) (r w n : Nat) (f : Nat → Option Elem) : Hart :=
  (List.range n).foldl (fun g i => match f i with | some e => g.setElem r w i e | none => g) h

/-- The value bits of an element, the other container bits zero (R27). -/
def valueBits (f : Fmt) (e : Elem) : Elem := lowBits f.vbits e

/-! ## Masks -/

/-- The mask with bit `i` set where `p i`. -/
def maskOf (p : Nat → Bool) : MWord := BitVec.ofNat 256 ((List.range 256).foldl (fun n i => if p i then n + 2 ^ i else n) 0)

/-- Active elements (R19, R116). -/
def Hart.active (h : Hart) (mk : MReg) (i : Nat) : Bool := i < h.vl && (h.mget mk).getLsbD i && h.frag.getLsbD i

/-- The active elements in ascending order. -/
def Hart.actives (h : Hart) (mk : MReg) : List Nat := (List.range h.vl).filter (h.active mk)

/-! ## One element's result -/

/-- The value, the flags, and whether the exception mask marks the element (R52, R53). -/
structure ElemRes where
  val : Elem
  flags : FlagSet
  mark : Bool
  deriving DecidableEq, Repr

/-- Invalid, divide-by-zero or overflow. -/
def marking (f : FlagSet) : Bool := f &&& (fInvalid ||| fDivZero ||| fOverflow) != 0

/-- An element is a NaN of its format. -/
def isNaNElem (f : Fmt) (e : Elem) : Bool := !f.isInt && (decodeNum f e).isNaN

/-- A result with its mark: the flags, or a NaN none of whose value operands was one (R53). -/
def elemRes (f : Fmt) (r : Elem × FlagSet) (nanIn : Bool) : ElemRes :=
  ⟨r.1, r.2, marking r.2 || (isNaNElem f r.1 && !nanIn)⟩

/-- Write the exception mask a word names (R53): mask 12, 13 or 14. -/
def Hart.putExc (h : Hart) (xm : BitVec 2) (p : Nat → Bool) : Hart :=
  if xm = 0 then h else { h with m := h.m.setIfInBounds (11 + xm.toNat) (maskOf p) }

/-! ## The checks of R136 -/

/-- A group of container width `x` at register `r` that ends beyond V31 (R107). -/
def Hart.groupBad (h : Hart) (r : VReg) (x : Nat) : Bool := 32 < r.toNat + groupSize (cfgVlmax h.cfg) x

/-- The executing vector word may resume only whole: `velem` must not carry the mark of R147 (R370). -/
def Hart.markedVelem (h : Hart) : Bool := h.velem.getLsbD 15

/-- Run a vector form that is not a memory form, after the checks of R136 and R370: the groups, then the format. -/
def State.vform (s : State) (i : Instr) (groups : List (VReg × Nat)) (ok : Fmt → Bool) (k : State) : State :=
  let h := s.me
  if h.markedVelem || groups.any fun g => h.groupBad g.1 g.2 then s.vtrap tIllegal 0 (wordOf i)
  else if !ok (cfgFmt h.cfg) then s.vtrap tFormat 0 (wordOf i)
  else k

/-- An element-wise form (R122): `f` gives the result of element `i`; flags accrue, the mask is written, the block goes on. -/
def Hart.elementwise (h : Hart) (vd : VReg) (mk : MReg) (xm : BitVec 2) (w : Nat) (f : Nat → ElemRes) : Hart :=
  let act := h.actives mk
  let rs := act.map fun i => (i, f i)
  let g := rs.foldl (fun g r => g.setElem vd.toNat w r.1 r.2.val) h
  let g := g.raise (rs.foldl (fun x r => x ||| r.2.flags) fNone)
  (g.putExc xm fun i => rs.any fun r => r.1 == i && r.2.mark).vnext

/-! ## Formats accepted (R121) -/

def okArith (f : Fmt) : Bool := f.isInt || f.isIeee
def okMul (f : Fmt) : Bool := f.isInt || f.isIeee || f = .l6
def okIeee (f : Fmt) : Bool := f.isIeee
def okInt (f : Fmt) : Bool := f.isInt
def okSign (f : Fmt) : Bool := (f.isInt && f != .uint8) || f.isIeee || f = .l6
def okCmp (f : Fmt) : Bool := f.isInt || f.isFloat || f = .l6
def okAny (_ : Fmt) : Bool := true

/-- Scalar result of a vector word, and on to the next word of the block. -/
def State.vscalar (s : State) (d : SReg) (x : Word) : State := s.upd fun h => (h.unitPut d x).vnext

end Sys2Proof.Machine
end

