-- ==== Sys2Proof/Machine/System.lean ====
section
/-! DEFINITION. Control registers, system instructions, fences and watermarks (R85-R90, R102-R104, R257-R267, R361, R387, R388,
R392, R393). -/

namespace Sys2Proof.Machine

/-! ## Control registers (R85-R88) -/

/-- A core's cycle counter (R87): it starts at the core's own reset, at an instant of its own (log 8). -/
def State.cycle (s : State) (c : Nat) : Word := BitVec.ofNat 64 (s.beacon - (s.core c).lag) - Config.coreSkew s.boots c

/-- `lstat`: the mode, and whether the vector resume state holds a block (R86, R369). -/
def Hart.lstat (h : Hart) : Word := (if h.system then 1 else 0) + (if h.vrs.isSome then 2 else 0)

/-- The value a control register reads (R86). -/
def State.crRead (s : State) (n : BitVec 12) : Word :=
  let h := s.me
  match n.toNat with
  | 0x000 => h.fmode
  | 0x001 => h.vcfg
  | 0x002 => h.vlgrant
  | 0x003 => BitVec.ofNat 64 s.myCore.lanes
  | 0x004 => h.velem
  | 0x005 => 0x100
  | 0x010 => BitVec.ofNat 64 s.cur
  | 0x011 => h.grpcoord
  | 0x012 => h.seniority
  | 0x013 => BitVec.ofNat 64 h.asid
  | 0x020 => s.cycle (slotCore s.cur)
  | 0x100 => h.lcause
  | 0x101 => h.lepc
  | 0x102 => h.lvelem
  | 0x103 => h.laddr
  | 0x104 => h.lstat
  | 0x105 => h.ltvec
  | 0x106 => h.lhold
  | _ => 0

/-- The lane cap in elements (R109, R111). -/
def capElems (lanes : Nat) (cfg : Word) : Nat := lanes * (64 / (cfgFmt cfg).width) * cfgSpan cfg

/-- A new `vcfg`, with the grant cut to it (R108). -/
def Hart.setVcfg (h : Hart) (lanes : Nat) (cfg : Word) : Hart :=
  { h with vcfg := cfg, vlgrant := BitVec.ofNat 64 (min (min h.vlgrant.toNat (cfgVlmax cfg)) (capElems lanes cfg)) }

/-- Write a control register: fields that are RW in the mode take the new value, ST fields are cleared by 0, RO and RES fields
keep theirs (R86, R88). -/
def Hart.crWrite (h : Hart) (lanes : Nat) (n : BitVec 12) (x : Word) : Hart :=
  match n.toNat with
  | 0x000 => { h with fmode := (x &&& 0x1F) ||| (h.fmode &&& x &&& 0x3E0) }
  | 0x001 => h.setVcfg lanes (x &&& 0x1FFF)
  | 0x004 => if h.system then { h with velem := x &&& 0xFFFF } else h
  | 0x100 => { h with lcause := x &&& 0x1FF }
  | 0x101 => { h with lepc := x }
  | 0x102 => { h with lvelem := x &&& 0xFFFF }
  | 0x103 => { h with laddr := x }
  | 0x105 => { h with ltvec := x >>> 11 <<< 11 }
  | 0x106 => { h with lhold := x }
  | _ => h

/-- The four control-register forms: `f` gives the new value from the old one and S[src1]; `none` only reads (R88). -/
def State.crAccess (s : State) (i : Instr) (d a : SReg) (n : BitVec 12) (f : Option (Word → Word → Word)) : State :=
  let h := s.me
  if 0x100 ≤ n.toNat && !h.system then s.trap tPrivilege (wordOf i)
  else
    let old := s.crRead n
    match f with
    | none => s.upd fun h => (h.sput d old).next
    | some f =>
      let x := f old (h.sget a)
      if n = 0x001 && (x.extractLsb' 0 4 = 15#4 || 64 < (x.extractLsb' 6 7).toNat) then s.trap tIllegal (wordOf i)
      else
        let h := (h.next.crWrite s.myCore.lanes n x).sput d old
        s.setMe h

/-- `CRR` (R88). -/
def execCrr (d : SReg) (n : BitVec 12) (s : State) : Host.Outcome State Fault Refusal :=
  .next (s.crAccess (.crr d n) d 0 n none)

/-- `CRW` (R88). -/
def execCrw (d a : SReg) (n : BitVec 12) (s : State) : Host.Outcome State Fault Refusal :=
  .next (s.crAccess (.crw d a n) d a n (some fun _ x => x))

/-- `CRS` (R88). -/
def execCrs (d a : SReg) (n : BitVec 12) (s : State) : Host.Outcome State Fault Refusal :=
  .next (s.crAccess (.crs d a n) d a n (some fun o x => o ||| x))

/-- `CRC` (R88). -/
def execCrc (d a : SReg) (n : BitVec 12) (s : State) : Host.Outcome State Fault Refusal :=
  .next (s.crAccess (.crc d a n) d a n (some fun o x => o &&& ~~~x))

/-! ## System instructions -/

/-- `RETT` (R102): a privilege trap in task mode. -/
def execRett (s : State) : Host.Outcome State Fault Refusal :=
  .next (if s.me.system then s.upd Hart.ret else s.trap tPrivilege (wordOf .rett))

/-- `IDLE` (R104): the hart parks; the events of R104 end the park. -/
def execIdle (s : State) : Host.Outcome State Fault Refusal :=
  .next (match s.me.wait with
    | some ⟨.idle _ _, _, _, _⟩ => s
    | _ => s.park (.idle s.recess.number s.beacon) .idle)

/-- `RCWAIT` (R393): the hart parks until the end of the recess in progress or of the next one. -/
def execRcwait (s : State) : Host.Outcome State Fault Refusal :=
  .next (match s.me.wait with
    | some ⟨.recessEnd _, _, _, _⟩ => s
    | _ => s.park (.recessEnd s.recess.number) .rcwait)

/-- `TRAP` (R103): the software trap; code 0x8000 makes the task commit (R350). -/
def execTrap (code : BitVec 16) (s : State) : Host.Outcome State Fault Refusal :=
  let h := s.me
  let s := if code = 0x8000 && !h.system then s.setMe { h with task := { h.task with committing := true } } else s
  .next (s.trapAt tSoftware false (h.pc + 4) (code.zeroExtend 64))

/-- Published length of a recess class (R389). -/
def recessLength (cls : Nat) : Nat :=
  match cls with
  | 0 => 12000 | 1 => 36000 | _ => 120000

/-- Beacon count at which recess `n` starts (R389). -/
def recessStartAt (n : Nat) : Nat := (n + 1) * 2 ^ 23

/-- Cycles to the next recess, or to the published end of the one in progress (R392). -/
def State.untilRecess (s : State) : Nat :=
  match s.recess.start with
  | some t => t + recessLength s.recess.cls - s.beacon
  | none => recessStartAt s.recess.number - s.beacon

/-- The same as the executing core's own clock counts it: a core sees an edge of the calendar within 16 cycles of the beacon's instant, and 0
once the published end has passed (R389, R392, log 8). -/
def State.untilSeen (s : State) : Nat :=
  let u := s.untilRecess
  let edge := 2 * s.recess.number + (if s.recess.start.isSome then 1 else 0)
  if s.recess.start.isSome && u = 0 then 0 else u + Config.edgeSkew s.boots (slotCore s.cur) edge % 33 - 16

/-- The map that `TIMETBL` reads (R392). -/
def State.timetable (s : State) : Word :=
  let u := s.untilSeen
  let inRecess := s.recess.start.isSome
  BitVec.ofNat 64 (u % 2 ^ 32 + s.recess.cls % 4 * 2 ^ 32 + (if inRecess then 2 ^ 34 else 0)
    + (if !inRecess && u ≤ 2048 then 2 ^ 35 else 0) + s.recess.number % 2 ^ 16 * 2 ^ 40)

/-- `TIMETBL` (R392). -/
def execTimetbl (d : SReg) (s : State) : Host.Outcome State Fault Refusal :=
  .next (s.upd fun h => (h.sput d s.timetable).next)

/-! ### Pins (R361, R382) -/

/-- Pin one page: its count goes up by one. -/
def addPin (ps : List Pin) (t : Trans) : List Pin :=
  match ps with
  | [] => [⟨t, 1⟩]
  | p :: r => if p.trans.asid = t.asid && p.trans.base = t.base then { p with count := p.count + 1 } :: r else p :: addPin r t

/-- Unpin one page; at count 0 the device keeps no translation of its own. -/
def dropPin (ps : List Pin) (asid base : Nat) : List Pin :=
  match ps with
  | [] => []
  | p :: r =>
    if p.trans.asid = asid && p.trans.base = base then (if p.count ≤ 1 then r else { p with count := p.count - 1 } :: r)
    else p :: dropPin r asid base

/-- The distinct pages of a save area, as the pinned or cached translations give them. -/
def State.areaPages (s : State) (q asid : Nat) (base : Word) : List Trans :=
  ((pagesOf base Config.saveSize).filterMap fun a => s.cached q asid a).foldl
    (fun l t => if l.any fun x => x.base = t.base then l else l ++ [t]) []

def State.pinArea (s : State) (q asid : Nat) (base : Word) : State :=
  { s with pins := (s.areaPages q asid base).foldl addPin s.pins }
def State.unpinArea (s : State) (q asid : Nat) (base : Word) : State :=
  { s with pins := (s.areaPages q asid base).foldl (fun ps t => dropPin ps asid t.base) s.pins }

/-- The save areas registered by the other members of a context (R361): of harts in slots and of saved members. -/
def State.otherAreas (s : State) (asid : Nat) : List Word :=
  (s.harts.filterMap fun e => if e.1 ≠ s.cur && e.2.run != .free && e.2.asid = asid then e.2.saveArea else none) ++
  (s.groups.flatMap fun e => e.2.members.filterMap fun m =>
    if e.2.asid = asid && m.2.state = .saved then (match m.2.saved with | some h => h.saveArea | none => none) else none)

/-- `SAVEPIN` (R361). -/
def execSavepin (b l : SReg) (s : State) : Host.Outcome State Fault Refusal :=
  let h := s.me
  let i := Instr.savepin b l
  let base := h.sget b
  let q := slotQuarter s.cur
  .next (
    if !h.system then s.trap tPrivilege (wordOf i)
    else if h.sget l = 0 then
      let s := match h.saveArea with
        | some a => s.unpinArea q h.asid a
        | none => s
      s.upd fun h => { h.next with saveArea := none }
    else if base.toNat % 4096 ≠ 0 then s.trap tDataAlign base
    else if (h.sget l).toNat < Config.saveSize then s.trap tSave (h.sget l)
    else if (s.otherAreas h.asid).any fun a => overlaps base.toNat Config.saveSize a.toNat Config.saveSize then s.trap tSave base
    else
      match s.translateAll .pin (pagesOf base Config.saveSize) with
      | .fail s f va => s.failScalar .pin f va
      | .wait s w => s.park w i
      | .ok s =>
        let s := s.pinArea q h.asid base
        let s := match h.saveArea with
          | some a => s.unpinArea q h.asid a
          | none => s
        s.upd fun h => { h.next with saveArea := some base })

/-- `ASINV` (R387): `FENCE.DEVICE`; the cached translations in scope are dropped in every quarter; then it waits until every access that used
one is performed: the writes issued, and the words that keep a translation. -/
def execAsinv (a v : SReg) (s : State) : Host.Outcome State Fault Refusal :=
  let h := s.me
  let i := Instr.asinv a v
  let x := h.sget a
  let y := h.sget v
  .next (
    if !h.system then s.trap tPrivilege (wordOf i)
    else
      match s.fenceTo h.clock [0, 1, 2, 3] with
      | none => s.park .recess i
      | some s =>
        let s := s.invalidate x y
        match s.fenceTo s.allIssued [0, 1, 2, 3] with
        | none => s.park .recess i
        | some s => if s.keepsInScope x y then s.park .invalidation i else s.upd Hart.next)

/-- The map that `PGPROBE` reads of a leaf (R388). -/
def probeWord (system pinned : Bool) (e : Word) : Word :=
  BitVec.ofNat 64 (1 + (if pteR e then 2 else 0) + (if pteW e then 4 else 0) + (if pteX e then 8 else 0) + pteState e * 16
    + (if pinned then 128 else 0) + pteSize e * 256 + (if system then pteFrame e else 0))

/-- `PGPROBE` (R388): it sets no bit, sends no record and never traps on the address. -/
def execPgprobe (d a : SReg) (s : State) : Host.Outcome State Fault Refusal :=
  let h := s.me
  let va := h.sget a
  let q := slotQuarter s.cur
  let pinned := s.pins.any fun p => p.trans.covers h.asid va && 0 < p.count
  let put := fun (x : Word) => s.upd fun h => (h.sput d x).next
  .next (
    if !canonical va then put (4 <<< 8)
    else if inWindow va then put (6 <<< 8)
    else
      match s.cached q h.asid va with
      | some t => put (probeWord h.system pinned t.leaf)
      | none =>
        if s.stalled then (s.missWalk (slotCluster s.cur) h.asid va true).park (.walk va) (.pgprobe d a)
        else
          match s.walkFrom q va (s.ctx h.asid).root 4 with
          | .inl f => if f = Fail.corrupt then s.machineCheck false 0 va else put (BitVec.ofNat 64 (f.reason * 256))
          | .inr (e, _, _) => put (probeWord h.system pinned e))

/-! ## Fences (R257-R259, R263) -/

/-- A scoped fence: the history is applied in the views named, and both classes are ordered (R257). -/
def State.fence (s : State) (i : Instr) (rs : List Nat) : State :=
  match s.fenceTo s.me.clock rs with
  | none => s.park .recess i
  | some s => (s.edge true true).upd Hart.next

/-- `FENCE.HART` (R257): no visibility is awaited. -/
def execFenceHart (s : State) : Host.Outcome State Fault Refusal := .next (s.fence .fenceHart [])
/-- `FENCE.CORE` (R257). -/
def execFenceCore (s : State) : Host.Outcome State Fault Refusal := .next (s.fence .fenceCore [slotQuarter s.cur])
/-- `FENCE.CLUSTER` (R257). -/
def execFenceCluster (s : State) : Host.Outcome State Fault Refusal := .next (s.fence .fenceCluster [slotQuarter s.cur])
/-- `FENCE.QUARTER` (R257). -/
def execFenceQuarter (s : State) : Host.Outcome State Fault Refusal := .next (s.fence .fenceQuarter [slotQuarter s.cur])
/-- `FENCE.DEVICE` (R257). -/
def execFenceDevice (s : State) : Host.Outcome State Fault Refusal := .next (s.fence .fenceDevice [0, 1, 2, 3])
/-- `FENCE.SYSTEM` (R257): host memory is homed in Q0, so its accesses are complete when applied. -/
def execFenceSystem (s : State) : Host.Outcome State Fault Refusal := .next (s.fence .fenceSystem [0, 1, 2, 3])
/-- `FENCE.SV` (R258). -/
def execFenceSv (s : State) : Host.Outcome State Fault Refusal := .next ((s.edge true false).upd Hart.next)
/-- `FENCE.VS` (R258). -/
def execFenceVs (s : State) : Host.Outcome State Fault Refusal := .next ((s.edge false true).upd Hart.next)

/-- Writes of the history on paths `p` and `q` that some path-view of the pair does not show yet. -/
def State.uncrossed (s : State) (c : Clock) (p q : Path) : Bool :=
  s.writes.any fun w => (w.path = p || w.path = q) && w.seq ≤ c.get w.quarter
    && [0, 1, 2, 3].any fun r => !w.shown r p || !w.shown r q

/-- Every write of the history is applied in all four views, and the crossing of `p` and `q` is made safe (R263). -/
def State.crossPaths (s : State) (c : Clock) (p q : Path) : State := ((s.settleAll c).cross c p q).cross c q p

/-- `FENCEP` (R263). -/
def execFencep (p q : BitVec 3) (s : State) : Host.Outcome State Fault Refusal :=
  let h := s.me
  let pp := Path.ofIndex p.toNat
  let pq := Path.ofIndex q.toNat
  .next (
    if s.stalled && (s.unsettled h.clock [0, 1, 2, 3] || s.uncrossed h.clock pp pq) then s.park .recess (.fencep p q)
    else ((s.crossPaths h.clock pp pq).edge true true).upd Hart.next)

/-! ## Watermarks (R266, R267, R302) -/

/-- The value a `WMSET` would leave as its group's W0, with the executing hart's own replaced. -/
def State.markAfter (s : State) (g : Group) (x : Nat) : Nat :=
  g.memberKeys.foldl (fun a k =>
    Nat.min a (match g.members.find k with
      | some m => if m.state = .running s.cur then Nat.max x (s.memberMark none g k 0) else s.memberMark none g k 0
      | none => 0)) (2 ^ 64 - 1)

/-- A later launch of the same guarded queue, accepted and perhaps not yet taken, bounds the executing hart's group below `x` (R302): one that has
been taken does so whatever becomes of the queue. -/
def State.guardHolds (s : State) (x : Nat) : Bool :=
  match s.myGroup? with
  | none => false
  | some (gn, g) =>
    s.groups.any fun e =>
      (e.2.tied = some gn ||
        match e.2.queue with
        | some q => (s.queue q).guarded && (s.queue q).last = some gn && (s.queue q).ring.head? == some (.launched e.1)
        | none => false) &&
      e.2.state != .failed &&
      s.groupMark none gn 0 < s.markAfter g x && s.groupMark none e.1 0 + e.2.guard < s.markAfter g x

/-- `WMSET` (R267). -/
def execWmset (n : BitVec 3) (a : SReg) (s : State) : Host.Outcome State Fault Refusal :=
  let h := s.me
  let i := Instr.wmset n a
  let x := (h.sget a).toNat
  .next (
    if s.buffering s.cur then s.trap tIrrevocable (wordOf i)
    else if n = 0 && s.guardHolds x then s.park .guard i
    else
      match s.fenceTo h.clock [0, 1, 2, 3] with
      | none => s.park .recess i
      | some s =>
        (s.edge true true).upd fun h =>
          if x ≤ (h.w.getD n.toNat 0).toNat then h.next
          else { h.next with w := h.w.setIfInBounds n.toNat (BitVec.ofNat 64 x), wclk := h.wclk.setIfInBounds n.toNat h.clock })

/-! ## No operation (R80, R105) -/

/-- The next word of the stream the word stands in: the scalar stream's, or the block's. -/
def Hart.skip (h : Hart) : Hart :=
  match h.blk with
  | some _ => h.vnext
  | none => h.next

/-- `NOP` changes only the PC (R105). -/
def execNop (s : State) : Host.Outcome State Fault Refusal := .next (s.upd Hart.skip)
/-- `HINT` has the effect of `NOP` on this part (R80). -/
def execHint (_h : BitVec 26) (s : State) : Host.Outcome State Fault Refusal := .next (s.upd Hart.skip)

end Sys2Proof.Machine
end

