-- ==== Sys2Proof/Machine/Block.lean ====
section
/-! DEFINITION. Vector control: the grant, the configuration, and vector blocks (R108-R119); `SETVL` itself stands with the
pre-emption and donation it may take. -/

namespace Sys2Proof.Machine

/-- `VCFG` (R108). -/
def execVcfg (fmt : BitVec 4) (span : BitVec 2) (klen : BitVec 7) (s : State) : Host.Outcome State Fault Refusal :=
  .next (s.upd fun h => (h.setVcfg s.myCore.lanes (cfgWord fmt span klen)).next)

/-- Issue a block: it starts at once when the vector unit is free, else it takes a place in the queue (R112). -/
def Hart.issue (h : Hart) (b : Block) : Hart :=
  match h.blk with
  | none => { h with blk := some b }
  | some _ => { h with vq := h.vq ++ [b] }

/-- `VBLK` (R114). -/
def execVblk (off : BitVec 14) (s : State) : Host.Outcome State Fault Refusal :=
  .next (s.upd fun h => h.next.issue (h.newBlock (h.pc + (off.signExtend 64 <<< 2)) false none 1))

/-- `VLOOP` (R115): with a count of 0 nothing executes. -/
def execVloop (a : SReg) (off : BitVec 14) (s : State) : Host.Outcome State Fault Refusal :=
  .next (s.upd fun h =>
    let t := h.pc + (off.signExtend 64 <<< 2)
    if h.sget a = 0 then h.next else h.next.issue (h.newBlock t false (some t) (h.sget a).toNat))

/-- A word address lies among the 64 words of a `VLOOP` body (R115). -/
def inBody (b : Block) (t : Word) : Bool :=
  match b.loop with
  | none => true
  | some l => (t - l).toNat < 256 && (t - l).toNat % 4 = 0

/-- `VB` (R117): outside a block it is illegal (R113). -/
def execVb (mk : MReg) (off : BitVec 16) (s : State) : Host.Outcome State Fault Refusal :=
  let h := s.me
  let w := wordOf (.vb mk off)
  .next (
    match h.blk with
    | none => s.trap tIllegal w
    | some b =>
      let target := b.pc + (off.signExtend 64 <<< 2)
      let t := maskOf fun i => i < b.vl && b.frag.getLsbD i && (h.mget mk).getLsbD i
      let n := maskOf fun i => i < b.vl && b.frag.getLsbD i && !(h.mget mk).getLsbD i
      if b.implied then s.vtrap tIllegal 0 w
      else if h.markedVelem || !inBody b target then s.vtrap tIllegal 0 w
      else if t = 0 then s.upd Hart.vnext
      else if n = 0 then s.setMe { h with blk := some (b.goto target), velem := 0 }
      else if 8 ≤ b.pending.length then s.vtrap tFragment 0 w
      else s.setMe { h with blk := some { b.goto (b.pc + 4) with frag := n, pending := (target, t) :: b.pending }, velem := 0 })

/-- `VSTOP` (R118): the most recently parked fragment goes on; else the block, or the trip of a `VLOOP`, ends (R115). -/
def execVstop (s : State) : Host.Outcome State Fault Refusal :=
  let h := s.me
  .next (
    match h.blk with
    | none => s.trap tIllegal (wordOf .vstop)
    | some b =>
      if b.implied || h.markedVelem then s.vtrap tIllegal 0 (wordOf .vstop)
      else
        match b.pending with
        | (t, m) :: r => s.setMe { h with blk := some { b.goto t with frag := m, pending := r }, velem := 0 }
        | [] =>
          match b.loop with
          | some l =>
            if 1 < b.trips then
              s.setMe { h with blk := some { b.goto l with frag := BitVec.allOnes 256, trips := b.trips - 1 }, velem := 0 }
            else s.setMe { h with velem := 0 }.endBlock
          | none => s.setMe { h with velem := 0 }.endBlock)

end Sys2Proof.Machine
end

