-- ==== Sys2Proof/Machine/Float.lean ====
section
/-! DEFINITION. Scalar floating point (R99). -/

namespace Sys2Proof.Machine

/-- FP32 or FP64 by the precision bit (R63). -/
def precFmt (prec : BitVec 1) : Fmt := if prec = 1 then .fp64 else .fp32

/-- Keep the bits of a format's container (R99). -/
def lowOf (f : Fmt) (x : Word) : Word := lowBits f.width x

/-- Write a floating result and its flags and go on (R52, R99). -/
def State.fput (s : State) (d : SReg) (r : Word × FlagSet) : State := s.upd fun h => ((h.sput d r.1).raise r.2).next

/-- A two-operand arithmetic form (R99). -/
def State.fp2 (s : State) (op : Arith) (d a b : SReg) (rm : BitVec 3) (prec : BitVec 1) : State :=
  s.fput d (fpArith op (precFmt prec) (codeEnv rm s.me.fmode) (s.me.sget a) (s.me.sget b))

/-- A comparing form: its truth for numbers, and whether a quiet NaN is invalid (R99). -/
def State.fpCompare (s : State) (d a b : SReg) (prec : BitVec 1) (quiet : Bool) (c : Num → Num → Bool) : State :=
  let f := precFmt prec
  let x := decodeNum f (s.me.sget a)
  let y := decodeNum f (s.me.sget b)
  s.fput d
    (if x.isNaN || y.isNaN then (0, if x.isSignal || y.isSignal || !quiet then fInvalid else fNone)
     else (if c x y then 1 else 0, fNone))

/-- A fused form: `neg` negates the product; the destination is the addend (R99). -/
def State.fpFused (s : State) (neg : Bool) (a b c : SReg) (rm : BitVec 3) (prec : BitVec 1) : State :=
  s.fput a (fpFma (precFmt prec) (codeEnv rm s.me.fmode) neg (s.me.sget b) (s.me.sget c) (s.me.sget a))

/-- The result of `FCVT` in the register: an INT32 result is sign-extended (R99). -/
def fcvtResult (dst src : Fmt) (env : Env) (x : Word) : Word × FlagSet :=
  let r := convert src dst env (lowBits src.width x)
  (if dst = .int32 then (r.1.extractLsb' 0 32).signExtend 64 else r.1, r.2)

/-- `FADD` (R99). -/
def execFadd (d a b : SReg) (rm : BitVec 3) (prec : BitVec 1) (s : State) : Host.Outcome State Fault Refusal :=
  .next (s.fp2 .add d a b rm prec)

/-- `FSUB` (R99). -/
def execFsub (d a b : SReg) (rm : BitVec 3) (prec : BitVec 1) (s : State) : Host.Outcome State Fault Refusal :=
  .next (s.fp2 .sub d a b rm prec)

/-- `FMUL` (R99). -/
def execFmul (d a b : SReg) (rm : BitVec 3) (prec : BitVec 1) (s : State) : Host.Outcome State Fault Refusal :=
  .next (s.fp2 .mul d a b rm prec)

/-- `FDIV` (R99). -/
def execFdiv (d a b : SReg) (rm : BitVec 3) (prec : BitVec 1) (s : State) : Host.Outcome State Fault Refusal :=
  .next (s.fp2 .div d a b rm prec)

/-- `FSQRT` (R99). -/
def execFsqrt (d a : SReg) (rm : BitVec 3) (prec : BitVec 1) (s : State) : Host.Outcome State Fault Refusal :=
  .next (s.fput d (fpSqrt (precFmt prec) (codeEnv rm s.me.fmode) (s.me.sget a)))

/-- `FMIN` (R99). -/
def execFmin (d a b : SReg) (prec : BitVec 1) (s : State) : Host.Outcome State Fault Refusal :=
  .next (s.fput d (fpMinMax false (precFmt prec) (modeEnv s.me.fmode) (s.me.sget a) (s.me.sget b)))

/-- `FMAX` (R99). -/
def execFmax (d a b : SReg) (prec : BitVec 1) (s : State) : Host.Outcome State Fault Refusal :=
  .next (s.fput d (fpMinMax true (precFmt prec) (modeEnv s.me.fmode) (s.me.sget a) (s.me.sget b)))

/-- `FNEG` (R99). -/
def execFneg (d a : SReg) (prec : BitVec 1) (s : State) : Host.Outcome State Fault Refusal :=
  .next (s.fput d (fpNeg (precFmt prec) (s.me.sget a), fNone))

/-- `FABS` (R99). -/
def execFabs (d a : SReg) (prec : BitVec 1) (s : State) : Host.Outcome State Fault Refusal :=
  .next (s.fput d (fpAbs (precFmt prec) (s.me.sget a), fNone))

/-- `FEQ` (R99). -/
def execFeq (d a b : SReg) (prec : BitVec 1) (s : State) : Host.Outcome State Fault Refusal :=
  .next (s.fpCompare d a b prec true numEq)

/-- `FLT` (R99). -/
def execFlt (d a b : SReg) (prec : BitVec 1) (s : State) : Host.Outcome State Fault Refusal :=
  .next (s.fpCompare d a b prec false numLt)

/-- `FLE` (R99). -/
def execFle (d a b : SReg) (prec : BitVec 1) (s : State) : Host.Outcome State Fault Refusal :=
  .next (s.fpCompare d a b prec false fun x y => numLt x y || numEq x y)

/-- `FMADD` (R99). -/
def execFmadd (a b c : SReg) (rm : BitVec 3) (prec : BitVec 1) (s : State) : Host.Outcome State Fault Refusal :=
  .next (s.fpFused false a b c rm prec)

/-- `FMSUB` (R99). -/
def execFmsub (a b c : SReg) (rm : BitVec 3) (prec : BitVec 1) (s : State) : Host.Outcome State Fault Refusal :=
  .next (s.fpFused true a b c rm prec)

/-- `FCVT` (R49-R51, R99). -/
def execFcvt (d a : SReg) (rm : BitVec 3) (dst src : BitVec 4) (s : State) : Host.Outcome State Fault Refusal :=
  .next (s.fput d (fcvtResult ((Fmt.ofCode dst).getD .fp32) ((Fmt.ofCode src).getD .fp32) (codeEnv rm s.me.fmode) (s.me.sget a)))

end Sys2Proof.Machine
end

