-- ==== Sys2Proof/Machine/Atomic.lean ====
section
/-! DEFINITION. Atomic accesses: performed at the home, or in the buffered writes of a task that holds a locket (R260, R326,
R327). -/

namespace Sys2Proof.Machine

/-- Read `n` bytes and write what `f` gives of them, as one atomic at the home of the location; `none` from `f` writes nothing, and a
write sets d first (R383).
A task that holds a locket reads through its buffer and buffers the write (R327). The old value; no answer when no line is
free. -/
def State.atomicAt (s : State) (cls : Cls) (va : Word) (loc n : Nat) (f : Nat → Option Nat) : Option (State × Nat) :=
  if s.buffering s.cur then
    let (t, bs) := s.readBytes cls loc n
    let old := leNat bs
    match f old with
    | none => some (t, old)
    | some x => (t.writeBytes cls va loc (leBytes n x)).map fun t => (t, old)
  else
    let h := s.me
    let t := s.settleHome h.clock loc
    let old := t.viewNat (homeOf loc) .h loc n
    let h := h.sees cls (t.readClock (homeOf loc) .h loc n)
    match f old with
    | none => some (t.setMe h, old)
    | some x =>
      let (u, v) := (t.markMine va).homeWrite h.clock (some s.cur) cls (cellsAt loc (leBytes n x))
      some (u.setMe { h with clock := h.clock.max v }, old)

/-- The seven operations of `AMO` and `VAMO` on `n` bytes (R326, R328). -/
inductive Amo where
  | add | min | max | and | or | xor | swap
  deriving DecidableEq, Repr

/-- The new value: add wraps, min and max are signed, and, or and xor are bitwise (R326, R328). -/
def Amo.apply (op : Amo) (n : Nat) (old x : Nat) : Nat :=
  let bits := 8 * n
  let a := BitVec.ofNat 64 old
  let b := BitVec.ofNat 64 x
  let sa := signedOf bits a
  let sb := signedOf bits b
  match op with
  | .add => (old + x) % 2 ^ bits
  | .min => if sb < sa then x else old
  | .max => if sa < sb then x else old
  | .and => (a &&& b).toNat
  | .or => (a ||| b).toNat
  | .xor => (a ^^^ b).toNat
  | .swap => x

/-- `AMO` and `CAS`: S[d] receives the old value; aq and rl order the other class (R261, R326, R327). -/
def State.scalarAtomic (s : State) (i : Instr) (d a : SReg) (aq rl : BitVec 1) (f : Nat → Option Nat) : State :=
  let va := s.me.sget a
  if va.toNat % 8 ≠ 0 then s.trap tDataAlign va
  else
    match s.access .scalar .atomic va 8 with
    | .ok s loc =>
      match (s.edge false (rl = 1)).atomicAt .scalar va loc 8 f with
      | none => s.park .overflow i
      | some (s, old) => (s.edge (aq = 1) false).upd fun h => (h.sput d (BitVec.ofNat 64 old)).next
    | r => s.scalarStop i .atomic va r

/-- An `AMO` form (R326). -/
def State.amo (s : State) (i : Instr) (op : Amo) (d a b : SReg) (aq rl : BitVec 1) : State :=
  s.scalarAtomic i d a aq rl fun old => some (op.apply 8 old (s.me.sget b).toNat)

/-- `AMO_ADD` (R326). -/
def execAmoAdd (d a b : SReg) (aq rl : BitVec 1) (s : State) : Host.Outcome State Fault Refusal := .next (s.amo (.amoAdd d a b aq rl) .add d a b aq rl)
/-- `AMO_MIN` (R326). -/
def execAmoMin (d a b : SReg) (aq rl : BitVec 1) (s : State) : Host.Outcome State Fault Refusal := .next (s.amo (.amoMin d a b aq rl) .min d a b aq rl)
/-- `AMO_MAX` (R326). -/
def execAmoMax (d a b : SReg) (aq rl : BitVec 1) (s : State) : Host.Outcome State Fault Refusal := .next (s.amo (.amoMax d a b aq rl) .max d a b aq rl)
/-- `AMO_AND` (R326). -/
def execAmoAnd (d a b : SReg) (aq rl : BitVec 1) (s : State) : Host.Outcome State Fault Refusal := .next (s.amo (.amoAnd d a b aq rl) .and d a b aq rl)
/-- `AMO_OR` (R326). -/
def execAmoOr (d a b : SReg) (aq rl : BitVec 1) (s : State) : Host.Outcome State Fault Refusal := .next (s.amo (.amoOr d a b aq rl) .or d a b aq rl)
/-- `AMO_XOR` (R326). -/
def execAmoXor (d a b : SReg) (aq rl : BitVec 1) (s : State) : Host.Outcome State Fault Refusal := .next (s.amo (.amoXor d a b aq rl) .xor d a b aq rl)
/-- `AMO_SWAP` (R326). -/
def execAmoSwap (d a b : SReg) (aq rl : BitVec 1) (s : State) : Host.Outcome State Fault Refusal := .next (s.amo (.amoSwap d a b aq rl) .swap d a b aq rl)

/-- `CAS` compares with S[d] and stores S[b] (R326). -/
def execCas (d a b : SReg) (aq rl : BitVec 1) (s : State) : Host.Outcome State Fault Refusal :=
  let h := s.me
  .next (s.scalarAtomic (.cas d a b aq rl) d a aq rl fun old => if old = (h.sget d).toNat then some (h.sget b).toNat else none)

end Sys2Proof.Machine
end

