-- ==== Sys2Proof/Machine/Vector.lean ====
section
/-! DEFINITION. The arithmetic of the vector unit: element-wise forms, compares, masks, movement, reductions, conversion
(R121-R135). -/

namespace Sys2Proof.Machine

/-! ## Element functions -/

/-- `VADD`, `VSUB`, `VMUL`, `VDIV` of two elements (R122, R123, R38). -/
def elemArith (op : Arith) (f : Fmt) (env : Env) (x y : Elem) : Elem × FlagSet :=
  if f.isInt then
    let a := intVal f x
    let b := intVal f y
    match op with
    | .add => intResult f env.sat (a + b)
    | .sub => intResult f env.sat (a - b)
    | .mul => intResult f env.sat (a * b)
    | .div => intDiv f env.sat a b
  else if f = .l6 then
    match op with
    | .div => l6Div env x y
    | _ => l6Mul env x y
  else fpArith op f env x y

/-- `VMIN` and `VMAX` of two elements (R122). -/
def elemMinMax (mx : Bool) (f : Fmt) (env : Env) (x y : Elem) : Elem × FlagSet :=
  if f.isInt then
    let a := intVal f x
    let b := intVal f y
    (if (if mx then a < b else b < a) then lowBits f.width y else lowBits f.width x, fNone)
  else fpMinMax mx f env x y

/-- `VMADD` of two elements and the old destination (R122). -/
def elemFma (f : Fmt) (env : Env) (x y d : Elem) : Elem × FlagSet :=
  if f.isInt then intResult f env.sat (intVal f d + intVal f x * intVal f y) else fpFma f env false x y d

/-- `VABS` and `VNEG` (R126). -/
def elemAbs (f : Fmt) (env : Env) (x : Elem) : Elem × FlagSet :=
  if f.isInt then intResult f env.sat (intVal f x).natAbs
  else if f = .l6 then (if l6IsNaN x then 0x30 else lowBits 5 x, fNone)
  else (fpAbs f x, fNone)
def elemNeg (f : Fmt) (env : Env) (x : Elem) : Elem × FlagSet :=
  if f.isInt then intResult f env.sat (-intVal f x)
  else if f = .l6 then (if l6IsNaN x || l6IsZero x then lowBits 6 x else lowBits 6 x ^^^ 0x20, fNone)
  else (fpNeg f x, fNone)

/-- The six comparisons (R127). -/
inductive Cmp where
  | eq | ne | lt | le | gt | ge
  deriving DecidableEq, Repr

def Cmp.holds (c : Cmp) (lt eq : Bool) : Bool :=
  match c with
  | .eq => eq | .ne => !eq | .lt => lt | .le => lt || eq | .gt => !lt && !eq | .ge => !lt

/-- Compare two elements by value: the bit and the flags (R127). -/
def elemCmp (c : Cmp) (f : Fmt) (x y : Elem) : Bool × FlagSet :=
  if f.isInt then (c.holds (intVal f x < intVal f y) (intVal f x == intVal f y), fNone)
  else
    let a := decodeNum f x
    let b := decodeNum f y
    if a.isNaN || b.isNaN then
      (c = .ne, if a.isSignal || b.isSignal || !(c = .eq || c = .ne) then fInvalid else fNone)
    else (c.holds (numLt a b) (numEq a b), fNone)

/-- Compare two containers as unsigned integers (R127). -/
def elemCmpU (c : Cmp) (f : Fmt) (x y : Elem) : Bool × FlagSet :=
  let a := (lowBits f.width x).toNat
  let b := (lowBits f.width y).toNat
  (c.holds (a < b) (a == b), fNone)

/-! ## Shared forms -/

/-- A two-operand form of major 0x20 with the arithmetic checks (R122). -/
def State.vec2 (s : State) (i : Instr) (ok : Fmt → Bool) (vd va vb : VReg) (mk : MReg) (xm : BitVec 2)
    (f : Fmt → Env → Elem → Elem → Elem → Elem × FlagSet) (reads3 : Bool) : State :=
  let h := s.me
  let fm := cfgFmt h.cfg
  let w := fm.width
  s.vform i [(vd, w), (va, w), (vb, w)] ok (s.setMe (h.elementwise vd mk xm w fun j =>
    let x := h.elem va.toNat w j
    let y := h.elem vb.toNat w j
    let d := h.elem vd.toNat w j
    elemRes fm (f fm (modeEnv h.fmode) x y d) (isNaNElem fm x || isNaNElem fm y || (reads3 && isNaNElem fm d))))

/-- A logic or shift form (R125): bits in, bits out, no flags. -/
def State.vlogic (s : State) (i : Instr) (ok : Fmt → Bool) (vd va vb : VReg) (mk : MReg) (f : Fmt → Elem → Elem → Elem) : State :=
  let h := s.me
  let fm := cfgFmt h.cfg
  let w := fm.width
  s.vform i [(vd, w), (va, w), (vb, w)] ok (s.setMe (h.elementwise vd mk 0 w fun j =>
    ⟨valueBits fm (f fm (h.elem va.toNat w j) (h.elem vb.toNat w j)), fNone, false⟩))

/-- A one-operand form of major 0x21 (R126). -/
def State.vec1 (s : State) (i : Instr) (ok : Fmt → Bool) (vd va : VReg) (mk : MReg) (xm : BitVec 2)
    (f : Fmt → Env → Elem → Elem × FlagSet) : State :=
  let h := s.me
  let fm := cfgFmt h.cfg
  let w := fm.width
  s.vform i [(vd, w), (va, w)] ok (s.setMe (h.elementwise vd mk xm w fun j =>
    let x := h.elem va.toNat w j
    elemRes fm (f fm (modeEnv h.fmode) x) (isNaNElem fm x)))

/-- A compare (R127). -/
def State.vcompare (s : State) (i : Instr) (ok : Fmt → Bool) (md : MReg) (va vb : VReg) (mk : MReg) (xm : BitVec 2)
    (f : Fmt → Elem → Elem → Bool × FlagSet) : State :=
  let h := s.me
  let fm := cfgFmt h.cfg
  let w := fm.width
  s.vform i [(va, w), (vb, w)] ok (
    let rs := (h.actives mk).map fun j => (j, f fm (h.elem va.toNat w j) (h.elem vb.toNat w j))
    let g := h.mput md (maskOf fun j => j < h.vl &&
      (match rs.find? fun r => r.1 == j with
        | some r => r.2.1
        | none => (h.mget md).getLsbD j))
    let g := g.raise (rs.foldl (fun x r => x ||| r.2.2) fNone)
    s.setMe (g.putExc xm fun j => rs.any fun r => r.1 == j && marking r.2.2).vnext)

/-- A mask operation on all 256 bits (R128). -/
def State.vmask (s : State) (i : Instr) (md : MReg) (x : MWord) : State :=
  s.vform i [] okAny (s.upd fun h => (h.mput md x).vnext)

/-- A form that moves elements: element `j` of the result, for active `j` (R132). -/
def State.vmove (s : State) (i : Instr) (vd : VReg) (srcs : List VReg) (mk : MReg) (f : Hart → Nat → Elem) : State :=
  let h := s.me
  let fm := cfgFmt h.cfg
  let w := fm.width
  s.vform i ((vd :: srcs).map fun r => (r, w)) okAny (s.setMe (h.elementwise vd mk 0 w fun j => ⟨valueBits fm (f h j), fNone, false⟩))

/-! ## Reductions (R54, R55, R133) -/

/-- A node of a reduction: one element present stands unchanged, two combine (R54). -/
def redNode {α : Type} (op : α → α → α) (a b : Option α) : Option α :=
  match a, b with
  | some x, some y => some (op x y)
  | some x, none => some x
  | none, y => y

/-- One level of the pairwise tree. -/
def redLevel {α : Type} (op : α → α → α) (l : List (Option α)) : List (Option α) :=
  match l with
  | a :: b :: r => redNode op a b :: redLevel op r
  | r => r

/-- The balanced tree over the 32 positions of a block (R54). -/
def redBlock {α : Type} (op : α → α → α) (l : List (Option α)) : Option α :=
  ((redLevel op (redLevel op (redLevel op (redLevel op (redLevel op l))))).head?).getD none

/-- The canonical tree: blocks of 32 positions, combined in ascending order (R54). -/
def redTree {α : Type} (op : α → α → α) (vl : Nat) (e : Nat → Option α) : Option α :=
  (List.range ((vl + 31) / 32)).foldl (fun acc b => redNode op acc (redBlock op ((List.range 32).map fun j => e (32 * b + j)))) none

/-- A reduction in an order the device chooses: it combines two elements of its choice until one is left (R55). -/
def redFree {α : Type} (op : α → α → α) (ctr fuel : Nat) (l : List α) : Option α :=
  match fuel, l with
  | _, [] => none
  | _, [x] => some x
  | 0, x :: _ => some x
  | n + 1, l =>
    let i := Config.reducePick ctr % l.length
    let a := l[i]?
    let r := l.eraseIdx i
    let j := Config.reducePick (ctr + 1) % r.length
    match a, r[j]? with
    | some a, some b => redFree op (ctr + 2) n (op a b :: r.eraseIdx j)
    | _, _ => none

/-- A partial result with the flags its nodes raised. -/
abbrev Red := Int × Elem × FlagSet

/-- Which reduction (R133). -/
inductive RedOp where
  | sum | min | max
  deriving DecidableEq, Repr

/-- Combine two partial results: floating elements by their codes, integers exactly in 64 bits (R133). -/
def redCombine (op : RedOp) (f : Fmt) (env : Env) (a b : Red) : Red :=
  let fl := a.2.2 ||| b.2.2
  if f.isInt then
    match op with
    | .sum =>
      let r := intResult .int64 env.sat (a.1 + b.1)
      (intVal .int64 r.1, 0, fl ||| r.2)
    | .min => (if b.1 < a.1 then b.1 else a.1, 0, fl)
    | .max => (if a.1 < b.1 then b.1 else a.1, 0, fl)
  else
    let r := match op with
      | .sum => fpArith .add f env a.2.1 b.2.1
      | .min => fpMinMax false f env a.2.1 b.2.1
      | .max => fpMinMax true f env a.2.1 b.2.1
    (0, r.1, fl ||| r.2)

/-- What a reduction of no element gives (R133). -/
def redIdentity (op : RedOp) (f : Fmt) : Red :=
  match op with
  | .sum => (0, 0, fNone)
  | .min => (f.intRange.2, BitVec.ofNat 64 (infCode f), fNone)
  | .max => (f.intRange.1, withSign f true (infCode f), fNone)

/-- Element `j` as a partial result; an active signalling NaN raises invalid (R133). -/
def redElem (f : Fmt) (e : Elem) : Red :=
  (intVal f e, e, if !f.isInt && (decodeNum f e).isSignal then fInvalid else fNone)

/-- The value a reduction leaves: an integer in 64 bits, a floating code with any NaN settled (R47, R133). -/
def redValue (f : Fmt) (env : Env) (r : Red) : Word :=
  if f.isInt then BitVec.ofInt 64 r.1
  else
    let x := decodeNum f r.2.1
    if x.isNaN then (settleNaN f env [x]).1 else r.2.1

/-- Reduce the active elements under `fmode.la` (R54, R55); the count of free values drawn. -/
def Hart.reduce (h : Hart) (ctr : Nat) (op : RedOp) (f : Fmt) (va : VReg) (mk : MReg) : Red × Nat :=
  let env := modeEnv h.fmode
  let get := fun j => redElem f (h.elem va.toNat f.width j)
  if fmodeLa h.fmode then
    ((redTree (redCombine op f env) h.vl fun j => if h.active mk j then some (get j) else none).getD (redIdentity op f), 0)
  else
    let l := (h.actives mk).map get
    ((redFree (redCombine op f env) ctr l.length l).getD (redIdentity op f), 2 * l.length)

/-- A reduction to a scalar (R133). Bit 0 of the exception mask is also set where one active element, a signalling NaN, raises
invalid and no node is formed (DESIGN CHOICE, log 46). -/
def State.vreduce (s : State) (i : Instr) (op : RedOp) (d : SReg) (va : VReg) (mk : MReg) (xm : BitVec 2) : State :=
  let h := s.me
  let fm := cfgFmt h.cfg
  s.vform i [(va, fm.width)] okArith (
    let (r, n) := h.reduce s.freeCtr op fm va mk
    let x := redValue fm (modeEnv h.fmode) r
    let nanIn := (h.actives mk).any fun j => isNaNElem fm (h.elem va.toNat fm.width j)
    let g := ((h.unitPut d x).raise r.2.2).putExc xm fun j => j == 0 && (marking r.2.2 || (isNaNElem fm x && !nanIn))
    { s.setMe g.vnext with freeCtr := s.freeCtr + n })

/-- `VADD` (R122, R123). -/
def execVadd (vd va vb : VReg) (mk : MReg) (dt : BitVec 1) (xm : BitVec 2) (s : State) : Host.Outcome State Fault Refusal :=
  .next (s.vec2 (.vadd vd va vb mk dt xm) okArith vd va vb mk xm (fun f e x y _ => elemArith .add f e x y) false)

/-- `VSUB` (R122, R123). -/
def execVsub (vd va vb : VReg) (mk : MReg) (dt : BitVec 1) (xm : BitVec 2) (s : State) : Host.Outcome State Fault Refusal :=
  .next (s.vec2 (.vsub vd va vb mk dt xm) okArith vd va vb mk xm (fun f e x y _ => elemArith .sub f e x y) false)

/-- `VMUL` (R122, R123). -/
def execVmul (vd va vb : VReg) (mk : MReg) (dt : BitVec 1) (xm : BitVec 2) (s : State) : Host.Outcome State Fault Refusal :=
  .next (s.vec2 (.vmul vd va vb mk dt xm) okMul vd va vb mk xm (fun f e x y _ => elemArith .mul f e x y) false)

/-- `VDIV` (R122, R123). -/
def execVdiv (vd va vb : VReg) (mk : MReg) (dt : BitVec 1) (xm : BitVec 2) (s : State) : Host.Outcome State Fault Refusal :=
  .next (s.vec2 (.vdiv vd va vb mk dt xm) okMul vd va vb mk xm (fun f e x y _ => elemArith .div f e x y) false)

/-- `VMIN` (R122). -/
def execVmin (vd va vb : VReg) (mk : MReg) (dt : BitVec 1) (xm : BitVec 2) (s : State) : Host.Outcome State Fault Refusal :=
  .next (s.vec2 (.vmin vd va vb mk dt xm) okMul vd va vb mk xm (fun f e x y _ => elemMinMax false f e x y) false)

/-- `VMAX` (R122). -/
def execVmax (vd va vb : VReg) (mk : MReg) (dt : BitVec 1) (xm : BitVec 2) (s : State) : Host.Outcome State Fault Refusal :=
  .next (s.vec2 (.vmax vd va vb mk dt xm) okMul vd va vb mk xm (fun f e x y _ => elemMinMax true f e x y) false)

/-- `VAND` (R125). -/
def execVand (vd va vb : VReg) (mk : MReg) (dt : BitVec 1) (s : State) : Host.Outcome State Fault Refusal :=
  .next (s.vlogic (.vand vd va vb mk dt) okAny vd va vb mk (fun _ x y => x &&& y))

/-- `VOR` (R125). -/
def execVor (vd va vb : VReg) (mk : MReg) (dt : BitVec 1) (s : State) : Host.Outcome State Fault Refusal :=
  .next (s.vlogic (.vor vd va vb mk dt) okAny vd va vb mk (fun _ x y => x ||| y))

/-- `VXOR` (R125). -/
def execVxor (vd va vb : VReg) (mk : MReg) (dt : BitVec 1) (s : State) : Host.Outcome State Fault Refusal :=
  .next (s.vlogic (.vxor vd va vb mk dt) okAny vd va vb mk (fun _ x y => x ^^^ y))

/-- `VSHL` (R125). -/
def execVshl (vd va vb : VReg) (mk : MReg) (dt : BitVec 1) (s : State) : Host.Outcome State Fault Refusal :=
  .next (s.vlogic (.vshl vd va vb mk dt) okInt vd va vb mk (fun f x y => lowBits f.width (x <<< (y.toNat % f.width))))

/-- `VSHR` (R125). -/
def execVshr (vd va vb : VReg) (mk : MReg) (dt : BitVec 1) (s : State) : Host.Outcome State Fault Refusal :=
  .next (s.vlogic (.vshr vd va vb mk dt) okInt vd va vb mk (fun f x y => lowBits f.width x >>> (y.toNat % f.width)))

/-- `VSRA` (R125). -/
def execVsra (vd va vb : VReg) (mk : MReg) (dt : BitVec 1) (s : State) : Host.Outcome State Fault Refusal :=
  .next (s.vlogic (.vsra vd va vb mk dt) okInt vd va vb mk (fun f x y => wrapInt f.width (signedOf f.width x / (2 ^ (y.toNat % f.width) : Nat))))

/-- `VMADD` (R122). -/
def execVmadd (vd va vb : VReg) (mk : MReg) (dt : BitVec 1) (xm : BitVec 2) (s : State) : Host.Outcome State Fault Refusal :=
  .next (s.vec2 (.vmadd vd va vb mk dt xm) okArith vd va vb mk xm elemFma true)

/-- `VSCALE` (R124): the E8M0 code is no value operand (R53). Where code 0xFF meets an element that is a NaN itself, R53's formula decides, and
the exception mask stays 0 for a quiet one, though R124 speaks of every NaN of that code (DESIGN CHOICE, log 50). -/
def execVscale (vd va vb : VReg) (mk : MReg) (dt : BitVec 1) (xm : BitVec 2) (s : State) : Host.Outcome State Fault Refusal :=
  let h := s.me
  let fm := cfgFmt h.cfg
  let w := fm.width
  .next (s.vform (.vscale vd va vb mk dt xm) [(vd, w), (va, w), (vb, w)] okIeee (s.setMe (h.elementwise vd mk xm w fun j =>
    let x := h.elem va.toNat w j
    elemRes fm (scaleNum fm (modeEnv h.fmode) x ((h.elem vb.toNat w j).toNat % 256)) (isNaNElem fm x))))

/-- `VSQRT` (R126). -/
def execVsqrt (vd va : VReg) (mk : MReg) (dt : BitVec 1) (xm : BitVec 2) (s : State) : Host.Outcome State Fault Refusal :=
  .next (s.vec1 (.vsqrt vd va mk dt xm) okIeee vd va mk xm fpSqrt)

/-- `VABS` (R126). -/
def execVabs (vd va : VReg) (mk : MReg) (dt : BitVec 1) (s : State) : Host.Outcome State Fault Refusal :=
  .next (s.vec1 (.vabs vd va mk dt) okSign vd va mk 0 elemAbs)

/-- `VNEG` (R126). -/
def execVneg (vd va : VReg) (mk : MReg) (dt : BitVec 1) (s : State) : Host.Outcome State Fault Refusal :=
  .next (s.vec1 (.vneg vd va mk dt) okSign vd va mk 0 elemNeg)

/-- One bits among the value bits (R126). -/
def bitCount (x : Nat) (k : Nat) : Nat :=
  match k with
  | 0 => 0
  | k + 1 => x % 2 + bitCount (x / 2) k

/-- `VPOPC` (R126). -/
def execVpopc (vd va : VReg) (mk : MReg) (dt : BitVec 1) (s : State) : Host.Outcome State Fault Refusal :=
  .next (s.vec1 (.vpopc vd va mk dt) okAny vd va mk 0 fun f _ x => (BitVec.ofNat 64 (bitCount (valueBits f x).toNat 64), fNone))

/-- `VMV` (R126). -/
def execVmv (vd va : VReg) (mk : MReg) (dt : BitVec 1) (s : State) : Host.Outcome State Fault Refusal :=
  .next (s.vec1 (.vmv vd va mk dt) okAny vd va mk 0 fun f _ x => (valueBits f x, fNone))

/-- `VID` (R126). -/
def execVid (vd : VReg) (mk : MReg) (dt : BitVec 1) (s : State) : Host.Outcome State Fault Refusal :=
  let h := s.me
  let fm := cfgFmt h.cfg
  .next (s.vform (.vid vd mk dt) [(vd, fm.width)] okInt
    (s.setMe (h.elementwise vd mk 0 fm.width fun j => ⟨lowBits fm.width (BitVec.ofNat 64 j), fNone, false⟩)))

/-! ## Compares and masks -/

/-- `VCMP_EQ` (R127). -/
def execVcmpEq (md : MReg) (va vb : VReg) (mk : MReg) (dt : BitVec 1) (xm : BitVec 2) (s : State) : Host.Outcome State Fault Refusal :=
  .next (s.vcompare (.vcmpEq md va vb mk dt xm) okCmp md va vb mk xm (elemCmp .eq))

/-- `VCMP_NE` (R127). -/
def execVcmpNe (md : MReg) (va vb : VReg) (mk : MReg) (dt : BitVec 1) (xm : BitVec 2) (s : State) : Host.Outcome State Fault Refusal :=
  .next (s.vcompare (.vcmpNe md va vb mk dt xm) okCmp md va vb mk xm (elemCmp .ne))

/-- `VCMP_LT` (R127). -/
def execVcmpLt (md : MReg) (va vb : VReg) (mk : MReg) (dt : BitVec 1) (xm : BitVec 2) (s : State) : Host.Outcome State Fault Refusal :=
  .next (s.vcompare (.vcmpLt md va vb mk dt xm) okCmp md va vb mk xm (elemCmp .lt))

/-- `VCMP_LE` (R127). -/
def execVcmpLe (md : MReg) (va vb : VReg) (mk : MReg) (dt : BitVec 1) (xm : BitVec 2) (s : State) : Host.Outcome State Fault Refusal :=
  .next (s.vcompare (.vcmpLe md va vb mk dt xm) okCmp md va vb mk xm (elemCmp .le))

/-- `VCMP_GT` (R127). -/
def execVcmpGt (md : MReg) (va vb : VReg) (mk : MReg) (dt : BitVec 1) (xm : BitVec 2) (s : State) : Host.Outcome State Fault Refusal :=
  .next (s.vcompare (.vcmpGt md va vb mk dt xm) okCmp md va vb mk xm (elemCmp .gt))

/-- `VCMP_GE` (R127). -/
def execVcmpGe (md : MReg) (va vb : VReg) (mk : MReg) (dt : BitVec 1) (xm : BitVec 2) (s : State) : Host.Outcome State Fault Refusal :=
  .next (s.vcompare (.vcmpGe md va vb mk dt xm) okCmp md va vb mk xm (elemCmp .ge))

/-- `VCMP_LTU` (R127). -/
def execVcmpLtu (md : MReg) (va vb : VReg) (mk : MReg) (dt : BitVec 1) (xm : BitVec 2) (s : State) : Host.Outcome State Fault Refusal :=
  .next (s.vcompare (.vcmpLtu md va vb mk dt xm) okInt md va vb mk xm (elemCmpU .lt))

/-- `VCMP_LEU` (R127). -/
def execVcmpLeu (md : MReg) (va vb : VReg) (mk : MReg) (dt : BitVec 1) (xm : BitVec 2) (s : State) : Host.Outcome State Fault Refusal :=
  .next (s.vcompare (.vcmpLeu md va vb mk dt xm) okInt md va vb mk xm (elemCmpU .le))

/-- `VCMP_GTU` (R127). -/
def execVcmpGtu (md : MReg) (va vb : VReg) (mk : MReg) (dt : BitVec 1) (xm : BitVec 2) (s : State) : Host.Outcome State Fault Refusal :=
  .next (s.vcompare (.vcmpGtu md va vb mk dt xm) okInt md va vb mk xm (elemCmpU .gt))

/-- `VCMP_GEU` (R127). -/
def execVcmpGeu (md : MReg) (va vb : VReg) (mk : MReg) (dt : BitVec 1) (xm : BitVec 2) (s : State) : Host.Outcome State Fault Refusal :=
  .next (s.vcompare (.vcmpGeu md va vb mk dt xm) okInt md va vb mk xm (elemCmpU .ge))

/-- `MAND` (R128). -/
def execMand (md ma mb : MReg) (s : State) : Host.Outcome State Fault Refusal := .next (s.vmask (.mand md ma mb) md (s.me.mget ma &&& s.me.mget mb))

/-- `MOR` (R128). -/
def execMor (md ma mb : MReg) (s : State) : Host.Outcome State Fault Refusal := .next (s.vmask (.mor md ma mb) md (s.me.mget ma ||| s.me.mget mb))

/-- `MXOR` (R128). -/
def execMxor (md ma mb : MReg) (s : State) : Host.Outcome State Fault Refusal := .next (s.vmask (.mxor md ma mb) md (s.me.mget ma ^^^ s.me.mget mb))

/-- `MNOT` (R128). -/
def execMnot (md ma : MReg) (s : State) : Host.Outcome State Fault Refusal := .next (s.vmask (.mnot md ma) md (~~~(s.me.mget ma)))

/-- `MPOPC` (R129): F plays no part. -/
def execMpopc (d : SReg) (ma : MReg) (s : State) : Host.Outcome State Fault Refusal :=
  let h := s.me
  .next (s.vform (.mpopc d ma) [] okAny (s.vscalar d (BitVec.ofNat 64 ((List.range h.vl).countP fun i => (h.mget ma).getLsbD i))))

/-- `MFIRST` (R129). -/
def execMfirst (d : SReg) (ma : MReg) (s : State) : Host.Outcome State Fault Refusal :=
  let h := s.me
  .next (s.vform (.mfirst d ma) [] okAny (s.vscalar d
    (match (List.range h.vl).find? fun i => (h.mget ma).getLsbD i with
      | some i => BitVec.ofNat 64 i
      | none => BitVec.allOnes 64)))

/-- `VMERGE` (R130): the mask selects, F disables. -/
def execVmerge (vd va vb : VReg) (mk : MReg) (s : State) : Host.Outcome State Fault Refusal :=
  let h := s.me
  let fm := cfgFmt h.cfg
  let w := fm.width
  .next (s.vform (.vmerge vd va vb mk) [(vd, w), (va, w), (vb, w)] okAny (s.setMe (h.elementwise vd 0 0 w fun j =>
    ⟨valueBits fm (h.elem (if (h.mget mk).getLsbD j then va.toNat else vb.toNat) w j), fNone, false⟩)))

/-- The indices `VNZIDX` packs (R131). -/
def Hart.nonzeros (h : Hart) (f : Fmt) (va : VReg) (mk : MReg) : List Nat :=
  (h.actives mk).filter fun j => !(decodeNum f (h.elem va.toNat f.width j)).isZero

/-- `VNZIDX` (R131). -/
def execVnzidx (vd va : VReg) (c : SReg) (mk : MReg) (s : State) : Host.Outcome State Fault Refusal :=
  let h := s.me
  let fm := cfgFmt h.cfg
  let w := fm.width
  .next (s.vform (.vnzidx vd va c mk) [(vd, w), (va, w)] okCmp (
    let l := h.nonzeros fm va mk
    let g := h.putElems vd.toNat w h.vl fun j => some (BitVec.ofNat 64 (l.getD j 0))
    s.setMe (g.unitPut c (BitVec.ofNat 64 l.length)).vnext))

/-! ## Moving elements -/

/-- `VBCAST` (R132). -/
def execVbcast (vd : VReg) (a : SReg) (mk : MReg) (s : State) : Host.Outcome State Fault Refusal :=
  .next (s.vmove (.vbcast vd a mk) vd [] mk fun h _ => lowBits (cfgFmt h.cfg).width (h.operand a))

/-- `VSLIDE` (R132): a source index outside 0 to VLMAX - 1 gives 0. -/
def execVslide (vd va : VReg) (o : SReg) (mk : MReg) (s : State) : Host.Outcome State Fault Refusal :=
  .next (s.vmove (.vslide vd va o mk) vd [va] mk fun h j =>
    let k : Int := (j : Int) + (h.operand o).toInt
    if 0 ≤ k && k < (cfgVlmax h.cfg : Int) then h.elem va.toNat (cfgFmt h.cfg).width k.toNat else 0)

/-- `VPERM` (R132): the index is an element value, whose container bits above the value bits are not read (R27). -/
def execVperm (vd va vi : VReg) (mk : MReg) (s : State) : Host.Outcome State Fault Refusal :=
  .next (s.vmove (.vperm vd va vi mk) vd [va, vi] mk fun h j =>
    let x := (valueBits (cfgFmt h.cfg) (h.elem vi.toNat (cfgFmt h.cfg).width j)).toNat
    if x < cfgVlmax h.cfg then h.elem va.toNat (cfgFmt h.cfg).width x else 0)

/-! ## Reductions and conversion -/

/-- `VREDSUM` (R133). -/
def execVredsum (d : SReg) (va : VReg) (mk : MReg) (dt : BitVec 1) (xm : BitVec 2) (s : State) : Host.Outcome State Fault Refusal :=
  .next (s.vreduce (.vredsum d va mk dt xm) .sum d va mk xm)

/-- `VREDMIN` (R133). -/
def execVredmin (d : SReg) (va : VReg) (mk : MReg) (dt : BitVec 1) (s : State) : Host.Outcome State Fault Refusal :=
  .next (s.vreduce (.vredmin d va mk dt) .min d va mk 0)

/-- `VREDMAX` (R133). -/
def execVredmax (d : SReg) (va : VReg) (mk : MReg) (dt : BitVec 1) (s : State) : Host.Outcome State Fault Refusal :=
  .next (s.vreduce (.vredmax d va mk dt) .max d va mk 0)

/-- The index of the smallest of a list of elements, the lowest on a tie; -0 lies below +0 (R134). -/
def smallestIndex (f : Fmt) (get : Nat → Elem) (l : List Nat) : Option Nat :=
  l.foldl (fun a j =>
    match a with
    | none => some j
    | some k =>
      if f.isInt then (if intVal f (get j) < intVal f (get k) then some j else some k)
      else (if numBelow (decodeNum f (get j)) (decodeNum f (get k)) then some j else some k)) none

/-- `VREDMINI` (R134): the value is the minimum as `VREDMIN` forms it, and its index that of the element it comes from. -/
def execVredmini (d : SReg) (va : VReg) (i : SReg) (mk : MReg) (dt : BitVec 1) (s : State) : Host.Outcome State Fault Refusal :=
  let h := s.me
  let fm := cfgFmt h.cfg
  let get := fun j => h.elem va.toNat fm.width j
  .next (s.vform (.vredmini d va i mk dt) [(va, fm.width)] okArith (
    let act := h.actives mk
    let (r, n) := h.reduce s.freeCtr .min fm va mk
    let best := match act.find? fun j => isNaNElem fm (get j) with
      | some j => some j
      | none => smallestIndex fm get act
    let k := match best with | some j => BitVec.ofNat 64 j | none => BitVec.allOnes 64
    { s.setMe (((h.unitPut d (redValue fm (modeEnv h.fmode) r)).unitPut i k).raise r.2.2).vnext with freeCtr := s.freeCtr + n }))

/-- Destinations that take RTO (R44). -/
def takesRto (f : Fmt) : Bool := f = .fp32 || f = .fp16 || f = .bf16 || f = .e4m3 || f = .e5m2

/-- `VCVT` (R135). -/
def execVcvt (vd va : VReg) (mk : MReg) (rm : BitVec 3) (src : BitVec 4) (dt : BitVec 1) (xm : BitVec 2) (s : State) : Host.Outcome State Fault Refusal :=
  let h := s.me
  let fm := cfgFmt h.cfg
  let sf := (Fmt.ofCode src).getD .fp32
  let i := Instr.vcvt vd va mk rm src dt xm
  .next (
    if rm = 5 && !takesRto fm then s.vtrap tIllegal 0 (wordOf i)
    else s.vform i [(vd, fm.width), (va, sf.width)] (fun f => f != sf) (s.setMe (h.elementwise vd mk xm fm.width fun j =>
      let x := h.elem va.toNat sf.width j
      elemRes fm (convert sf fm (codeEnv rm h.fmode) x) (isNaNElem sf x))))

end Sys2Proof.Machine
end

