-- ==== Sys2Proof/Machine/VecMem.lean ====
section
/-! DEFINITION. Vector memory, satchels, spill frames, vector atomics, waits on memory and slate updates (06_vector_memory,
R328, R329, R332). -/

namespace Sys2Proof.Machine

/-! ## Addresses and elements (R138-R142) -/

/-- Bytes of an element in memory, E2M1 apart (R25, R138). -/
def Fmt.bytes (f : Fmt) : Nat := f.width / 8

/-- Width of an index element (R138). -/
def indexWidth (w : Nat) : Nat := max 32 w

/-- Whether a store's element is superseded: a later active element has the same effective address (R142). Of two elements that reach the same
bytes through two virtual pages neither is (DESIGN CHOICE, log 50). -/
def superseded (addr : Nat → Word) (els : List Nat) (j : Nat) : Bool := els.any fun k => j < k && addr k == addr j

/-- Insert by key, behind equal keys. -/
def insertKey {α : Type} (key : α → Nat) (x : α) (l : List α) : List α :=
  match l with
  | [] => [x]
  | y :: r => if key y ≤ key x then y :: insertKey key x r else x :: y :: r

/-- A stored element: index, address, location, bytes; whether it was admitted before the task held a locket, so that no buffer takes it
(R349, R354). -/
structure Stored where
  idx : Nat
  va : Word
  loc : Nat
  bytes : List Byte
  direct : Bool

/-- The order in which the elements of one form are issued: one of the device's choice (R142, R143, R252). -/
def freeOrder (ctr : Nat) (l : List Stored) : List Stored :=
  l.foldl (fun a x => insertKey (fun e => Config.elementKey ctr e.idx) x a) []

/-- Issue one stored element, or put it into the buffer. -/
def State.putStored (cls : Cls) (s : State) (x : Stored) : State :=
  if x.direct then (s.markMine x.va).issueMe cls (cellsAt x.loc x.bytes)
  else (s.writeBytes cls x.va x.loc x.bytes).getD s

/-- Issue the stored elements of one form, of a class; those for the buffer fit it by `State.fits`. -/
def State.flush (s : State) (cls : Cls) (l : List Stored) : State :=
  match l with
  | [] => s
  | [x] => s.putStored cls x
  | _ =>
    let (s, n) := s.draw
    (freeOrder n l).foldl (State.putStored cls) s

/-- The stored elements fit the locket write buffer (R351). -/
def State.fits (s : State) (l : List Stored) : Bool :=
  !s.buffering s.cur ||
    (s.me.spill.isEmpty &&
      s.linesUsed (slotCore s.cur) + ((l.filter fun x => !x.direct).foldl (fun ls x => putLines ls x.va x.loc x.bytes) s.me.lines).length
        ≤ 1024 + s.me.lines.length)

/-- How the elements of a form stopped. -/
inductive Stop where
  | none
  | fail (f : Fail)
  | wait (why : Why)
  | mark
  | soft (laddr : Word)
  /-- A recess overrun, at the boundary of the access that stalled, with its cycles (R371). -/
  | overrun (cycles : Nat)

/-- One element: its gates and its move; loads answer a new state, stores add to the list. -/
inductive ElemOut where
  | ok (s : State) (out : List Stored)
  | stop (s : State) (st : Stop)

/-- What an access that is not performed means to its element. -/
def Acc.stop (s : State) (a : Acc) : ElemOut :=
  match a with
  | .ok s _ => .stop s .none
  | .fail f => .stop s (.fail f)
  | .wait s y => .stop s (.wait y)
  | .mark => .stop s .mark
  | .soft x => .stop s (.soft x)

/-- Perform a load element (R141). -/
def State.loadElem (s : State) (vd w m j : Nat) (a : Word) : ElemOut :=
  match s.access .vector .load a m with
  | .ok s loc =>
    let (s, bs) := s.readBytes .vector loc m
    .ok (s.upd fun h => h.setElem vd w j (BitVec.ofNat 64 (leNat bs))) []
  | r => r.stop s

/-- Take a store element into the list, if it fits (R351). -/
def State.admitStore (t : State) (out : List Stored) (j : Nat) (a : Word) (loc : Nat) (bs : List Byte) : ElemOut :=
  let out' := out ++ [⟨j, a, loc, bs, !t.buffering t.cur⟩]
  if t.fits out' then .ok t out' else .stop t (.wait .overflow)

/-- Admit a store element (R141). -/
def State.storeElem (s : State) (out : List Stored) (j : Nat) (a : Word) (bs : List Byte) : ElemOut :=
  match s.access .vector .write a bs.length with
  | .ok t loc => t.admitStore out j a loc bs
  | r => r.stop s

/-- A recess overrun is taken at the boundary after the access that stalled, in task mode (R371). -/
def Hart.overrunNow (h : Hart) : Option Nat :=
  match h.overrun with
  | some (c, true) => if h.system then none else some c
  | _ => none

/-- Take the elements in ascending order until one stops (R140, R145): the state, the stored elements, where and how. -/
def runElems (f : State → List Stored → Nat → ElemOut) (s : State) (out : List Stored) (els : List Nat) :
    State × List Stored × Option (Nat × Stop) :=
  match els with
  | [] => (s, out, none)
  | j :: r =>
    match f s out j with
    | .ok s out' =>
      match s.me.overrunNow, r with
      | some c, k :: _ => (s, out', some (k, .overrun c))
      | _, _ => runElems f s out' r
    | .stop s st => (s, out, some (j, st))

/-- The block of the executing word keeps elements that the word has done with, and how the lowest failed one failed (R147, R329). -/
def State.note (s : State) (m : MWord) (failed : Option (Nat × Nat)) : State :=
  s.upd fun h =>
    let g := h.enterUnit
    { g with blk := g.blk.map fun b => { b with noted := m, failed := failed } }

/-- The start index (R140). -/
def Hart.startIndex (h : Hart) : Nat := h.velem.toNat % 32768

/-- The start index of the attempt that a word belongs to: a park does not begin a new one (R146, R148). -/
def Hart.attemptStart (h : Hart) (i : Instr) : Nat :=
  match h.parked with
  | some w => if w.instr == i then w.start else h.startIndex
  | none => h.startIndex

/-- Stop a vector memory word at element `j` without a translation fault. `first` is the first element of the attempt, which began at
`start`: its translation is kept (R146, R387). -/
def State.stopElem (s : State) (i : Instr) (mark j : Nat) (a : Word) (start first : Nat) (st : Stop) : State :=
  match st with
  | .wait y =>
    (s.upd fun h => { h with velem := BitVec.ofNat 64 (mark + j) }).parkUnit
      ⟨y, i, if y.keeps && j = first then s.hold [a] else [], start⟩
  | .mark => s.vtrap tWatermark (mark + j) a
  | .soft x => s.machineCheck true (mark + j) x
  | .overrun c => (s.upd fun h => { h with overrun := none }).vtrap tOverrun (mark + j) (BitVec.ofNat 64 c)
  | _ => s

/-- The lowest of some addresses (R140, R329). -/
def lowestOf (as : List Word) : Option Word :=
  as.foldl (fun (m : Option Word) a => match m with | none => some a | some b => some (if a < b then a else b)) none

/-- The checks of R140 steps 1 and 2 that every memory form shares: marks of R147, groups, format, alignment. -/
def State.vmemChecks (s : State) (i : Instr) (markOk : Bool) (groups : List (VReg × Nat)) (bad : Bool) (ok : Fmt → Bool)
    (els : List Nat) (aligned : Nat → Bool) (addr : Nat → Word) (k : State) : State :=
  let h := s.me
  if (h.markedVelem && !markOk) || bad || groups.any fun g => h.groupBad g.1 g.2 then s.vtrap tIllegal 0 (wordOf i)
  else if !ok (cfgFmt h.cfg) then s.vtrap tFormat 0 (wordOf i)
  else
    match lowestOf ((els.filter fun j => !aligned j).map addr) with
    | some a => s.vtrap tDataAlign (h.velem.toNat % 65536) a
    | none => k

/-- Formats of the memory forms (R139). -/
def okUnit (f : Fmt) : Bool := f != .l6
def okStrided (f : Fmt) : Bool := f != .l6 && f != .e2m1

/-- A unit-stride or strided load or store that traps at its first failing element (R145). -/
def State.vmemStop (s : State) (i : Instr) (k : Kind) (groups : List (VReg × Nat)) (ok : Fmt → Bool) (mk : MReg)
    (aligned : Nat → Bool) (addr : Nat → Word) (skip : List Nat → Nat → Bool) (f : State → List Stored → Nat → ElemOut) : State :=
  let h := s.me
  let all := h.actives mk
  let start := h.attemptStart i
  let act := all.filter fun j => h.startIndex ≤ j
  let first := ((all.filter fun j => start ≤ j && !skip all j).head?).getD 0
  s.vmemChecks i false groups false ok act aligned addr (
    let (t, out, st) := runElems f s [] (act.filter fun j => !skip act j)
    let t := t.flush .vector out
    match st with
    | none => t.upd Hart.vnext
    | some (j, .fail fl) => t.failVector k fl (addr j) true j
    | some (j, st) => t.stopElem i 0 j (addr j) start first st)

/-- Low or high nibble of packed E2M1 (R27, R138). -/
def State.nibbleLoad (s : State) (vd j : Nat) (a : Word) : ElemOut :=
  match s.access .vector .load a 1 with
  | .ok s loc =>
    let (s, bs) := s.readBytes .vector loc 1
    let x := leNat bs
    .ok (s.upd fun h => h.setElem vd 8 j (BitVec.ofNat 64 (if j % 2 = 0 then x % 16 else x / 16))) []
  | r => r.stop s

/-- Store one nibble by an atomic update of its byte (R141): at the home, or in the buffer beside the form's other elements. Either reads
the byte, so a soft error there is found (R144, R372). -/
def State.nibbleStore (s : State) (out : List Stored) (j : Nat) (a : Word) (x : Nat) : ElemOut :=
  let put := fun (old : Nat) => if j % 2 = 0 then old / 16 * 16 + x % 16 else old % 16 + x % 16 * 16
  match s.access .vector .write a 1 with
  | .ok t loc =>
    if t.buffering t.cur then
      if t.spoiled loc && (t.me.buffered loc).isNone then .stop t (.soft a)
      else
        let (t, bs) := t.readBytes .vector loc 1
        t.admitStore out j a loc (leBytes 1 (put (leNat bs)))
    else
      match t.atomicAt .vector a loc 1 fun old => some (put old) with
      | some (t, _) => .ok t out
      | none => .stop t (.wait .overflow)
  | r => r.stop s

/-- The address of element `j` of a unit-stride form (R138). -/
def unitAddr (f : Fmt) (base : Word) (j : Nat) : Word :=
  base + BitVec.ofNat 64 (if f = .e2m1 then j / 2 else j * f.bytes)

/-- The step of a unit-stride load (R138, R141). -/
def unitLoad (f : Fmt) (vd : Nat) (addr : Nat → Word) (s : State) (_ : List Stored) (j : Nat) : ElemOut :=
  if f = .e2m1 then s.nibbleLoad vd j (addr j)
  else
    match s.loadElem vd f.width f.bytes j (addr j) with
    | .ok t out =>
      -- the container is filled under R27 and R139
      .ok (t.upd fun h => h.setElem vd f.width j (valueBits f (h.elem vd f.width j))) out
    | r => r

/-- The bytes a store moves: value bits, the other container bits zero (R139, R141). -/
def storedBytes (f : Fmt) (e : Elem) : List Byte := leBytes f.bytes (valueBits f e).toNat

/-- The step of a unit-stride store; a byte of packed E2M1 whose two nibbles are both stored is written whole (R141). -/
def unitStore (f : Fmt) (vs : Nat) (addr : Nat → Word) (act : List Nat) (s : State) (out : List Stored) (j : Nat) : ElemOut :=
  let h := s.me
  let e := fun k => (valueBits f (h.elem vs f.width k)).toNat
  if f = .e2m1 then
    if j % 2 = 0 && act.contains (j + 1) then s.storeElem out j (addr j) [BitVec.ofNat 8 (e j + 16 * e (j + 1))]
    else if j % 2 = 1 && act.contains (j - 1) then .ok s out
    else s.nibbleStore out j (addr j) (e j)
  else s.storeElem out j (addr j) (storedBytes f (h.elem vs f.width j))

/-- `VLD` (R137-R145). -/
def execVld (vd : VReg) (b : SReg) (mk : MReg) (s : State) : Host.Outcome State Fault Refusal :=
  let h := s.me
  let f := cfgFmt h.cfg
  let addr := unitAddr f (h.operand b)
  .next (s.vmemStop (.vld vd b mk) .load [(vd, f.width)] okUnit mk
    (fun j => f = .e2m1 || (addr j).toNat % f.bytes = 0) addr (fun _ _ => false) (unitLoad f vd.toNat addr))

/-- `VLDS` (R137-R145). -/
def execVlds (vd : VReg) (b t : SReg) (mk : MReg) (s : State) : Host.Outcome State Fault Refusal :=
  let h := s.me
  let f := cfgFmt h.cfg
  let addr := fun (j : Nat) => h.operand b + BitVec.ofNat 64 j * h.operand t
  .next (s.vmemStop (.vlds vd b t mk) .load [(vd, f.width)] okStrided mk
    (fun j => (addr j).toNat % f.bytes = 0) addr (fun _ _ => false) (unitLoad f vd.toNat addr))

/-- `VST` (R137-R145). -/
def execVst (vs : VReg) (b : SReg) (mk : MReg) (s : State) : Host.Outcome State Fault Refusal :=
  let h := s.me
  let f := cfgFmt h.cfg
  let addr := unitAddr f (h.operand b)
  let act := (h.actives mk).filter fun j => h.startIndex ≤ j
  .next (s.vmemStop (.vst vs b mk) .write [(vs, f.width)] okUnit mk
    (fun j => f = .e2m1 || (addr j).toNat % f.bytes = 0) addr (fun _ _ => false) (unitStore f vs.toNat addr act))

/-- `VSTS` (R137-R145): at stride 0 the highest active element stays (R142). -/
def execVsts (vs : VReg) (b t : SReg) (mk : MReg) (s : State) : Host.Outcome State Fault Refusal :=
  let h := s.me
  let f := cfgFmt h.cfg
  let addr := fun (j : Nat) => h.operand b + BitVec.ofNat 64 j * h.operand t
  .next (s.vmemStop (.vsts vs b t mk) .write [(vs, f.width)] okStrided mk
    (fun j => (addr j).toNat % f.bytes = 0) addr (superseded addr) (unitStore f vs.toNat addr []))

/-- `VLDFF` (R148): only its first element traps; a later failure shortens the strip through M15. -/
def execVldff (vd : VReg) (b : SReg) (mk : MReg) (s : State) : Host.Outcome State Fault Refusal :=
  let h := s.me
  let f := cfgFmt h.cfg
  let addr := unitAddr f (h.operand b)
  let i := Instr.vldff vd b mk
  let all := h.actives mk
  let start := h.attemptStart i
  let act := all.filter fun j => h.startIndex ≤ j
  let first := (all.filter fun j => start ≤ j).head?
  .next (s.vmemChecks i false [(vd, f.width)] false okUnit act (fun j => f = .e2m1 || (addr j).toNat % f.bytes = 0) addr (
    let (t, _, st) := runElems (unitLoad f vd.toNat addr) s [] act
    match st with
    | none => t.upd fun h => ((if all.isEmpty then h else { h with m := h.m.setIfInBounds 15 0 })).vnext
    | some (j, .fail fl) =>
      if first = some j then t.failVector .load fl (addr j) true j
      else t.upd fun h => { h with m := h.m.setIfInBounds 15 (maskOf fun k => j ≤ k && k < h.vl) }.vnext
    | some (j, st) => t.stopElem i 0 j (addr j) start (first.getD 0) st))

/-! ## Gathers, scatters and vector atomics (R146, R147, R328) -/

/-- The elements of a form under the mask and F, or under M15 on a marked resumption (R147). -/
def Hart.gathered (h : Hart) (mk : MReg) : List Nat :=
  if h.markedVelem then (List.range h.vl).filter fun j => (h.m.getD 15 0).getLsbD j else h.actives mk

/-- Those from the start index on. -/
def Hart.attempt (h : Hart) (mk : MReg) : List Nat := (h.gathered mk).filter fun j => h.startIndex ≤ j

/-- The elements that the executing word has noted so far: failed ones of a gather or scatter, satisfied ones of a wait (R147, R329). -/
def Hart.noted (h : Hart) : MWord :=
  match h.blk with
  | some b => b.noted
  | none => 0

/-- How the lowest failed element of the executing word failed (R147). -/
def Hart.failed (h : Hart) : Option (Nat × Nat) :=
  match h.blk with
  | some b => b.failed
  | none => none

/-- The failed elements of a gather or scatter so far, and reason and level of the first one. -/
structure Failed where
  els : List Nat
  first : Option (Nat × Nat)

def Failed.add (x : Failed) (j : Nat) (f : Fail) : Failed := ⟨x.els ++ [j], if x.els.isEmpty then some (f.reason, f.level) else x.first⟩

/-- Perform every element, noting those whose translation fails; a wait stops the attempt (R147). -/
def runGather (f : State → List Stored → Nat → ElemOut) (s : State) (out : List Stored) (failed : Failed) (els : List Nat) :
    State × List Stored × Failed × Option (Nat × Stop) :=
  match els with
  | [] => (s, out, failed, none)
  | j :: r =>
    match f s out j with
    | .ok s out' =>
      match s.me.overrunNow, r with
      | some c, k :: _ => (s, out', failed, some (k, .overrun c))
      | _, _ => runGather f s out' failed r
    | .stop s (.fail x) => runGather f s out (failed.add j x) r
    | .stop s st => (s, out, failed, some (j, st))

/-- A form under R147. Failures noted below the start index stand; those at or above it, which a handler has named again, do not. The record of
the lowest failed element gives the reason and level with which it failed (DEDUCED, log 48). `bad` is its extra condition of step 1, `skip` the superseded elements, `keeps` that the form leaves M15 alone when it
has no element at all (R141), `pre` and `done` its edges. -/
def State.vmemGather (s : State) (i : Instr) (k : Kind) (groups : List (VReg × Nat)) (bad : Bool) (ok : Fmt → Bool) (mk : MReg)
    (m : Nat) (addr : Nat → Word) (skip : List Nat → Nat → Bool) (keeps : Bool) (f : State → List Stored → Nat → ElemOut)
    (pre done : State → State) : State :=
  let h := s.me
  let all := h.gathered mk
  let act := h.attempt mk
  let start := h.attemptStart i
  let first := ((all.filter fun j => start ≤ j && !skip all j).head?).getD 0
  let before : Failed := ⟨(List.range 256).filter fun j => h.noted.getLsbD j && j < h.startIndex, h.failed⟩
  s.vmemChecks i true groups bad ok act (fun j => (addr j).toNat % m = 0) addr (
    let (t, out, failed, st) := runGather f (pre s) [] before (act.filter fun j => !skip act j)
    let t := t.flush .vector out
    match st with
    | some (j, st) => (t.note (maskOf fun j => failed.els.contains j) failed.first).stopElem i (if h.markedVelem then 0x8000 else 0) j (addr j) start first st
    | none =>
      match failed.els with
      | [] => done (t.upd fun g => (if keeps && all.isEmpty && !h.markedVelem then g else { g with m := g.m.setIfInBounds 15 0 }).vnext)
      | j :: _ =>
        let t := (t.note 0 none).upd fun g => { g with m := g.m.setIfInBounds 15 (maskOf fun j => failed.els.contains j) }
        let x := failed.first.getD (1, 0)
        t.failVector k ⟨x.1, x.2⟩ (addr j) true 0x8000)

/-- The address of element `j` under an index vector (R138). -/
def Hart.indexed (h : Hart) (b : SReg) (vi : VReg) (w : Nat) (j : Nat) : Word := h.operand b + h.elem vi.toNat (indexWidth w) j

/-- Two groups share a register (R140). -/
def groupsMeet (h : Hart) (a : VReg) (wa : Nat) (b : VReg) (wb : Nat) : Bool :=
  overlaps a.toNat (groupSize (cfgVlmax h.cfg) wa) b.toNat (groupSize (cfgVlmax h.cfg) wb)

/-- `VLDX` (R137-R147). -/
def execVldx (vd : VReg) (b : SReg) (vi : VReg) (mk : MReg) (s : State) : Host.Outcome State Fault Refusal :=
  let h := s.me
  let f := cfgFmt h.cfg
  let w := f.width
  let addr := h.indexed b vi w
  .next (s.vmemGather (.vldx vd b vi mk) .load [(vd, w), (vi, indexWidth w)] (groupsMeet h vd w vi (indexWidth w)) okStrided mk
    f.bytes addr (fun _ _ => false) true (unitLoad f vd.toNat addr) id id)

/-- `VSTX` (R137-R147): the highest of several elements at one address stays (R142). -/
def execVstx (vs : VReg) (b : SReg) (vi : VReg) (mk : MReg) (s : State) : Host.Outcome State Fault Refusal :=
  let h := s.me
  let f := cfgFmt h.cfg
  let w := f.width
  let addr := h.indexed b vi w
  .next (s.vmemGather (.vstx vs b vi mk) .write [(vs, w), (vi, indexWidth w)] false okStrided mk f.bytes addr (superseded addr) true
    (unitStore f vs.toNat addr []) id id)

/-- `VSTXU` (R137-R147): any one of several elements at one address stays (R142). -/
def execVstxu (vs : VReg) (b : SReg) (vi : VReg) (mk : MReg) (s : State) : Host.Outcome State Fault Refusal :=
  let h := s.me
  let f := cfgFmt h.cfg
  let w := f.width
  let addr := h.indexed b vi w
  .next (s.vmemGather (.vstxu vs b vi mk) .write [(vs, w), (vi, indexWidth w)] false okStrided mk f.bytes addr (fun _ _ => false) true
    (unitStore f vs.toNat addr []) id id)

/-- One element of a vector atomic (R328): `g` gives the new value from the old one and the two operand elements. -/
def State.atomicElem (s : State) (vd w j : Nat) (a : Word) (g : Nat → Option Nat) (out : List Stored) : ElemOut :=
  match s.access .vector .atomic a (w / 8) with
  | .ok t loc =>
    match t.atomicAt .vector a loc (w / 8) g with
    | some (t, old) => .ok (t.upd fun h => h.setElem vd w j (BitVec.ofNat 64 old)) out
    | none => .stop t (.wait .overflow)
  | r => r.stop s

def okAtomic (f : Fmt) : Bool := f = .int32 || f = .int64

/-- `VAMO` (R328): the elements in ascending order, each an atomic; rl orders before them and aq after them (R261). Of elements at
different locations, for which R328 defines no order, the ascending index is the model's order (DESIGN CHOICE, log 21). Of a word with no
element M15 becomes 0 by R147, to which R328 refers; R141 speaks of the forms of R137 (DEDUCED, log 18). -/
def State.vamo (s : State) (i : Instr) (cas : Bool) (vd : VReg) (b : SReg) (vi : VReg) (mk : MReg) (aq rl : BitVec 1)
    (g : Nat → Nat → Nat → Nat → Option Nat) : State :=
  let h := s.me
  let f := cfgFmt h.cfg
  let w := f.width
  let addr := h.indexed b vi w
  let el := fun (j : Nat) => (h.elem vd.toNat w j).toNat
  let el2 := fun (j : Nat) => (h.elem (vd.toNat + 1) w j).toNat
  s.vmemGather i .atomic ([(vd, w), (vi, indexWidth w)] ++ if cas then [(vd + 1, w)] else [])
    (cas && (2048 < cfgVlmax h.cfg * w || vd = 31)) okAtomic mk (w / 8) addr (fun _ _ => false) false
    (fun s out j => s.atomicElem vd.toNat w j (addr j) (fun old => g (w / 8) old (el j) (el2 j)) out)
    (fun s => s.edge (rl = 1) false) (fun s => s.edge false (aq = 1))

/-- `VAMO_ADD` (R328). -/
def execVamoAdd (vd : VReg) (b : SReg) (vi : VReg) (mk : MReg) (aq rl : BitVec 1) (s : State) : Host.Outcome State Fault Refusal :=
  .next (s.vamo (.vamoAdd vd b vi mk aq rl) false vd b vi mk aq rl fun n old x _ => some (Amo.add.apply n old x))

/-- `VAMO_MIN` (R328). -/
def execVamoMin (vd : VReg) (b : SReg) (vi : VReg) (mk : MReg) (aq rl : BitVec 1) (s : State) : Host.Outcome State Fault Refusal :=
  .next (s.vamo (.vamoMin vd b vi mk aq rl) false vd b vi mk aq rl fun n old x _ => some (Amo.min.apply n old x))

/-- `VAMO_MAX` (R328). -/
def execVamoMax (vd : VReg) (b : SReg) (vi : VReg) (mk : MReg) (aq rl : BitVec 1) (s : State) : Host.Outcome State Fault Refusal :=
  .next (s.vamo (.vamoMax vd b vi mk aq rl) false vd b vi mk aq rl fun n old x _ => some (Amo.max.apply n old x))

/-- `VAMO_AND` (R328). -/
def execVamoAnd (vd : VReg) (b : SReg) (vi : VReg) (mk : MReg) (aq rl : BitVec 1) (s : State) : Host.Outcome State Fault Refusal :=
  .next (s.vamo (.vamoAnd vd b vi mk aq rl) false vd b vi mk aq rl fun n old x _ => some (Amo.and.apply n old x))

/-- `VAMO_OR` (R328). -/
def execVamoOr (vd : VReg) (b : SReg) (vi : VReg) (mk : MReg) (aq rl : BitVec 1) (s : State) : Host.Outcome State Fault Refusal :=
  .next (s.vamo (.vamoOr vd b vi mk aq rl) false vd b vi mk aq rl fun n old x _ => some (Amo.or.apply n old x))

/-- `VAMO_XOR` (R328). -/
def execVamoXor (vd : VReg) (b : SReg) (vi : VReg) (mk : MReg) (aq rl : BitVec 1) (s : State) : Host.Outcome State Fault Refusal :=
  .next (s.vamo (.vamoXor vd b vi mk aq rl) false vd b vi mk aq rl fun n old x _ => some (Amo.xor.apply n old x))

/-- `VAMO_SWAP` (R328). -/
def execVamoSwap (vd : VReg) (b : SReg) (vi : VReg) (mk : MReg) (aq rl : BitVec 1) (s : State) : Host.Outcome State Fault Refusal :=
  .next (s.vamo (.vamoSwap vd b vi mk aq rl) false vd b vi mk aq rl fun n old x _ => some (Amo.swap.apply n old x))

/-- `VAMO_CAS` (R328): compares with vd, stores from vd + 1. -/
def execVamoCas (vd : VReg) (b : SReg) (vi : VReg) (mk : MReg) (aq rl : BitVec 1) (s : State) : Host.Outcome State Fault Refusal :=
  .next (s.vamo (.vamoCas vd b vi mk aq rl) true vd b vi mk aq rl fun _ old x y => if old = x then some y else none)

/-! ## Waiting on memory (R329) -/

/-- The conditions of `VWAIT`: lt and ge signed, UINT8 unsigned; ltu and geu on containers (R329). -/
inductive WaitCmp where
  | eq | ne | lt | ge | ltu | geu
  deriving DecidableEq, Repr

def WaitCmp.meets (c : WaitCmp) (f : Fmt) (x y : Elem) : Bool :=
  let a := intVal f x
  let b := intVal f y
  let ua := (lowBits f.width x).toNat
  let ub := (lowBits f.width y).toNat
  match c with
  | .eq => ua == ub | .ne => ua != ub | .lt => a < b | .ge => b ≤ a | .ltu => ua < ub | .geu => ub ≤ ua

def okWait (f : Fmt) : Bool := f.isInt

/-- Put an address into a rising list. -/
def insertAddr (a : Word) (as : List Word) : List Word :=
  match as with
  | [] => [a]
  | b :: r => if a < b then a :: b :: r else b :: insertAddr a r

/-- Translate the address of every element for reading, the lowest address first: a failure is that of the lowest (R329). -/
def State.waitTranslations (s : State) (addr : Nat → Word) (els : List Nat) : TrRange :=
  s.translateAll .load ((els.map addr).foldr insertAddr [])

/-- Read the elements still waited for; those that meet the condition leave the set. A recess overrun is taken after the read that
stalled (R371). -/
def runWait (m : Nat) (addr : Nat → Word) (met : Nat → Nat → Bool) (s : State) (left els : List Nat) :
    State × List Nat × Option (Nat × Stop) :=
  match els with
  | [] => (s, left, none)
  | j :: r =>
    match s.access .vector .load (addr j) m with
    | .ok s loc =>
      let (s, bs) := s.readBytes .vector loc m
      let left := if met j (leNat bs) then left.filter (· != j) else left
      match s.me.overrunNow with
      | some c => if left.isEmpty then (s, left, none) else (s, left, some (j, .overrun c))
      | none => runWait m addr met s left r
    | .fail f => (s, left, some (j, .fail f))
    | .wait s y => (s, left, some (j, .wait y))
    | .mark => (s, left, some (j, .mark))
    | .soft a => (s, left, some (j, .soft a))

/-- `VWAIT` (R329). Its end is an acquire: later accesses of both classes follow what it read and, in its own class, what came before it (R254,
R261). The elements found satisfied while it waits are not read again; one that begins afresh waits for all. A locket that its
own reads acquire is no reason for the trap of R352, which is of its execution as a whole (R354). -/
def State.vwait (s : State) (i : Instr) (vs : VReg) (b : SReg) (vi : VReg) (mk : MReg) (c : WaitCmp) : State :=
  let h := s.me
  let f := cfgFmt h.cfg
  let w := f.width
  let addr := h.indexed b vi w
  let all := h.actives mk
  let left := if h.parkedAt i then all.filter fun j => !h.noted.getLsbD j else all
  if h.markedVelem || [(vs, w), (vi, indexWidth w)].any fun g => h.groupBad g.1 g.2 then s.vtrap tIllegal 0 (wordOf i)
  else if s.buffering s.cur && !h.parkedAt i then s.vtrap tIrrevocable 0 (wordOf i)
  else if !okWait f then s.vtrap tFormat 0 (wordOf i)
  else
    match lowestOf ((all.map addr).filter fun a => a.toNat % (w / 8) != 0) with
    | some a => s.vtrap tDataAlign 0 a
    | none =>
      let stay := fun (s : State) (left : List Nat) (y : Why) =>
        ((s.upd fun h => { h with velem := 0 }).note (maskOf fun j => all.contains j && !left.contains j) none).parkUnit ⟨y, i, [], 0⟩
      match s.waitTranslations addr left with
      | .fail s fl a => s.failVector .load fl a true 0
      | .wait s y => stay s left y
      | .ok s =>
        let (s, left, st) := runWait (w / 8) addr (fun j x => c.meets f (BitVec.ofNat 64 x) (h.elem vs.toNat w j)) s left left
        match st with
        | some (j, .fail fl) => s.failVector .load fl (addr j) true 0
        | some (j, .mark) => s.vtrap tWatermark 0 (addr j)
        | some (_, .soft a) => s.machineCheck true 0 a
        | some (_, .wait y) => stay s left y
        | some (j, .overrun c) => s.stopElem i 0 0 (addr j) 0 0 (.overrun c)
        | _ => if left.isEmpty then (s.edge false true).upd Hart.vnext else stay s left (.elements (maskOf fun j => left.contains j))

/-- `VWAIT_EQ` (R329). -/
def execVwaitEq (vs : VReg) (b : SReg) (vi : VReg) (mk : MReg) (s : State) : Host.Outcome State Fault Refusal :=
  .next (s.vwait (.vwaitEq vs b vi mk) vs b vi mk .eq)

/-- `VWAIT_NE` (R329). -/
def execVwaitNe (vs : VReg) (b : SReg) (vi : VReg) (mk : MReg) (s : State) : Host.Outcome State Fault Refusal :=
  .next (s.vwait (.vwaitNe vs b vi mk) vs b vi mk .ne)

/-- `VWAIT_LT` (R329). -/
def execVwaitLt (vs : VReg) (b : SReg) (vi : VReg) (mk : MReg) (s : State) : Host.Outcome State Fault Refusal :=
  .next (s.vwait (.vwaitLt vs b vi mk) vs b vi mk .lt)

/-- `VWAIT_GE` (R329). -/
def execVwaitGe (vs : VReg) (b : SReg) (vi : VReg) (mk : MReg) (s : State) : Host.Outcome State Fault Refusal :=
  .next (s.vwait (.vwaitGe vs b vi mk) vs b vi mk .ge)

/-- `VWAIT_LTU` (R329). -/
def execVwaitLtu (vs : VReg) (b : SReg) (vi : VReg) (mk : MReg) (s : State) : Host.Outcome State Fault Refusal :=
  .next (s.vwait (.vwaitLtu vs b vi mk) vs b vi mk .ltu)

/-- `VWAIT_GEU` (R329). -/
def execVwaitGeu (vs : VReg) (b : SReg) (vi : VReg) (mk : MReg) (s : State) : Host.Outcome State Fault Refusal :=
  .next (s.vwait (.vwaitGeu vs b vi mk) vs b vi mk .geu)

/-! ## Satchels (R149-R151) -/

/-- The lane of element `j` of container width `w` (R149). -/
def laneOf (w j : Nat) : Nat := j % (2048 / w) * w / 64

/-- `m` bytes of a lane's window, little-endian. -/
def satGet (m : Memory) (lane o n : Nat) : Nat := leNat ((List.range n).map fun i => m.get (1024 * lane + o + i))
def satPut (m : Memory) (lane o n x : Nat) : Memory := m.putAll (cellsAt (1024 * lane + o) (leBytes n x))

/-- The checks of a satchel form: groups, format, the range of every active element (R140, R149). -/
def State.satForm (s : State) (i : Instr) (v : VReg) (b : SReg) (vi : VReg) (mk : MReg) (k : List Nat → (Nat → Nat) → State) : State :=
  let h := s.me
  let f := cfgFmt h.cfg
  let w := f.width
  let off := fun j => (h.indexed b vi w j)
  let act := (h.actives mk).filter fun j => h.startIndex ≤ j
  if h.markedVelem || [(v, w), (vi, indexWidth w)].any fun g => h.groupBad g.1 g.2 then s.vtrap tIllegal 0 (wordOf i)
  else
    match lowestOf ((act.map off).filter fun o => o.toNat % (w / 8) != 0 || 1024 < o.toNat + w / 8) with
    | some o => s.vtrap tSatchel (h.velem.toNat % 65536) o
    | none => k act fun j => (off j).toNat

/-- A byte among `n` of a satchel window holds an uncorrectable soft error (R372). -/
def Hart.satBad (h : Hart) (lane o n : Nat) : Bool := (List.range n).any fun i => h.bad.contains (.satchel (1024 * lane + o + i))

/-- `SATLD` (R150). -/
def execSatld (vd : VReg) (b : SReg) (vi : VReg) (mk : MReg) (s : State) : Host.Outcome State Fault Refusal :=
  .next (s.satForm (.satld vd b vi mk) vd b vi mk fun act off =>
    let h := s.me
    let f := cfgFmt h.cfg
    let w := f.width
    if act.any fun j => h.satBad (laneOf w j) (off j) (w / 8) then s.machineCheck true (h.velem.toNat % 65536) (codeAddr 2)
    else s.setMe (act.foldl (fun g j => g.setElem vd.toNat w j (valueBits f (BitVec.ofNat 64 (satGet h.satchel (laneOf w j) (off j) (w / 8))))) h).vnext)

/-- `SATST` (R150): the highest element stays where several address one place (R142). -/
def execSatst (vs : VReg) (b : SReg) (vi : VReg) (mk : MReg) (s : State) : Host.Outcome State Fault Refusal :=
  .next (s.satForm (.satst vs b vi mk) vs b vi mk fun act off =>
    let h := s.me
    let f := cfgFmt h.cfg
    let w := f.width
    let m := act.foldl (fun m j => satPut m (laneOf w j) (off j) (w / 8) (valueBits f (h.elem vs.toNat w j)).toNat) h.satchel
    s.setMe { h with satchel := m }.vnext)

/-! ## Spill frames (R152-R155) -/

/-- Size of the largest naturally aligned piece at an address within `k` bytes (R252). -/
def naturalSize (a k : Nat) : Nat :=
  if a % 8 = 0 && 8 ≤ k then 8 else if a % 4 = 0 && 4 ≤ k then 4 else if a % 2 = 0 && 2 ≤ k then 2 else 1

/-- The naturally aligned pieces of at most 8 bytes of a range, each single-copy atomic (R155, R252). -/
def piecesOf (a : Word) (bs : List Byte) (fuel : Nat) : List (Word × List Byte) :=
  match fuel, bs with
  | _, [] => []
  | 0, _ => []
  | k + 1, bs =>
    let n := naturalSize a.toNat bs.length
    (a, bs.take n) :: piecesOf (a + BitVec.ofNat 64 n) (bs.drop n) k

/-- What stopped a run over several pieces. -/
inductive RangeOut where
  | ok (s : State) (bs : List Byte)
  | stop (s : State) (va : Word) (st : Stop)

/-- Read a range piece by piece. -/
def State.readPieces (s : State) (cls : Cls) (acc : List Byte) (ps : List (Word × Nat)) : RangeOut :=
  match ps with
  | [] => .ok s acc
  | (a, n) :: r =>
    match s.access cls .load a n with
    | .ok s loc =>
      let (s, bs) := s.readBytes cls loc n
      s.readPieces cls (acc ++ bs) r
    | x =>
      match x.stop s with
      | .stop s st => .stop s a st
      | .ok s _ => .ok s acc

/-- Admit every piece of a range for writing before any byte moves. -/
def State.admitPieces (s : State) (out : List Stored) (ps : List (Word × List Byte)) : State × List Stored × Option (Word × Stop) :=
  match ps with
  | [] => (s, out, none)
  | (a, bs) :: r =>
    match s.storeElem out out.length a bs with
    | .ok s out => s.admitPieces out r
    | .stop s st => (s, out, some (a, st))

/-- Pieces of `n` bytes at `a`, as addresses and lengths. -/
def piecesAt (a : Word) (n : Nat) : List (Word × Nat) :=
  (piecesOf a (List.replicate n 0) (n + 1)).map fun p => (p.1, p.2.length)

/-- Read `n` bytes at `a`: every locket that they lie in is acquired first, in ascending id (R345). -/
def State.readRange (s : State) (cls : Cls) (a : Word) (n : Nat) : RangeOut :=
  match s.touch a.toNat n with
  | .wait s y => .stop s a (.wait y)
  | .go s => s.readPieces cls [] (piecesAt a n)

/-- Admit bytes at `a` for writing, after every locket that they lie in. -/
def State.admitRange (s : State) (a : Word) (bs : List Byte) : State × List Stored × Option (Word × Stop) :=
  match s.touch a.toNat bs.length with
  | .wait s y => (s, [], some (a, .wait y))
  | .go s => s.admitPieces [] (piecesOf a bs (bs.length + 1))

/-- Stop a whole-range vector form: nothing has changed, and it starts again whole; the translations of its pages are kept (R155, R370,
R387). -/
def State.stopWhole (s : State) (i : Instr) (k : Kind) (ps : List Word) (a : Word) (st : Stop) : State :=
  match st with
  | .fail f => s.failVector k f a false 0
  | .wait y => (s.upd fun h => { h with velem := 0 }).parkUnit ⟨y, i, if y.keeps then s.hold ps else [], 0⟩
  | st => s.stopElem i 0 0 a 0 0 st

/-- `VSPILL` (R153). -/
def execVspill (vs : VReg) (b : SReg) (s : State) : Host.Outcome State Fault Refusal :=
  let h := s.me
  let f := cfgFmt h.cfg
  let w := f.width
  let c := w / 8
  let a := h.operand b
  let i := Instr.vspill vs b
  let hdr := h.vl + (cfgCode h.cfg).toNat * 4096 + (cfgSpanCode h.cfg).toNat * 65536
  let bytes := leBytes 16 hdr ++ (List.range h.vl).flatMap fun j => leBytes c (h.elem vs.toNat w j).toNat
  let ps := pagesOf a bytes.length
  .next (
    if h.markedVelem || h.groupBad vs w then s.vtrap tIllegal 0 (wordOf i)
    else if a.toNat % 16 ≠ 0 then s.vtrap tDataAlign 0 a
    else
      match s.translateAll .write ps with
      | .fail s fl va => s.failVector .write fl va false 0
      | .wait s y => s.stopWhole i .write ps a (.wait y)
      | .ok s =>
        let (t, out, st) := s.admitRange a bytes
        match st with
        | some (va, st) => t.stopWhole i .write ps va st
        | none => (t.flush .vector out).upd Hart.vnext)

/-- `VFILL` (R154): the frame's own format and span. -/
def execVfill (vd : VReg) (b : SReg) (s : State) : Host.Outcome State Fault Refusal :=
  let h := s.me
  let a := h.operand b
  let i := Instr.vfill vd b
  .next (
    if h.markedVelem then s.vtrap tIllegal 0 (wordOf i)
    else if a.toNat % 16 ≠ 0 then s.vtrap tDataAlign 0 a
    else
      match s.translateAll .load (pagesOf a 16) with
      | .fail s fl va => s.failVector .load fl va false 0
      | .wait s y => s.stopWhole i .load (pagesOf a 16) a (.wait y)
      | .ok s =>
      match s.readRange .vector a 16 with
      | .stop s va st => s.stopWhole i .load (pagesOf a 16) va st
      | .ok t hd =>
        let h0 := leNat (hd.take 8)
        let n := h0 % 512
        let fc := BitVec.ofNat 4 (h0 / 4096)
        let span := 2 ^ (h0 / 65536 % 4)
        match Fmt.ofCode fc with
        | none => t.vtrap tSpill 0 a
        | some f =>
          if h0 / 512 % 8 ≠ 0 || h0 / 2 ^ 18 ≠ 0 || leNat (hd.drop 8) ≠ 0 || vlmaxOf f span < n then t.vtrap tSpill 0 a
          else
            let k := groupSize (vlmaxOf f span) f.width
            let c := f.width / 8
            let ps := pagesOf a (16 + n * c)
            if 32 < vd.toNat + k then t.vtrap tIllegal 0 (wordOf i)
            else
              match t.translateAll .load ps with
              | .fail t fl va => t.failVector .load fl va false 0
              | .wait t y => t.stopWhole i .load ps a (.wait y)
              | .ok t =>
                match t.readRange .vector (a + 16) (n * c) with
                | .stop t va st => t.stopWhole i .load ps va st
                | .ok t bs =>
                  t.upd fun h =>
                    let z := (List.range k).foldl (fun g r => g.vput (vd.toNat + r) 0) h
                    ((List.range n).foldl (fun g j =>
                      g.setElem vd.toNat f.width j (valueBits f (BitVec.ofNat 64 (leNat ((bs.drop (j * c)).take c))))) z).vnext)

/-! ## Slate updates (R332) -/

/-- The formats of slates (R331). -/
def okSlate (f : Fmt) : Bool := f = .int32 || f = .int64 || f = .fp32 || f = .fp64

/-- Fold one value into a copy element: add rounds or wraps, min and max follow `VMIN` and `VMAX` (R332). -/
def slateOp (op : Nat) (f : Fmt) (env : Env) (c x : Elem) : Elem × FlagSet :=
  match op with
  | 0 => elemArith .add f env c x
  | 1 => elemMinMax false f env c x
  | _ => elemMinMax true f env c x

/-- `SLADD`, `SLMIN`, `SLMAX` (R332). An entry number above 31 names no entry and traps as an empty one, and an entry of another op traps with `laddr` S[sI]:
the rule gives neither (DESIGN CHOICE, log 25). -/
def State.slateUpdate (s : State) (i : Instr) (op : Nat) (vs : VReg) (ri : SReg) (vx : VReg) (mk : MReg) : State :=
  let h := s.me
  let fm := cfgFmt h.cfg
  let w := fm.width
  let id := h.operand ri
  if h.markedVelem || [(vs, w), (vx, indexWidth w)].any fun g => h.groupBad g.1 g.2 then s.vtrap tIllegal 0 (wordOf i)
  else
    match if id.toNat < 32 then h.slates.find id.toNat else none with
    | none => s.vtrap tSlate 0 id
    | some e =>
      let ef := (Fmt.ofCode e.fmt).getD .fp32
      let idx := fun j => (h.elem vx.toNat (indexWidth w) j).toNat
      if e.op ≠ op then s.vtrap tSlate 0 id
      else
        match (h.actives mk).filter (fun j => e.length / ef.bytes ≤ idx j) with
        | j :: r => s.vtrap tSlate 0 (BitVec.ofNat 64 (r.foldl (fun a k => Nat.min a (idx k)) (idx j)))
        | [] =>
          if fm ≠ ef then s.vtrap tFormat 0 (wordOf i)
          else if (h.actives mk).any fun j => h.satBad (laneOf w j) (e.offset + idx j * ef.bytes) ef.bytes then
            s.machineCheck true 0 (codeAddr 2)
          else
            let g := (h.actives mk).foldl (fun g j =>
              let o := e.offset + idx j * ef.bytes
              let r := slateOp op ef (modeEnv h.fmode) (BitVec.ofNat 64 (satGet g.satchel (laneOf w j) o ef.bytes)) (h.elem vs.toNat w j)
              { g with satchel := satPut g.satchel (laneOf w j) o ef.bytes r.1.toNat }.raise r.2) h
            s.setMe g.vnext

/-- `SLADD` (R332). -/
def execSladd (vs : VReg) (i : SReg) (vx : VReg) (mk : MReg) (s : State) : Host.Outcome State Fault Refusal := .next (s.slateUpdate (.sladd vs i vx mk) 0 vs i vx mk)
/-- `SLMIN` (R332). -/
def execSlmin (vs : VReg) (i : SReg) (vx : VReg) (mk : MReg) (s : State) : Host.Outcome State Fault Refusal := .next (s.slateUpdate (.slmin vs i vx mk) 1 vs i vx mk)
/-- `SLMAX` (R332). -/
def execSlmax (vs : VReg) (i : SReg) (vx : VReg) (mk : MReg) (s : State) : Host.Outcome State Fault Refusal := .next (s.slateUpdate (.slmax vs i vx mk) 2 vs i vx mk)

end Sys2Proof.Machine
end

