-- ==== Sys2Proof/Machine/Poly.lean ====
section
/-! DEFINITION. The polynomial unit: descriptors, exact expansions, and the forms of major 0x2E (08_polynomial, R160-R189). -/

namespace Sys2Proof.Machine

/-! ## Registers and descriptors (R160-R162) -/

def Hart.pget (h : Hart) (r : PReg) : BitVec 32768 := h.p.getD r.toNat 0
def Hart.pput (h : Hart) (r : PReg) (x : BitVec 32768) : Hart := { h with p := h.p.setIfInBounds r.toNat x }
def Hart.dget (h : Hart) (r : PReg) : Word := h.d.getD r.toNat 0
def Hart.dput (h : Hart) (r : PReg) (x : Word) : Hart := { h with d := h.d.setIfInBounds r.toNat x }

def dDim (d : Word) : Nat := (d.extractLsb' 0 2).toNat
def dDeg (d : Word) : Nat := (d.extractLsb' 4 4).toNat
def dLim (d : Word) : Nat := (d.extractLsb' 8 4).toNat
def dBasis (d : Word) : BitVec 1 := d.extractLsb' 12 1
def dCount (d : Word) : Nat := (d.extractLsb' 16 7).toNat

/-- Bits that a descriptor has (R161). -/
def dFields : Word := 0x37F1FF3
/-- The two sticky bits. -/
def dSticky : Word := 0x3000000

/-- Elements that fit (R162). -/
def polyCap (dim lim : Nat) : Nat := min 64 (1024 / (lim + 1) ^ dim)

/-- Check 1 of R166. -/
def descOk (d : Word) : Bool := (dDim d == 1 || dDim d == 2) && dDeg d ≤ dLim d && dCount d ≤ polyCap (dDim d) (dLim d)

/-- Replace a field of a descriptor. -/
def dSet (d : Word) (lo n x : Nat) : Word := setField d lo n x

/-- Slots of an element (R162). -/
def dSlots (d : Word) : Nat := (dLim d + 1) ^ dDim d
/-- Rows of an element: degrees in y, one in 1D. -/
def dRows (d : Word) : Nat := if dDim d = 2 then dDeg d + 1 else 1

/-- The codes of the modes of element `i`, one list for each degree in y (R162). -/
def polyElem (reg : BitVec 32768) (d : Word) (i : Nat) : List (List Elem) :=
  (List.range (dRows d)).map fun k => (List.range (dDeg d + 1)).map fun j =>
    BitVec.ofNat 64 (fieldOf reg (32 * (i * dSlots d + j + (dLim d + 1) * k)) 32)

def modeOf {α : Type} (z : α) (g : List (List α)) (k j : Nat) : α := (g.getD k []).getD j z

/-- Write element `i`: every slot, those beyond the modes given as +0 (R162). -/
def polyPut (reg : BitVec 32768) (d : Word) (i : Nat) (g : List (List Elem)) : BitVec 32768 :=
  let w := dLim d + 1
  let x := (List.range (if dDim d = 2 then w else 1)).foldl (fun n k =>
    (List.range w).foldl (fun n j => n + (modeOf 0 g k j).toNat % 2 ^ 32 * 2 ^ (32 * (j + w * k))) n) 0
  setField reg (32 * (i * dSlots d)) (32 * dSlots d) x

/-! ## Exact expansions -/

/-- Modes of one variable; of two, one row for each degree in y. -/
abbrev Modes := List Q
abbrev Modes2 := List Modes

def Q.zero : Q := ⟨0, 1⟩
def Q.one : Q := ⟨1, 1⟩
/-- The same fraction in lowest terms. -/
def Q.norm (a : Q) : Q :=
  let g := Nat.gcd a.num.natAbs a.den
  if g ≤ 1 then a else ⟨a.num / (g : Int), a.den / g⟩
def Q.frac (n : Int) (d : Nat) : Q := ⟨n, d⟩

def modesAdd (a b : Modes) : Modes :=
  match a, b with
  | [], b => b
  | a, [] => a
  | x :: r, y :: t => (x.add y).norm :: modesAdd r t
def modesScale (q : Q) (a : Modes) : Modes := a.map fun x => (q.mul x).norm
def modesUnit (k : Nat) : Modes := List.replicate k Q.zero ++ [Q.one]
/-- Linear combination of mode lists: the image of `c` under the map that sends basis function `k` to `f k`. -/
def modesMap (f : Nat → Modes) (c : Modes) : Modes :=
  (c.zipIdx.foldl (fun acc x => if x.1.num = 0 then acc else modesAdd acc (modesScale x.1 (f x.2))) [])

def swap2 (g : Modes2) (w : Nat) : Modes2 := (List.range w).map fun j => g.map fun r => r.getD j Q.zero
def width2 (g : Modes2) : Nat := g.foldl (fun n r => max n r.length) 0
/-- Apply a map of one variable in x (`dir` 0) or in y. -/
def along (dir : Nat) (f : Modes → Modes) (g : Modes2) : Modes2 :=
  if dir = 0 then g.map f
  else
    let t := (swap2 g (width2 g)).map f
    swap2 t (width2 t)

/-- The two bases (R161): 0 Legendre, 1 Chebyshev. -/
abbrev Basis := BitVec 1

/-- The recurrence `B_(k+1) = α x B_k - β B_(k-1)` of a basis. -/
def recurOf (b : Basis) (k : Nat) : Q × Q :=
  if b = 0 then (.frac (2 * k + 1) (k + 1), .frac k (k + 1))
  else if k = 0 then (.one, .zero) else (.frac 2 1, .one)

/-- `x B_k` in the basis. -/
def xTimes (b : Basis) (k : Nat) : Modes :=
  if b = 0 then modesAdd (modesScale (.frac (k + 1) (2 * k + 1)) (modesUnit (k + 1)))
    (if k = 0 then [] else modesScale (.frac k (2 * k + 1)) (modesUnit (k - 1)))
  else if k = 0 then modesUnit 1
  else modesScale (.frac 1 2) (modesAdd (modesUnit (k + 1)) (modesUnit (k - 1)))

/-- The values `B_0(x)` to `B_n(x)`. -/
def basisValues (b : Basis) (x : Q) (n : Nat) : List Q :=
  let rec go (fuel k : Nat) (p q : Q) : List Q :=
    match fuel with
    | 0 => []
    | f + 1 => q :: go f (k + 1) q ((((recurOf b k).1.mul (x.mul q)).sub ((recurOf b k).2.mul p)).norm)
  go (n + 1) 0 Q.zero Q.one

/-- The value of an expansion at a point. -/
def valueAt (b : Basis) (c : Modes) (x : Q) : Q :=
  ((c.zip (basisValues b x (c.length - 1))).foldl (fun a p => (a.add (p.1.mul p.2)).norm) Q.zero)

/-- `B_0` to `B_n` of basis `b` as modes of basis `t` (R183). -/
def basisIn (b t : Basis) (n : Nat) : List Modes :=
  let rec go (fuel k : Nat) (p q : Modes) : List Modes :=
    match fuel with
    | 0 => []
    | f + 1 =>
      let r := recurOf b k
      q :: go f (k + 1) q (modesAdd (modesScale r.1 (modesMap (xTimes t) q)) (modesScale r.2.neg p))
  go (n + 1) 0 [] [Q.one]

/-! ### Products (R171-R173) -/

/-- `A(j)` of R171. -/
def legA (j : Nat) : Q :=
  match j with
  | 0 => Q.one
  | j + 1 => (legA j).mul (.frac (2 * j + 1) (j + 1))

/-- The product of two basis functions (R171). -/
def basisProduct (b : Basis) (m n : Nat) : Modes :=
  if b = 0 then
    (List.range (min m n + 1)).foldl (fun acc j =>
      let c := ((((legA (m - j)).mul (legA j)).mul (legA (n - j))).div (legA (m + n - j))).mul
        (.frac (2 * m + 2 * n - 4 * j + 1) (2 * m + 2 * n - 2 * j + 1))
      modesAdd acc (modesScale c (modesUnit (m + n - 2 * j)))) []
  else modesScale (.frac 1 2) (modesAdd (modesUnit (m + n)) (modesUnit (if m < n then n - m else m - n)))

/-- The exact product of two expansions of one variable. -/
def modesMul (b : Basis) (f g : Modes) : Modes := modesMap (fun m => modesMap (fun n => basisProduct b m n) g) f

def modes2Add (f g : Modes2) : Modes2 :=
  match f, g with
  | [], g => g
  | f, [] => f
  | x :: r, y :: t => modesAdd x y :: modes2Add r t

/-- The exact product in either dimension: row `k` times row `k'`, spread over the product of the y factors (R171). -/
def exactProduct (b : Basis) (f g : Modes2) : Modes2 :=
  f.zipIdx.foldl (fun acc x => g.zipIdx.foldl (fun acc y =>
    let r := modesMul b x.1 y.1
    modes2Add acc ((basisProduct b x.2 y.2).map fun q => modesScale q r)) acc) []

/-- `φ` of R172: the mode N+1 counts as mode N-1. -/
def foldTop (n : Nat) (c : Modes) : Modes :=
  modesAdd (c.take (n + 1)) (modesScale (c.getD (n + 1) Q.zero) (modesUnit (n - 1)))

/-- `a_m` of the Legendre aliasing map for m = N + `k`, with the one before it (R172). -/
def legAlias (n k : Nat) : Modes × Modes :=
  match k with
  | 0 => (modesUnit (n - 1), modesUnit n)
  | k + 1 =>
    let (p, q) := legAlias n k
    let r := recurOf 0 (n + k)
    (q, modesAdd (modesScale r.1 (foldTop n (modesMap (xTimes 0) q))) (modesScale r.2.neg p))

/-- `a_m = I_N B_m` (R172). -/
def aliasOf (b : Basis) (n m : Nat) : Modes :=
  if m ≤ n then modesUnit m
  else if b = 0 then (legAlias n (m - n)).2
  else
    let r := m % (2 * n)
    modesUnit (if r ≤ n then r else 2 * n - r)

/-- `I_N` in each dimension (R172). -/
def collocate (b : Basis) (n dim : Nat) (h : Modes2) : Modes2 :=
  let h := along 0 (modesMap (aliasOf b n)) h
  if dim = 2 then along 1 (modesMap (aliasOf b n)) h else h

/-! ### Calculus and faces (R174-R178) -/

/-- The derivative of one variable (R174). -/
def modesDiff (b : Basis) (c : Modes) : Modes :=
  (List.range c.length).map fun k =>
    let s := ((List.range c.length).filter fun j => k < j && (j - k) % 2 = 1).foldl (fun a j =>
      (a.add (if b = 0 then c.getD j Q.zero else (Q.ofInt j).mul (c.getD j Q.zero))).norm) Q.zero
    if b = 0 then (Q.ofInt (2 * k + 1)).mul s else if k = 0 then s else (Q.ofInt 2).mul s

/-- The antiderivative of a basis function that vanishes at -1 (R175). -/
def antiderivative (b : Basis) (k : Nat) : Modes :=
  if k = 0 then [Q.one, Q.one]
  else if b = 0 then
    modesScale (.frac 1 (2 * k + 1)) (modesAdd (modesUnit (k + 1)) (modesScale (.frac (-1) 1) (modesUnit (k - 1))))
  else if k = 1 then [.frac (-1) 4, Q.zero, .frac 1 4]
  else
    modesAdd (modesAdd (modesScale (.frac 1 (2 * (k + 1))) (modesUnit (k + 1)))
      (modesScale (.frac (-1) (2 * (k - 1))) (modesUnit (k - 1)))) [.frac (if k % 2 = 1 then 1 else -1) (k * k - 1)]

/-- The integral of a basis function over the reference interval (R176). -/
def basisIntegral (b : Basis) (k : Nat) : Q :=
  if b = 0 then (if k = 0 then .frac 2 1 else Q.zero)
  else if k % 2 = 1 then Q.zero
  else if k = 0 then .frac 2 1 else .frac (-2) (k * k - 1)

/-- Contract the modes of x with weights. -/
def contract (f : Nat → Q) (c : Modes) : Q := c.zipIdx.foldl (fun a x => (a.add (x.1.mul (f x.2))).norm) Q.zero
/-- The sign of `B_k(±1)` at a face (R178). -/
def faceSign (plus : Bool) (k : Nat) : Q := if plus || k % 2 = 0 then Q.one else .frac (-1) 1

/-! ### Nodes (R169, R182) -/

/-- Bits behind the point of a node: a node that is not a stated fraction stands as a neighbour within 2^-nodeBits. -/
def nodeBits : Nat := 192

/-- Halve an interval `[lo, hi]`, in units of 2^-nodeBits, that holds one root of the expansion `c`. -/
def bisect (b : Basis) (c : Modes) (neg : Bool) (fuel : Nat) (lo hi : Int) : Int :=
  match fuel with
  | 0 => lo
  | f + 1 =>
    let mid := (lo + hi) / 2
    let v := valueAt b c ⟨mid, 2 ^ nodeBits⟩
    if decide (v.num < 0) = neg then bisect b c neg f mid hi else bisect b c neg f lo mid

/-- The nodes of degree `n` in units of 2^-nodeBits (R169): the interior ones are the roots of the derivative of the basis
function of degree `n`, which the nodes of degree `n - 1` separate; half of them suffice, by symmetry. -/
def nodeUnits (b : Basis) (n : Nat) : List Int :=
  match n with
  | 0 => [0]
  | n + 1 =>
    let one : Int := 2 ^ nodeBits
    if n = 0 then [-one, one]
    else
      let prev := nodeUnits b n
      let c := modesDiff b (modesUnit (n + 1))
      let left := (List.range (n / 2)).map fun j =>
        let lo := prev.getD j 0
        bisect b c (decide ((valueAt b c ⟨lo, 2 ^ nodeBits⟩).num < 0)) (nodeBits + 2) lo (prev.getD (j + 1) 0)
      [-one] ++ left ++ (if n % 2 = 1 then [0] else []) ++ (left.reverse.map fun x => -x) ++ [one]

/-- Node `j` of degree `n`, the single one of degree 0 being 0 (R169); the Chebyshev nodes that are ±1/2 are exact. -/
def nodeAt (b : Basis) (n j : Nat) : Q :=
  if n = 0 then Q.zero
  else if b = 1 && 3 * j == n then .frac (-1) 2
  else if b = 1 && 3 * j == 2 * n then .frac 1 2
  else Q.norm ⟨(nodeUnits b n).getD j 0, 2 ^ nodeBits⟩

/-- An exact value rounded to FP64 under RNE, as a fraction (R182). -/
def toFp64 (x : Q) : Q := (decodeNum .fp64 (roundQ .fp64 ⟨.rne, false, false⟩ x false).1).q.norm

/-- `B_k(x_a)` over the nodes `xs` of degree `n` (R182); a Chebyshev value is itself a node value. -/
def nodeValue (b : Basis) (n : Nat) (xs : List Q) (a k : Nat) : Q :=
  if n = 0 then Q.one
  else if b = 0 then (basisValues b (xs.getD a Q.zero) k).getD k Q.zero
  else
    let i := k * (n - a) % (2 * n)
    xs.getD (n - (if n < i then 2 * n - i else i)) Q.zero

/-- Entry (k, a) of the inverse of the matrix of `B_k(x_a)`: quadrature weight times value over norm (R182). -/
def fitValue (b : Basis) (n : Nat) (xs : List Q) (k a : Nat) : Q :=
  if n = 0 then Q.one
  else if b = 0 then
    let l := (basisValues b (xs.getD a Q.zero) n).getD n Q.zero
    let w := (Q.frac 2 (n * (n + 1))).div (l.mul l)
    let g := if k = n then Q.frac 2 n else Q.frac 2 (2 * k + 1)
    (w.mul (nodeValue b n xs a k)).div g
  else
    let c := fun i => if i = 0 || i = n then 2 else 1
    (Q.frac 2 (n * c k * c a)).mul (nodeValue b n xs a k)

def nodes (b : Basis) (n : Nat) : List Q := (List.range (n + 1)).map (nodeAt b n)

/-- `V_N` and `F_N` in FP64 (R182). -/
def matrixV (b : Basis) (n : Nat) : List (List Q) :=
  let xs := nodes b n
  (List.range (n + 1)).map fun a => (List.range (n + 1)).map fun k => toFp64 (nodeValue b n xs a k)
def matrixF (b : Basis) (n : Nat) : List (List Q) :=
  let xs := nodes b n
  (List.range (n + 1)).map fun k => (List.range (n + 1)).map fun a => toFp64 (fitValue b n xs k a)

/-- Apply a matrix to the modes of each dimension (R182). -/
def applyMatrix (m : List (List Q)) (dim : Nat) (g : Modes2) : Modes2 :=
  let f := fun (c : Modes) => m.map fun r => contract (fun i => c.getD i Q.zero) r
  let g := along 0 f g
  if dim = 2 then along 1 f g else g

/-! ## Results (R168) -/

/-- Codes of a result, with its flags. -/
abbrev PolyOut := List (List Elem) × FlagSet

/-- Results below degree `res`, each from its mode on its own (R168). -/
def coefficientWise (dim res : Nat) (f : Nat → Nat → Elem × FlagSet) : PolyOut :=
  let g := (List.range (if dim = 2 then res + 1 else 1)).map fun k => (List.range (res + 1)).map fun j => f k j
  (g.map fun r => r.map Prod.fst, g.foldl (fun x r => r.foldl (fun x e => x ||| e.2) x) fNone)

/-- Results settled as a whole (R168): a NaN input makes all NaN and raises nothing, an infinite one the canonical NaN and
invalid; else each exact value is rounded once, an exact zero being +0. Among several NaN coefficients of one operand the first in
slot order gives the payload, and every mode up to the degree counts as read, also where the formula does not use it
(DESIGN CHOICE, log 47). -/
def wholeElement (env : Env) (dim res : Nat) (inputs : List Elem) (g : Unit → Modes2) : PolyOut :=
  let ns := inputs.map (decodeNum .fp32)
  if ns.any Num.isNaN then coefficientWise dim res fun _ _ => ((settleNaN .fp32 env ns).1, fNone)
  else if ns.any Num.isInf then coefficientWise dim res fun _ _ => (canonNaN .fp32, fInvalid)
  else
    let m := g ()
    coefficientWise dim res fun k j => roundQ .fp32 env (modeOf Q.zero m k j) false

def exactOf (e : Elem) : Q := (decodeNum .fp32 e).q
def exactModes (g : List (List Elem)) : Modes2 := g.map fun r => r.map exactOf

/-- A copied coefficient (R168, R177). -/
def copyCoef (env : Env) (e : Elem) : Elem × FlagSet := convert .fp32 .fp32 env e

/-- Half the exact sum of two coefficients, rounded once (R179). -/
def halfSum (env : Env) (x y : Elem) : Elem × FlagSet :=
  let a := decodeNum .fp32 x
  let b := decodeNum .fp32 y
  if a.isNaN || b.isNaN then settleNaN .fp32 env [a, b]
  else if a.isInf || b.isInf then addNum .fp32 env a b
  else
    roundQ .fp32 env ((a.q.add b.q).mul (.frac 1 2))
      (if a.isZero && b.isZero then zeroSumSign env.rm [a.neg, b.neg] else env.rm == .rdn)

/-! ## Forms (R164-R167) -/

/-- A polynomial form restarts whole, so a start index with the mark of R147 makes it illegal (R370). -/
def State.polyWord (s : State) (i : Instr) (k : State) : State := if s.me.markedVelem then s.trap tIllegal (wordOf i) else k

/-- The checks of R166 in order; the number of the first that fails is the trap's value. -/
def State.polyChecks (s : State) (named : List PReg) (c2 c3 c4 : Bool) (k : State) : State :=
  if !named.all fun r => descOk (s.me.dget r) then s.trap tPoly 1
  else if !c2 then s.trap tPoly 2
  else if !c3 then s.trap tPoly 3
  else if !c4 then s.trap tPoly 4
  else k

/-- Sources and destination of one dimension and basis (check 2 of R166). -/
def Hart.sameKind (h : Hart) (ps : List PReg) : Bool :=
  match ps with
  | [] => true
  | p :: r => r.all fun q => dDim (h.dget q) == dDim (h.dget p) && dBasis (h.dget q) == dBasis (h.dget p)

/-- A form that writes Pd (R165-R167): `full` is the degree of the untruncated result, `f` gives the codes of element `i` up to
a degree. Where an entry does not say how it truncates (`PDIFF`, `PTRACE` in 2D, `PCONV`), the modes above the limit are dropped,
after the conversion in `PCONV` (DESIGN CHOICE, log 47). -/
def State.polyForm (s : State) (pd : PReg) (srcs : List PReg) (c2 c4 : Bool) (mk : MReg) (full : Nat) (alias_ : Bool)
    (f : Nat → Nat → PolyOut) : State :=
  let h := s.me
  let d := h.dget pd
  let n := dCount d
  s.polyChecks (pd :: srcs) c2 (srcs.all fun r => n ≤ dCount (h.dget r)) c4 (
    let act := (List.range n).filter fun i => (h.mget mk).getLsbD i
    let res := min full (dLim d)
    let rs := act.map fun i => (i, f i res)
    let reg := rs.foldl (fun x r => polyPut x d r.1 r.2.1) (h.pget pd)
    let d := dSet d 4 4 (if act.length = n then res else max res (dDeg d))
    let d := if dLim d < full && !act.isEmpty then d ||| (if alias_ then 0x2000000 else 0x1000000) else d
    s.setMe (((h.pput pd reg).dput pd d).raise (rs.foldl (fun x r => x ||| r.2.2) fNone)).next)

/-- A form that writes elements of a vector register below `n` (R165). -/
def State.polyVector (s : State) (vd : VReg) (mk : MReg) (n : Nat) (f : Nat → Elem × FlagSet) : State :=
  let h := s.me
  let rs := ((List.range n).filter fun i => i < 64 && (h.mget mk).getLsbD i).map fun i => (i, f i)
  let g := rs.foldl (fun g r => g.setElem vd.toNat 32 r.1 r.2.1) h
  s.setMe (g.raise (rs.foldl (fun x r => x ||| r.2.2) fNone)).next

/-- The single value of a whole-element result. -/
def oneValue (o : PolyOut) : Elem × FlagSet := (modeOf 0 o.1 0 0, o.2)

/-- Element `i` of a source (R162). -/
def Hart.polySrc (h : Hart) (r : PReg) (i : Nat) : List (List Elem) := polyElem (h.pget r) (h.dget r) i

/-- `PSETD` (R163). -/
def execPsetd (dd : PReg) (a : SReg) (s : State) : Host.Outcome State Fault Refusal :=
  let h := s.me
  let x := h.sget a
  .next (s.polyWord (.psetd dd a) (
    if !descOk x || x &&& ~~~dFields ≠ 0 then s.trap tPoly x
    else s.setMe (h.next.dput dd ((x &&& ~~~dSticky) ||| (x &&& h.dget dd &&& dSticky)))))

/-- `PSETVL` (R164). -/
def execPsetvl (g : SReg) (dd : PReg) (s : State) : Host.Outcome State Fault Refusal :=
  let h := s.me
  let d := h.dget dd
  .next (s.polyWord (.psetvl g dd) (
    if !(dDim d == 1 || dDim d == 2) || dLim d < dDeg d then s.trap tPoly d
    else
      let n := min (h.sget g).toNat (polyCap (dDim d) (dLim d))
      s.setMe ((h.next.dput dd (dSet d 16 7 n)).sput g (BitVec.ofNat 64 n))))

/-! ### Load and store (R184, R185) -/

/-- Coefficients of an element at a degree (R162). -/
def ncoef (dim deg : Nat) : Nat := (deg + 1) ^ dim

/-- Stop a polynomial memory form: it starts again whole, and the translations of its pages are kept (R185, R387). -/
def State.polyStop (s : State) (i : Instr) (k : Kind) (ps : List Word) (a : Word) (st : Stop) : State :=
  match st with
  | .none => s
  | .fail f => s.failScalar k f a
  | .wait y => s.parkHold y i ps
  | .mark => s.trap tWatermark a
  | .soft x => s.machineCheck false 0 x
  | .overrun _ => s

/-- The 4-byte pieces of a payload of `n` coefficients (R185). -/
def coefPieces (a : Word) (n : Nat) : List (Word × Nat) := (List.range n).map fun i => (a + BitVec.ofNat 64 (4 * i), 4)

/-- Touch `n` bytes at `a`, every locket in ascending id (R345), then read the pieces of them. -/
def State.readTouched (s : State) (a : Word) (n : Nat) (ps : List (Word × Nat)) : RangeOut :=
  match s.touch a.toNat n with
  | .wait s y => .stop s a (.wait y)
  | .go s => s.readPieces .scalar [] ps

/-- `PLD` (R184, R185). -/
def execPld (pd : PReg) (b : SReg) (s : State) : Host.Outcome State Fault Refusal :=
  let a := s.me.sget b
  let i := Instr.pld pd b
  .next (s.polyWord (.pld pd b) (
    if a.toNat % 16 ≠ 0 then s.trap tDataAlign a
    else
      match s.translateAll .load (pagesOf a 16) with
      | .fail s f va => s.failScalar .load f va
      | .wait s y => s.park y i
      | .ok s =>
      match s.readTouched a 16 [(a, 8), (a + 8, 8)] with
      | .stop s va st => s.polyStop i .load (pagesOf a 16) va st
      | .ok t hd =>
        let d := BitVec.ofNat 64 (leNat (hd.take 8))
        if !descOk d || d &&& ~~~dFields ≠ 0 || leNat (hd.drop 8) ≠ 0 then t.trap tPoly a
        else
          let k := ncoef (dDim d) (dDeg d)
          let ps := pagesOf a (16 + 4 * dCount d * k)
          match t.translateAll .load ps with
          | .fail t f va => t.failScalar .load f va
          | .wait t y => t.park y i
          | .ok t =>
            match t.readTouched (a + 16) (4 * dCount d * k) (coefPieces (a + 16) (dCount d * k)) with
            | .stop t va st => t.polyStop i .load ps va st
            | .ok t bs =>
              let coef := fun (e k' j : Nat) =>
                BitVec.ofNat 64 (leNat ((bs.drop (4 * (e * k + j + (dDeg d + 1) * k'))).take 4))
              let reg := (List.range (dCount d)).foldl (fun x e =>
                polyPut x d e ((List.range (dRows d)).map fun k' => (List.range (dDeg d + 1)).map fun j => coef e k' j)) 0
              t.upd fun h => ((h.dput pd d).pput pd reg).next))

/-- `PST` (R184, R185). -/
def execPst (pa : PReg) (b : SReg) (s : State) : Host.Outcome State Fault Refusal :=
  let h := s.me
  let a := h.sget b
  let i := Instr.pst pa b
  let d := h.dget pa
  let els := (List.range (dCount d)).flatMap fun e => (h.polySrc pa e).flatMap id
  let pieces := [(a, leBytes 8 d.toNat), (a + 8, leBytes 8 0)] ++
    els.zipIdx.map fun x => (a + BitVec.ofNat 64 (16 + 4 * x.2), leBytes 4 x.1.toNat)
  let ps := pagesOf a (16 + 4 * els.length)
  .next (s.polyWord (.pst pa b) (
    if a.toNat % 16 ≠ 0 then s.trap tDataAlign a
    else
      match s.translateAll .write ps with
      | .fail s f va => s.failScalar .write f va
      | .wait s y => s.park y i
      | .ok s =>
        match s.touch a.toNat (16 + 4 * els.length) with
        | .wait s y => s.parkHold y i ps
        | .go s =>
          let (t, out, st) := s.admitPieces [] pieces
          match st with
          | some (va, st) => t.polyStop i .write ps va st
          | none => (t.flush .scalar out).upd Hart.next))

/-! ### Sums and scaling (R170) -/

/-- `PADD` and `PSUB`. -/
def State.polySum (s : State) (op : Arith) (pd pa pb : PReg) (mk : MReg) : State :=
  let h := s.me
  let env := modeEnv h.fmode
  s.polyForm pd [pa, pb] (h.sameKind [pd, pa, pb]) true mk (max (dDeg (h.dget pa)) (dDeg (h.dget pb))) false fun i res =>
    let x := h.polySrc pa i
    let y := h.polySrc pb i
    coefficientWise (dDim (h.dget pd)) res fun k j => fpArith op .fp32 env (modeOf 0 x k j) (modeOf 0 y k j)

/-- `PADD` (R170). -/
def execPadd (pd pa pb : PReg) (mk : MReg) (s : State) : Host.Outcome State Fault Refusal := .next (s.polyWord (.padd pd pa pb mk) (s.polySum .add pd pa pb mk))
/-- `PSUB` (R170). -/
def execPsub (pd pa pb : PReg) (mk : MReg) (s : State) : Host.Outcome State Fault Refusal := .next (s.polyWord (.psub pd pa pb mk) (s.polySum .sub pd pa pb mk))

/-- `PSCAL` (R170). -/
def execPscal (pd pa : PReg) (vs : VReg) (mk : MReg) (s : State) : Host.Outcome State Fault Refusal :=
  let h := s.me
  let env := modeEnv h.fmode
  .next (s.polyWord (.pscal pd pa vs mk) (s.polyForm pd [pa] (h.sameKind [pd, pa]) true mk (dDeg (h.dget pa)) false fun i res =>
    let x := h.polySrc pa i
    coefficientWise (dDim (h.dget pd)) res fun k j => fpArith .mul .fp32 env (modeOf 0 x k j) (h.elem vs.toNat 32 i)))

/-! ### Products (R171, R172) -/

/-- A product, `g` making the result's expansion of the exact one. -/
def State.polyProduct (s : State) (pd pa pb : PReg) (mk : MReg) (alias_ : Bool) (g : Basis → Nat → Modes2 → Modes2) : State :=
  let h := s.me
  let env := modeEnv h.fmode
  let b := dBasis (h.dget pd)
  let dim := dDim (h.dget pd)
  s.polyForm pd [pa, pb] (h.sameKind [pd, pa, pb]) true mk (dDeg (h.dget pa) + dDeg (h.dget pb)) alias_ fun i res =>
    let x := h.polySrc pa i
    let y := h.polySrc pb i
    wholeElement env dim res (x.flatten ++ y.flatten) fun _ => g b dim (exactProduct b (exactModes x) (exactModes y))

/-- `PMUL` (R171). -/
def execPmul (pd pa pb : PReg) (mk : MReg) (s : State) : Host.Outcome State Fault Refusal :=
  .next (s.polyWord (.pmul pd pa pb mk) (s.polyProduct pd pa pb mk false fun _ _ m => m))

/-- `PMULC` (R172): with a limit of 0 it is `PMUL`. -/
def execPmulc (pd pa pb : PReg) (mk : MReg) (s : State) : Host.Outcome State Fault Refusal :=
  let n := dLim (s.me.dget pd)
  .next (s.polyWord (.pmulc pd pa pb mk) (if n = 0 then s.polyProduct pd pa pb mk false fun _ _ m => m
    else s.polyProduct pd pa pb mk true fun b dim m => collocate b n dim m))

/-! ### Whole-element forms of one source -/

/-- A form of one source whose elements are settled whole. -/
def State.polyWhole (s : State) (pd pa : PReg) (c2 c4 : Bool) (mk : MReg) (full : Nat) (g : Basis → Modes2 → Modes2) : State :=
  let h := s.me
  let env := modeEnv h.fmode
  s.polyForm pd [pa] c2 c4 mk full false fun i res =>
    let x := h.polySrc pa i
    wholeElement env (dDim (h.dget pd)) res x.flatten fun _ => g (dBasis (h.dget pa)) (exactModes x)

/-- `PDIFF` (R174). -/
def execPdiff (pd pa : PReg) (dir : BitVec 1) (mk : MReg) (s : State) : Host.Outcome State Fault Refusal :=
  let h := s.me
  let d := h.dget pa
  .next (s.polyWord (.pdiff pd pa dir mk) (s.polyWhole pd pa (h.sameKind [pd, pa]) (dDim d = 2 || dir = 0) mk (if dDim d = 2 then dDeg d else dDeg d - 1)
    fun b m => along dir.toNat (modesDiff b) m))

/-- `PINT` (R175). -/
def execPint (pd pa : PReg) (dir : BitVec 1) (mk : MReg) (s : State) : Host.Outcome State Fault Refusal :=
  let h := s.me
  let d := h.dget pa
  .next (s.polyWord (.pint pd pa dir mk) (s.polyWhole pd pa (h.sameKind [pd, pa]) (dDim d = 2 || dir = 0) mk (dDeg d + 1)
    fun b m => along dir.toNat (modesMap (antiderivative b)) m))

/-- `PFIT` (R182). -/
def execPfit (pd pa : PReg) (mk : MReg) (s : State) : Host.Outcome State Fault Refusal :=
  let h := s.me
  let d := h.dget pa
  .next (s.polyWord (.pfit pd pa mk) (s.polyWhole pd pa (h.sameKind [pd, pa]) true mk (dDeg d) fun b m => applyMatrix (matrixF b (dDeg d)) (dDim d) m))

/-- `PNODE` (R182). -/
def execPnode (pd pa : PReg) (mk : MReg) (s : State) : Host.Outcome State Fault Refusal :=
  let h := s.me
  let d := h.dget pa
  .next (s.polyWord (.pnode pd pa mk) (s.polyWhole pd pa (h.sameKind [pd, pa]) true mk (dDeg d) fun b m => applyMatrix (matrixV b (dDeg d)) (dDim d) m))

/-! ### Copies: projection, lift, faces, basis change -/

/-- A form that copies the modes of one source up to `full`. -/
def State.polyCopy (s : State) (pd pa : PReg) (c2 c4 : Bool) (mk : MReg) (full : Nat) : State :=
  let h := s.me
  let env := modeEnv h.fmode
  s.polyForm pd [pa] c2 c4 mk full false fun i res =>
    let x := h.polySrc pa i
    coefficientWise (dDim (h.dget pd)) res fun k j => copyCoef env (modeOf 0 x k j)

/-- `PPROJ` (R177). -/
def execPproj (pd pa : PReg) (deg : BitVec 4) (mk : MReg) (s : State) : Host.Outcome State Fault Refusal :=
  let h := s.me
  .next (s.polyWord (.pproj pd pa deg mk) (s.polyCopy pd pa (h.sameKind [pd, pa]) (deg.toNat ≤ dLim (h.dget pd)) mk (min deg.toNat (dDeg (h.dget pa)))))

/-- `PLIFT` (R177). -/
def execPlift (pd pa : PReg) (deg : BitVec 4) (mk : MReg) (s : State) : Host.Outcome State Fault Refusal :=
  let h := s.me
  .next (s.polyWord (.plift pd pa deg mk) (s.polyCopy pd pa (h.sameKind [pd, pa]) (deg.toNat ≤ dLim (h.dget pd) && dDeg (h.dget pa) ≤ deg.toNat) mk deg.toNat))

/-- `PCONV` (R183). -/
def execPconv (pd pa : PReg) (basis : BitVec 1) (mk : MReg) (s : State) : Host.Outcome State Fault Refusal :=
  let h := s.me
  let d := h.dget pa
  let c2 := dDim (h.dget pd) == dDim d && dBasis (h.dget pd) == basis
  .next (s.polyWord (.pconv pd pa basis mk) (if dBasis d = basis then s.polyCopy pd pa c2 true mk (dDeg d)
    else s.polyWhole pd pa c2 true mk (dDeg d) fun b m =>
      let t := basisIn b basis (dDeg d)
      let f := modesMap fun k => t.getD k []
      if dDim d = 2 then along 1 f (along 0 f m) else along 0 f m))

/-- The three face forms: `g i` combines two modes of element `i` (R179). -/
def State.polyFace (s : State) (pd pa pb : PReg) (mk : MReg) (g : Nat → Elem → Elem → Elem × FlagSet) : State :=
  let h := s.me
  s.polyForm pd [pa, pb] (h.sameKind [pd, pa, pb]) true mk (max (dDeg (h.dget pa)) (dDeg (h.dget pb))) false fun i res =>
    let x := h.polySrc pa i
    let y := h.polySrc pb i
    coefficientWise (dDim (h.dget pd)) res fun k j => g i (modeOf 0 x k j) (modeOf 0 y k j)

/-- `PFACE_AVG` (R179). -/
def execPfaceAvg (pd pa pb : PReg) (mk : MReg) (s : State) : Host.Outcome State Fault Refusal :=
  .next (s.polyWord (.pfaceAvg pd pa pb mk) (s.polyFace pd pa pb mk fun _ x y => halfSum (modeEnv s.me.fmode) x y))

/-- `PFACE_JUMP` (R179). -/
def execPfaceJump (pd pa pb : PReg) (mk : MReg) (s : State) : Host.Outcome State Fault Refusal :=
  .next (s.polyWord (.pfaceJump pd pa pb mk) (s.polyFace pd pa pb mk fun _ x y => fpArith .sub .fp32 (modeEnv s.me.fmode) x y))

/-- `PFACE_UP` (R179): where u is NaN the payload is that of the first NaN of pl, pr and vU (R47, R168). -/
def execPfaceUp (pd pa pb : PReg) (vu : VReg) (mk : MReg) (s : State) : Host.Outcome State Fault Refusal :=
  let h := s.me
  let env := modeEnv h.fmode
  .next (s.polyWord (.pfaceUp pd pa pb vu mk) (s.polyFace pd pa pb mk fun i x y =>
    let u := decodeNum .fp32 (h.elem vu.toNat 32 i)
    if u.isNaN then settleNaN .fp32 env [decodeNum .fp32 x, decodeNum .fp32 y, u]
    else if u.isZero then halfSum env x y
    else if u.neg then copyCoef env y
    else copyCoef env x))

/-! ### Values (R176, R178, R180, R181) -/

/-- `PINTD` (R176). -/
def execPintd (vd : VReg) (pa : PReg) (mk : MReg) (s : State) : Host.Outcome State Fault Refusal :=
  let h := s.me
  let d := h.dget pa
  .next (s.polyWord (.pintd vd pa mk) (s.polyChecks [pa] true true true (s.polyVector vd mk (dCount d) fun i =>
    let x := h.polySrc pa i
    let w := basisIntegral (dBasis d)
    oneValue (wholeElement (modeEnv h.fmode) 1 0 x.flatten fun _ =>
      let r := (exactModes x).map (contract w)
      [[if dDim d = 2 then contract w r else r.getD 0 Q.zero]]))))

/-- `PTRACE` (R178). -/
def execPtrace (pd : PReg) (vd : VReg) (pa : PReg) (face : BitVec 2) (mk : MReg) (s : State) : Host.Outcome State Fault Refusal :=
  let h := s.me
  let d := h.dget pa
  let plus := face.getLsbD 0
  .next (s.polyWord (.ptrace pd vd pa face mk) (
    if dDim d = 2 then
      let c2 := dDim (h.dget pd) == 1 && dBasis (h.dget pd) == dBasis d
      s.polyWhole pd pa c2 (vd = 0) mk (dDeg d) fun _ m =>
        [((if face.getLsbD 1 then swap2 m (width2 m) else m)).map (contract (faceSign plus))]
    else
      s.polyChecks [pa] true true (!face.getLsbD 1 && pd = 0) (s.polyVector vd mk (dCount d) fun i =>
        let x := h.polySrc pa i
        oneValue (wholeElement (modeEnv h.fmode) 1 0 x.flatten fun _ =>
          [[contract (faceSign plus) ((exactModes x).getD 0 [])]]))))

/-- The value of element `e` at the point that element `i` of vd, and in 2D of vd + 1, holds (R180). -/
def Hart.polyValue (h : Hart) (vd : VReg) (pa : PReg) (e i : Nat) : Elem × FlagSet :=
  let d := h.dget pa
  let b := dBasis d
  let x := h.polySrc pa e
  let pt := h.elem vd.toNat 32 i :: if dDim d = 2 then [h.elem (vd.toNat + 1) 32 i] else []
  oneValue (wholeElement (modeEnv h.fmode) 1 0 (x.flatten ++ pt) fun _ =>
    let r := (exactModes x).map fun c => valueAt b c (exactOf (pt.getD 0 0))
    [[if dDim d = 2 then valueAt b r (exactOf (pt.getD 1 0)) else r.getD 0 Q.zero]])

/-- `PEVAL` (R180). -/
def execPeval (vd : VReg) (pa : PReg) (mk : MReg) (s : State) : Host.Outcome State Fault Refusal :=
  let h := s.me
  let d := h.dget pa
  .next (s.polyWord (.peval vd pa mk) (s.polyChecks [pa] true true (dDim d = 1 || vd.toNat % 2 = 0)
    (s.polyVector vd mk (dCount d) fun i => h.polyValue vd pa i i)))

/-- FP32 at span 1, which the point forms require (R181). -/
def Hart.pointFormat (h : Hart) : Bool := cfgFmt h.vcfg = .fp32 && cfgSpan h.vcfg = 1

/-- `PEVALB` (R181). -/
def execPevalb (vd : VReg) (pa : PReg) (mk : MReg) (s : State) : Host.Outcome State Fault Refusal :=
  let h := s.me
  let d := h.dget pa
  .next (s.polyWord (.pevalb vd pa mk) (s.polyChecks [pa] true (1 ≤ dCount d) (dDim d = 1 || vd.toNat % 2 = 0) (
    if !h.pointFormat then s.trap tFormat (wordOf (.pevalb vd pa mk))
    else s.polyVector vd mk (h.vlgrant.toNat % 512) fun i => h.polyValue vd pa 0 i)))

/-- `PEVALX` (R181): an index at or above the count gives +0, without a flag, also at a NaN or infinite point (DESIGN CHOICE,
log 47). -/
def execPevalx (vd : VReg) (pa : PReg) (mk : MReg) (s : State) : Host.Outcome State Fault Refusal :=
  let h := s.me
  let d := h.dget pa
  .next (s.polyWord (.pevalx vd pa mk) (s.polyChecks [pa] true true (dDim d = 1) (
    if !h.pointFormat then s.trap tFormat (wordOf (.pevalx vd pa mk))
    else s.polyVector vd mk (h.vlgrant.toNat % 512) fun i =>
      let e := (h.elem (vd.toNat + 1) 32 i).toNat
      if dCount d ≤ e then (0, fNone) else h.polyValue vd pa e i)))

end Sys2Proof.Machine
end

