-- ==== Sys2Proof/Machine/Array.lean ====
section
/-! DEFINITION. The array of a core: its owner, and the scan image (R200, R217-R219). -/

namespace Sys2Proof.Machine

/-! ## CRC-32 (R218, R363): IEEE 802.3, reflected -/

def crcBits (n : Nat) (c : BitVec 32) : BitVec 32 :=
  match n with
  | 0 => c
  | n + 1 => crcBits n (if c.getLsbD 0 then (c >>> 1) ^^^ 0xEDB88320#32 else c >>> 1)

def crc32 (bs : List Byte) : BitVec 32 :=
  ~~~(bs.foldl (fun c b => crcBits 8 (c ^^^ b.zeroExtend 32)) (BitVec.allOnes 32))

/-- The `n` bytes of a wide register from byte `o` up. -/
def bytesOf {w : Nat} (x : BitVec w) (o n : Nat) : List Byte := (List.range n).map fun i => x.extractLsb' (8 * (o + i)) 8

def zeroBytes (n : Nat) : List Byte := List.replicate n 0

/-! ## Reading and writing a save area (R362, R364) -/

/-- The bytes that the H path of a quarter shows at a virtual range of a context; none where a page does not translate. -/
def State.areaBytes (s : State) (q c asid : Nat) (va : Word) (n : Nat) : Option (List Byte) :=
  ((List.range ((n + 63) / 64)).foldl (fun acc u =>
    match acc with
    | none => none
    | some bs =>
      match s.translate q c asid .load (va + BitVec.ofNat 64 (64 * u)) with
      | .ok _ loc => some (((List.range 64).map fun i => s.viewByte q .h (loc + i)) :: bs)
      | _ => none) (some [])).map fun bs => bs.reverse.flatten

/-- A virtual range of a context lies, in some page, in host memory while the host link is down (R7). -/
def State.areaAway (s : State) (q c asid : Nat) (va : Word) (n : Nat) : Bool :=
  s.hostLink.isNone && (pagesOf va n).any fun a =>
    match s.translate q c asid .load a with
    | .wait _ w => w == .hostLink
    | _ => false

/-- The first unit of a virtual range of a context whose walk or whose bytes hold an uncorrectable soft error (R372, R384). -/
def State.areaSoft (s : State) (q c asid : Nat) (va : Word) (n : Nat) : Option Word :=
  (if s.soft.isEmpty then [] else (List.range ((n + 63) / 64)).map fun u => va + BitVec.ofNat 64 (64 * u)).find? fun a =>
    match s.translate q c asid .load a with
    | .ok _ loc => s.corrupt loc 64
    | .fail f => f = Fail.corrupt
    | .wait _ _ => false

/-! ## The scan image (R218) -/

/-- The bytes of the step in flight, of an image: flags, zd, step, rows, K bytes and format; column progress; row window (R218). -/
def Flight.head (f : Flight) : List Byte × List Byte :=
  ([f.zd.zeroExtend 8], leBytes 2 f.step ++ [BitVec.ofNat 8 f.rows, BitVec.ofNat 8 f.klen, f.afmt.zeroExtend 8])
def Flight.columns (f : Flight) : List Byte :=
  (List.range 64).flatMap fun c =>
    let p := f.progress.getD c (0, 0)
    [BitVec.ofNat 8 p.1, BitVec.ofNat 8 p.2, 0, 0]

/-- The image of an array (R218); `twin` says that a twin half was discarded. Where no step is in flight, the fields of one are zero, and
the partial-sum tile holds the values `z` of Z0 (log 13). -/
def scanImage (c : Core) (z : BitVec 65536) (twin : Bool) : List Byte :=
  let flag := fun (live : Nat) => BitVec.ofNat 8 (live + if twin then 2 else 0)
  let codes : List Byte := [c.front.fmt.zeroExtend 8, c.back.fmt.zeroExtend 8]
  let (head, cols, window, sums) := match c.flight with
    | some f => ([flag 1] ++ codes ++ f.head.1 ++ f.head.2, f.columns, bytesOf f.window 0 2048, bytesOf f.sums 0 8192)
    | none => ([flag 0] ++ codes ++ zeroBytes 6, zeroBytes 256, zeroBytes 2048, bytesOf z 0 8192)
  let head := leBytes 4 2 ++ head ++ zeroBytes 239
  let rest := bytesOf c.front.scale 0 256 ++ bytesOf c.back.scale 0 256 ++ cols ++ bytesOf c.front.bytes 0 4096
    ++ bytesOf c.back.bytes 0 4096 ++ window ++ zeroBytes 5120 ++ sums
  head ++ leBytes 4 (crc32 (head ++ rest)).toNat ++ rest

/-- Version, CRC-32 and zero fields of an image hold (R219). -/
def scanOk (bs : List Byte) : Bool :=
  let at_ := fun i => bs.getD i 0
  leNat (bs.take 4) == 2 && at_ 4 &&& 0xFC#8 == 0 && at_ 5 &&& 0xF0#8 == 0 && at_ 6 &&& 0xF0#8 == 0 && at_ 7 &&& 0xFC#8 == 0
    && ((bs.drop 0x0D).take (0xFC - 0x0D)).all (· == 0)
    && leNat ((bs.drop 0xFC).take 4) == (crc32 (bs.take 0xFC ++ bs.drop 0x100)).toNat
    && (List.range 64).all (fun c => at_ (0x300 + 4 * c + 2) == 0 && at_ (0x300 + 4 * c + 3) == 0)
    && ((bs.drop 0x2C00).take 0x1400).all (· == 0)

/-- The two latches of an image. -/
def scanFront (bs : List Byte) : Latch :=
  ⟨BitVec.ofNat 32768 (leNat ((bs.drop 0x400).take 4096)), ((bs.getD 5 0).truncate 4), BitVec.ofNat 2048 (leNat ((bs.drop 0x100).take 256))⟩
def scanBack (bs : List Byte) : Latch :=
  ⟨BitVec.ofNat 32768 (leNat ((bs.drop 0x1400).take 4096)), ((bs.getD 6 0).truncate 4), BitVec.ofNat 2048 (leNat ((bs.drop 0x200).take 256))⟩

/-- The step in flight of an image, of the descriptor under which it was frozen; none where no freeze of the hart's left one (log 13). -/
def scanFlight (desc : Option (BitVec 256)) (bs : List Byte) : Option Flight :=
  let n := fun i k => leNat ((bs.drop i).take k)
  match if n 4 1 % 2 = 1 then desc else none with
  | none => none
  | some d =>
    some ⟨d, BitVec.ofNat 2 (n 7 1), n 8 2, n 0x0A 1, n 0x0B 1, BitVec.ofNat 4 (n 0x0C 1),
      (List.range 64).map fun c => (n (0x300 + 4 * c) 1, n (0x301 + 4 * c) 1), BitVec.ofNat 16384 (n 0x2400 2048), BitVec.ofNat 65536 (n 0x4000 8192)⟩

/-! ## The owner (R200) -/

/-- A slot gives the array up. -/
def State.freeArray (s : State) (k : Nat) : State :=
  let c := s.core (slotCore k)
  if c.owner = some k then s.setCore (slotCore k) { c with owner := none, flight := none } else s

/-- The work of a step that a freeze left in flight is discarded (R213). -/
def State.dropFlight (s : State) (k : Nat) : State :=
  let c := s.core k
  if c.flight.isNone then s else s.setCore k { c with flight := none }

/-- What the executing hart finds when it needs the array. -/
inductive Arr where
  | go (s : State)
  /-- Another hart owns it, or a recess or the host link holds the scan-in. -/
  | wait (s : State) (why : Why)
  /-- The scan image fails its checks: the latches stand as at an acquisition (R219). -/
  | bad (s : State)
  /-- An uncorrectable soft error as the image is read: the array stays free and the image as it is, for the next attempt (R219, R372). -/
  | soft (s : State) (va : Word)

/-- Take the array for the executing hart: an acquisition resets both latches, and scans in a saved image (R200, R219). R219 names no outcome
for a hart whose save area, by then, is unregistered or does not translate: it takes the trap of an image that fails its checks (DESIGN
CHOICE, log 13). -/
def State.takeArray (s : State) : Arr :=
  let k := slotCore s.cur
  let c := s.core k
  match c.owner with
  | some o => if o = s.cur then .go s else .wait s .array
  | none =>
    let t := s.setCore k { c with owner := some s.cur, front := Latch.reset, back := Latch.reset, flight := none }
    if !s.me.image then .go t
    else if s.stalled then .wait s .recess
    else
      let u := t.upd fun h => { h with image := false }
      match s.me.saveArea with
      | none => .bad u
      | some a =>
        if s.areaAway (slotQuarter s.cur) k s.me.asid (a + 0x25000) 0x6000 then .wait s .hostLink else
        match s.areaSoft (slotQuarter s.cur) k s.me.asid (a + 0x25000) 0x6000, s.areaBytes (slotQuarter s.cur) k s.me.asid (a + 0x25000) 0x6000 with
        | some va, _ => .soft s va
        | none, none => .bad u
        | none, some bs =>
          if scanOk bs then .go (u.setCore k { c with owner := some s.cur, front := scanFront bs, back := scanBack bs, flight := scanFlight s.me.inFlight bs })
          else .bad u

end Sys2Proof.Machine
end

