-- ==== Sys2Proof/Machine/Tile.lean ====
section
/-! DEFINITION. The tile table and the handles: states, allocation, readers, `TALLOC`, `TFREE`, `TSTATE`, `HGIVE`, `HTAKE` (R192-R197,
R294-R296). -/

namespace Sys2Proof.Machine

/-- A matrix or tile form that is no `TGEMM` begins with `velem` 0 in task mode (R222, R370). -/
def State.fresh (s : State) : State := s.upd fun h => if h.system then h else { h with velem := 0 }

def Core.tile (c : Core) (n : Nat) : Tile := c.tiles.get Tile.free n

/-- Put an entry; a free entry is not listed. -/
def State.setTile (s : State) (k n : Nat) (t : Tile) : State :=
  let c := s.core k
  s.setCore k { c with tiles := if t.state = .free then c.tiles.drop n else c.tiles.put n t }

/-- The number of an entry over all cores. -/
def tileId (k n : Nat) : Nat := 64 * k + n

/-! ## Readers and writers in flight (R193) -/

/-- The tile a hart in paired-wait reads: that of its `TGEMM` step (R213, R215). -/
def pairTile (k : Nat) (h : Hart) : Option Nat :=
  match if h.run = .running then h.wait else none with
  | some ⟨.pair _ (some d), _, _, _⟩ => if h.velem = 0 then none else some (tileId (slotCore k) (d.toNat % 64))
  | _ => none

def State.tileRead (s : State) (id : Nat) : Bool :=
  (s.clusters.any fun c => c.2.cmds.any fun m => m.reads.contains id) || s.harts.any fun e => pairTile e.1 e.2 == some id

def State.tileWritten (s : State) (id : Nat) : Bool := s.clusters.any fun c => c.2.cmds.any fun m => m.writes.contains id

/-- The tile of a core that a slab offset lies in. -/
def Core.tileAt (c : Core) (o : Nat) : Option (Nat × Tile) :=
  c.tiles.find? fun e => e.2.base ≤ o && o < e.2.base + e.2.size

/-- The contents of a tile that becomes empty are undefined (R192): free bytes in each of the 20 paths of the views, written before or not
(log 14). -/
def State.scramble (s : State) (k base size : Nat) : State :=
  let (s, n) := s.draw
  let cells := (List.range size).map fun i => (slabLoc k (base + i), Config.tileByte n (base + i))
  { s with views := (List.range 20).foldl (fun vs i =>
      let v := vs.get View.reset i
      vs.put i { v with bytes := v.bytes.putAll cells }) s.views }

/-- An entry becomes empty (R193): no tag (R247). -/
def State.emptyTile (s : State) (k n : Nat) : State :=
  let t := (s.core k).tile n
  (s.scramble k t.base t.size).setTile k n { t with state := .empty, tag := none, giver := none, full := false }

/-- Move a draining entry on when its last reader or command has ended (R193). -/
def State.settleTile (s : State) (k n : Nat) : State :=
  let t := (s.core k).tile n
  if t.state = .draining then
    match t.group with
    | some _ => if s.tileRead (tileId k n) then s else s.emptyTile k n
    | none => if s.tileRead (tileId k n) || s.tileWritten (tileId k n) then s else s.setTile k n Tile.free
  else s

/-- The hart that was `h` in a slot has left its paired-wait, and reads its tile no more (R193). -/
def State.settlePair (s : State) (k : Nat) (h : Hart) : State :=
  match pairTile k h with
  | some id => s.settleTile (slotCore k) (id % 64)
  | none => s

/-- The last writer of a filling tile has ended: the tile is ready and its bytes are published (R193, R195). -/
def State.fillTile (s : State) (k n : Nat) (c : Clock) : State :=
  let t := (s.core k).tile n
  if t.state = .filling then
    s.setTile k n { t with state := if s.tileWritten (tileId k n) then .filling else .ready, full := true, clock := t.clock.max c }
  else s.settleTile k n

/-- A group ends: each entry it holds on a core becomes free, or draining without a group (R193). -/
def State.releaseTiles (s : State) (g : Nat) : State :=
  s.cores.foldl (fun s c => c.2.tiles.foldl (fun s e =>
    if e.2.group = some g then
      if e.2.state = .empty || (e.2.state = .ready && !s.tileRead (tileId c.1 e.1)) then s.setTile c.1 e.1 Tile.free
      else (s.setTile c.1 e.1 { e.2 with state := .draining, group := none, taker := none }).settleTile c.1 e.1
    else s) s) s

/-- The slot no longer takes any handle (R296). -/
def State.dropHandles (s : State) (k : Nat) : State :=
  let c := s.core (slotCore k)
  s.setCore (slotCore k) { c with tiles := c.tiles.map fun e => (e.1, if e.2.taker = some k then { e.2 with taker := none } else e.2) }

/-! ## Allocation (R196, R288) -/

/-- A run of slab bytes is free. -/
def Core.freeRun (c : Core) (base size : Nat) : Bool :=
  base + size ≤ Config.slabSize && c.tiles.all fun e => !(base < e.2.base + e.2.size && e.2.base < base + size)

/-- The lowest base of a free run (R196). -/
def Core.lowest (c : Core) (size : Nat) : Option Nat :=
  ((List.range 256).map (4096 * ·)).find? fun b => c.freeRun b size

/-- Allocate the `.tile` entries of a group, entry `j` at TB`j`, each empty, with holder 0 and not taken (R288); none where the core
cannot take them. -/
def Core.allocTiles (c : Core) (g : Nat) (sizes : List (Nat × Nat)) : Option Core :=
  match sizes with
  | [] => some c
  | (n, size) :: r =>
    if size = 0 then c.allocTiles g r
    else if (c.tile n).state ≠ .free then none
    else
      match c.lowest size with
      | none => none
      | some b => Core.allocTiles { c with tiles := c.tiles.put n ⟨.empty, b, size, some g, 0, none, none, none, false, Clock.zero⟩ } g r

/-! ## Instructions -/

/-- The group number of the executing hart. -/
def State.myGroupNo (s : State) : Option Nat := s.me.member.map (·.group)
/-- The stage in `grpcoord` (R86). -/
def Hart.stage (h : Hart) : Nat := (h.grpcoord.extractLsb' 8 3).toNat

/-- The entry belongs to another group, or is draining and belongs to none (R192). R192 names `TALLOC`, `TFREE`, `HGIVE` and `HTAKE` for the
latter; a `TGEMM` that names one traps at once as well, where R193 has a draining tile waited for: this tile becomes free and never ready
(DESIGN CHOICE, log 14). -/
def State.foreignTile (s : State) (t : Tile) : Bool :=
  t.state != .free && (match t.group with | some g => some g != s.myGroupNo | none => t.state == .draining)

/-- `TALLOC` (R193, R196, R294). -/
def execTalloc (d : SReg) (tb : BitVec 6) (sz : SReg) (s : State) : Host.Outcome State Fault Refusal :=
  let s := s.fresh
  let h := s.me
  let x := h.sget sz
  let n := tb.toNat
  let k := slotCore s.cur
  .next (
    if x.toNat % 4096 ≠ 0 || x.toNat < 4096 || 65536 < x.toNat then s.trap tMatrix x
    else if (s.myCore.tile n).state ≠ .free then s.trap tTile (BitVec.ofNat 64 n)
    else
      match s.myCore.lowest x.toNat with
      | none => s.upd fun h => (h.sput d (BitVec.allOnes 64)).next
      | some b =>
        ((s.setTile k n ⟨.empty, b, x.toNat, s.myGroupNo, h.stage, some s.cur, none, none, false, Clock.zero⟩).emptyTile k n).upd
          fun h => (h.sput d (BitVec.ofNat 64 b)).next)

/-- `TFREE` (R193, R196). -/
def execTfree (tb : BitVec 6) (s : State) : Host.Outcome State Fault Refusal :=
  let s := s.fresh
  let n := tb.toNat
  let k := slotCore s.cur
  let t := s.myCore.tile n
  .next (
    if s.foreignTile t then s.trap tTile (BitVec.ofNat 64 n)
    else
      match t.state with
      | .free | .filling => s.trap tTile (BitVec.ofNat 64 n)
      | .empty => (s.setTile k n Tile.free).upd Hart.next
      | .ready => ((s.setTile k n { t with state := .draining }).settleTile k n).upd Hart.next
      | .draining => s.upd Hart.next)

def TileState.code : TileState → Nat
  | free => 0 | empty => 1 | filling => 2 | ready => 3 | draining => 4

/-- The map of R197. -/
def Tile.word (t : Tile) : Word :=
  if t.state = .free then 0
  else BitVec.ofNat 64 (t.state.code + t.size / 4096 * 256 + t.base / 4096 * 65536 + (if t.group.isSome then t.holder % 8 * 2 ^ 24 else 0))

/-- `TSTATE` (R195, R196, R197): reading ready, the hart sees the bytes the writers wrote. -/
def execTstate (d : SReg) (tb : BitVec 6) (s : State) : Host.Outcome State Fault Refusal :=
  let s := s.fresh
  let t := s.myCore.tile tb.toNat
  .next (
    if t.state ≠ .free && t.group.isSome && t.group ≠ s.myGroupNo then s.trap tTile (BitVec.ofNat 64 tb.toNat)
    else s.upd fun h => ((if t.state = .ready then h.seesAll t.clock else h).sput d t.word).next)

/-- `HGIVE` (R295): a release at core scope. -/
def execHgive (tb : BitVec 6) (g : SReg) (s : State) : Host.Outcome State Fault Refusal :=
  let h := s.me
  let n := tb.toNat
  let k := slotCore s.cur
  let t := s.myCore.tile n
  let stages := match s.myGroup? with | some (_, g) => g.stages | none => 0
  .next (
    if s.foreignTile t || t.state ≠ .ready || t.taker ≠ some s.cur || stages ≤ (h.sget g).toNat then s.trap tTile (BitVec.ofNat 64 n)
    else
      match s.fenceTo h.clock [slotQuarter s.cur] with
      | none => s.park .recess (.hgive tb g)
      | some s =>
        ((s.edge false true).setTile k n { t with holder := (h.sget g).toNat, taker := none, clock := t.clock.max h.clock }).upd Hart.next)

/-- `HTAKE` (R295): an acquire at core scope where it takes the tile. -/
def execHtake (d : SReg) (tb : BitVec 6) (s : State) : Host.Outcome State Fault Refusal :=
  let n := tb.toNat
  let k := slotCore s.cur
  let t := s.myCore.tile n
  .next (
    if s.foreignTile t then s.trap tTile (BitVec.ofNat 64 n)
    else if t.state = .ready && t.holder = s.me.stage && t.taker = none then
      ((s.setTile k n { t with taker := some s.cur }).edge true false).upd fun h => ((h.seesAll t.clock).sput d 0).next
    else s.upd fun h => (h.sput d 1).next)

end Sys2Proof.Machine
end

