-- ==== Sys2Proof/Machine/Matrix.lean ====
section
/-! DEFINITION. The matrix array: weight loads, products and their summation, the accumulator tiles, the macro sequencer and twin
operation (R198-R222). -/

namespace Sys2Proof.Machine

/-! ## Classes and formats (R204) -/

inductive MCls where
  | half | mx8 | int8 | mx4 | l6
  deriving DecidableEq, Repr

/-- The class of a format code; none for a code outside the table of R204, which are also the formats R202 accepts. -/
def mcls (c : BitVec 4) : Option MCls :=
  match Fmt.ofCode c with
  | some .fp16 | some .bf16 => some .half
  | some .e4m3 | some .e5m2 => some .mx8
  | some .int8 | some .uint8 => some .int8
  | some .e2m1 => some .mx4
  | some .l6 => some .l6
  | _ => none

/-- Bits of an element in a row, elements of a row, elements of a block. -/
def MCls.bits : MCls → Nat
  | half => 16 | mx8 => 8 | int8 => 8 | mx4 => 4 | l6 => 6
def MCls.count : MCls → Nat
  | half => 32 | mx8 => 64 | int8 => 64 | mx4 => 128 | l6 => 80
def MCls.block : MCls → Nat
  | half => 32 | mx8 => 32 | int8 => 64 | mx4 => 32 | l6 => 40

/-- Weight scales a `WLOAD` reads for each column (R202). -/
def weightScales (wfmt : BitVec 4) : Nat :=
  match mcls wfmt with
  | some .mx8 => 2
  | some .mx4 => 4
  | _ => 0

/-! ## The exact sum of one row and one column (R39, R48, R205, R206) -/

/-- What one block of a row and a column contributes. -/
structure Blk where
  nan : Bool
  invalid : Bool
  /-- Signs of the infinite products. -/
  infs : List Bool
  sum : Q
  /-- Every product is a present -0. -/
  allNeg : Bool
  deriving DecidableEq, Repr

/-- An exact +0. -/
def Blk.zero : Blk := ⟨false, false, [], ⟨0, 1⟩, false⟩

/-- Element `k` of a row or column in memory form. -/
def rowElem (cl : MCls) (x : BitVec 512) (k : Nat) : Elem := BitVec.ofNat 64 (fieldOf x (cl.bits * k) cl.bits)

/-- The product of two present elements that are not NaN and not infinite; L6 by its log codes (R39). -/
def cellProduct (cl : MCls) (fa fw : Fmt) (a w : Elem) : Q :=
  match cl with
  | .l6 =>
    if l6IsZero a || l6IsZero w then ⟨0, 1⟩
    else
      let v := l6Val (l6Log a + l6Log w)
      if l6Sign a != l6Sign w then v.neg else v
  | _ => (decodeNum fa a).q.mul (decodeNum fw w).q

/-- One block: `klen` bounds the present elements, the scales multiply the exact sum (R48, R205). -/
def dotBlock (cl : MCls) (fa fw : Fmt) (a w : BitVec 512) (klen b : Nat) (scales : List Num) : Blk :=
  let ks := ((List.range cl.block).map (cl.block * b + ·)).filter fun k => cl.bits * k + cl.bits ≤ 8 * klen
  if ks.isEmpty then Blk.zero
  else if scales.any Num.isNaN then { Blk.zero with nan := true }
  else if scales.any Num.isZero then Blk.zero
  else
    let ps := ks.map fun k => (rowElem cl a k, rowElem cl w k)
    let ns := ps.map fun p => (decodeNum fa p.1, decodeNum fw p.2)
    if ns.any fun n => n.1.isNaN || n.2.isNaN then { Blk.zero with nan := true }
    else
      let infs := ns.filter fun n => n.1.isInf || n.2.isInf
      if infs.any fun n => n.1.isZero || n.2.isZero then { Blk.zero with invalid := true }
      else if !infs.isEmpty then { Blk.zero with infs := infs.map fun n => n.1.neg != n.2.neg }
      else
        let x := Q.sum (ps.map fun p => cellProduct cl fa fw p.1 p.2)
        let neg := cl != .l6 && ns.all fun n => (n.1.isZero || n.2.isZero) && n.1.neg != n.2.neg
        { Blk.zero with sum := scales.foldl (fun x y => x.mul y.q) x, allNeg := neg }

/-- One half of a product: its active rows, its formats, its K length and its latch. -/
structure MHalf where
  rows : List (Nat × BitVec 512)
  afmt : BitVec 4
  klen : Nat
  latch : Latch

/-- Column `c` of a latch, and its scale of block `b`. -/
def Latch.col (l : Latch) (c : Nat) : BitVec 512 := l.bytes.extractLsb' (512 * c) 512
def Latch.code (l : Latch) (c b : Nat) : Elem := (l.scale.extractLsb' (8 * (4 * c + b)) 8).zeroExtend 64

/-- The scales of block `b` (R204): the latched E8M0 code, or the S12 codes of the row and the column. -/
def blockScales (cl : MCls) (a w : BitVec 512) (l : Latch) (c b : Nat) : List Num :=
  match cl with
  | .mx8 | .mx4 => [decodeNum .e8m0 (l.code c b)]
  | .l6 => [decodeNum .s12 (BitVec.ofNat 64 (fieldOf a (480 + 12 * b) 12)), decodeNum .s12 (BitVec.ofNat 64 (fieldOf w (480 + 12 * b) 12))]
  | _ => []

/-- The blocks of row `r` and column `c` of a half; an inactive row is a zero half (R214). -/
def MHalf.blocks (m : MHalf) (r c : Nat) : List Blk :=
  match m.rows.find? fun p => p.1 == r with
  | none => [Blk.zero]
  | some (_, a) =>
    let cl := (mcls m.afmt).getD .half
    let fa := (Fmt.ofCode m.afmt).getD .fp16
    let fw := (Fmt.ofCode m.latch.fmt).getD .fp16
    let w := m.latch.col c
    (List.range (cl.count / cl.block)).map fun b => dotBlock cl fa fw a w m.klen b (blockScales cl a w m.latch c b)

/-- Rounding of the array: RNE, `fmode.sat`, canonical NaNs (R206). -/
def arrayEnv (sat : Bool) : Env := ⟨.rne, sat, false⟩

/-- The canonical FP32 NaN with flags. -/
def nanWord (f : FlagSet) : BitVec 32 × FlagSet := (0x7FC00000#32, f)

/-- An INT32 sum that wraps, or clamps under `sat` with overflow (R206, R209). -/
def accInt (sat : Bool) (z : BitVec 32) (x : Int) : BitVec 32 × FlagSet :=
  let y := z.toInt + x
  if sat && (y < -(2 ^ 31 : Nat) || (2 ^ 31 : Nat) ≤ y) then
    (if y < 0 then 0x80000000#32 else 0x7FFFFFFF#32, fOverflow)
  else (BitVec.ofInt 32 y, fNone)

/-- The exact sum of all blocks, added into a word of the accumulator tile (R206, R207). -/
def accumulate (int sat : Bool) (z : BitVec 32) (bs : List Blk) : BitVec 32 × FlagSet :=
  let x := Q.sum (bs.map (·.sum))
  if int then accInt sat z (x.num / x.den)
  else
    let e := arrayEnv sat
    let zc : Elem := z.zeroExtend 64
    let infs := bs.flatMap (·.infs)
    if isNaNElem .fp32 zc || bs.any (·.nan) then nanWord fNone
    else if bs.any (·.invalid) || (infs.any id && infs.any not) then nanWord fInvalid
    else
      let t := match infs with
        | n :: _ => infFromInput .fp32 e n
        | [] => roundQ .fp32 e x (bs.all (·.allNeg))
      let r := fpArith .add .fp32 e zc t.1
      (r.1.truncate 32, t.2 ||| r.2)

/-- Word (r, c) of a tile lies at bit 32 (64 r + c) (R201). -/
def zWord (z : BitVec 65536) (r c : Nat) : BitVec 32 := z.extractLsb' (2048 * r + 32 * c) 32

/-- Row `r` of a tile. -/
def zRow (z : BitVec 65536) (r : Nat) : VWord := z.extractLsb' (2048 * r) 2048
def setZRow (z : BitVec 65536) (r : Nat) (x : VWord) : BitVec 65536 := setField z (2048 * r) 2048 x.toNat

/-- A row of 64 words. -/
def packRow (ws : List (BitVec 32)) : VWord := BitVec.ofNat 2048 (ws.reverse.foldl (fun n w => n * 2 ^ 32 + w.toNat) 0)

/-- Replace the rows of a list by what `f` gives for each word, gathering the flags (R206). -/
def updateRows (z : BitVec 65536) (rows : List Nat) (f : Nat → Nat → BitVec 32 → BitVec 32 × FlagSet) : BitVec 65536 × FlagSet :=
  rows.foldl (fun acc r =>
    let ws := (List.range 64).map fun c => f r c (zWord z r c)
    (setZRow acc.1 r (packRow (ws.map (·.1))), ws.foldl (fun x w => x ||| w.2) acc.2)) (z, fNone)

/-- Two formats of the integer class. -/
def intClass (afmt : BitVec 4) : Bool := mcls afmt == some .int8

/-- The tile after a product, of one half or of an owner's and a supplier's half (R206, R214). -/
def mmaTile (sat : Bool) (z : BitVec 65536) (m : MHalf) (other : Option MHalf) : BitVec 65536 × FlagSet :=
  updateRows z (m.rows.map (·.1)) fun r c w =>
    accumulate (intClass m.afmt) sat w (m.blocks r c ++ (match other with | some o => o.blocks r c | none => []))

def Hart.zget (h : Hart) (z : ZReg) : BitVec 65536 := h.z.getD z.toNat 0
def Hart.zput (h : Hart) (z : ZReg) (x : BitVec 65536) : Hart := { h with z := h.z.setIfInBounds z.toNat x }

/-- Accumulate into Zd of a hart, accruing flags (R52). -/
def Hart.mma (h : Hart) (zd : ZReg) (m : MHalf) (other : Option MHalf) : Hart :=
  let r := mmaTile (fmodeSat h.fmode) (h.zget zd) m other
  (h.zput zd r.1).raise r.2

/-! ## The rows of an `MMA` (R205) -/

/-- The granted length of the scalar stream. -/
def Hart.grant (h : Hart) : Nat := h.vlgrant.toNat % 512
def Hart.mmaRows (h : Hart) : Nat := min 32 (h.grant * (cfgFmt h.vcfg).width / 512)

/-- The half that a hart's `MMA` gives: its active rows at `vs`. -/
def Hart.mmaHalf (h : Hart) (vs : VReg) (mk : MReg) (afmt : BitVec 4) (front : Latch) : MHalf :=
  ⟨((List.range h.mmaRows).filter fun r => (h.mget mk).getLsbD r).map fun r => (r, (h.vget (vs.toNat + r / 4)).extractLsb' (512 * (r % 4)) 512),
    afmt, cfgKlen h.vcfg, front⟩

/-! ## Weight loads (R198, R199, R202) -/

/-- Codes of the scales a column has: `nb` read, the others 2^0. -/
def scaleBytes (nb : Nat) (get : Nat → Nat → Byte) : BitVec 2048 :=
  BitVec.ofNat 2048 (leNat ((List.range 64).flatMap fun c => (List.range 4).map fun b => if b < nb then get c b else 0x7F#8))

/-- The latch that the panel at `off`, with scales at `soff`, gives: each byte as the X path of the core's quarter shows it. -/
def State.panel (s : State) (k off soff : Nat) (wfmt : BitVec 4) : Latch :=
  let q := k / 64
  let get := fun o => s.viewByte q .x (weightLoc k o)
  ⟨BitVec.ofNat 32768 (leNat ((List.range 4096).map fun i => get (off + i))), wfmt,
    scaleBytes (weightScales wfmt) fun c b => get (soff / 4096 * 4096 + 64 * c + soff % 64 + b)⟩

/-- The panel, or a scale that its columns read, holds an uncorrectable soft error. -/
def State.panelCorrupt (s : State) (k off soff : Nat) (wfmt : BitVec 4) : Bool :=
  let nb := weightScales wfmt
  s.corrupt (weightLoc k off) 4096 ||
    (nb != 0 && (List.range 64).any fun c => s.corrupt (weightLoc k (soff / 4096 * 4096 + 64 * c + soff % 64)) nb)

/-- Load a panel into the back latch, and exchange the latches. -/
def State.loadBack (s : State) (k off soff : Nat) (wfmt : BitVec 4) : State :=
  s.setCore k { s.core k with back := s.panel k off soff wfmt }
def State.swapLatches (s : State) (k : Nat) : State :=
  let c := s.core k
  s.setCore k { c with front := c.back, back := c.front }

/-- A machine-check of an X-path read, at a step, whose work is discarded (R213, R372, R375). -/
def State.xCheck (s : State) (step : Nat) : State := (s.dropFlight (slotCore s.cur)).machineCheck false step (codeAddr 5)

/-- `WLOAD` (R202, R221). -/
def execWload (o sc : SReg) (afmt : BitVec 4) (s : State) : Host.Outcome State Fault Refusal :=
  let s := s.fresh
  let i := Instr.wload o sc afmt
  let off := (s.me.sget o).toNat
  let soff := (s.me.sget sc).toNat
  let nb := weightScales afmt
  let k := slotCore s.cur
  .next (
    if (mcls afmt).isNone then s.trap tFormat (wordOf i)
    else if off % 4096 ≠ 0 || 2 ^ 25 ≤ off then s.trap tMatrix (s.me.sget o)
    else if nb ≠ 0 && (2 ^ 25 ≤ soff || soff / 64 % 64 ≠ 0 || soff % 64 % nb ≠ 0) then s.trap tMatrix (s.me.sget sc)
    else
      match s.takeArray with
      | .wait s w => s.park w i
      | .bad s => s.trap tScan 0
      | .soft s va => s.machineCheck false 0 va
      | .go s =>
        if s.stalled then s.park .recess i
        else if s.panelCorrupt k off soff afmt then s.xCheck 0
        else ((s.dropFlight k).loadBack k off soff afmt).upd Hart.next)

/-- `WSWAP` (R203). -/
def execWswap (s : State) : Host.Outcome State Fault Refusal :=
  let s := s.fresh
  .next (
    match s.takeArray with
    | .wait s w => s.park w .wswap
    | .bad s => s.trap tScan 0
    | .soft s va => s.machineCheck false 0 va
    | .go s => ((s.dropFlight (slotCore s.cur)).swapLatches (slotCore s.cur)).upd Hart.next)

/-! ## Twin pairing (R214, R215) -/

/-- The paired slot: the same place in the other cluster of the pair. -/
def twinOf (k : Nat) : Nat := if slotCluster k % 2 = 0 then k + 32 else k - 32
def isOwner (k : Nat) : Bool := slotCluster k % 2 == 0

/-- Fields of a `TGEMM` descriptor (R211). -/
structure Desc where
  tile : Nat
  rows : Nat
  panels : Nat
  aOff : Nat
  aStride : Nat
  klast : Nat
  wfmt : BitVec 4
  wBase : Nat
  sBase : Nat
  /-- Every reserved field is zero. -/
  clean : Bool
  deriving DecidableEq, Repr

def Desc.of (d : BitVec 256) : Desc :=
  let f := fun lo n => fieldOf d lo n
  ⟨f 0 6, f 8 8, f 16 16, f 32 32, f 64 32, f 96 8, d.extractLsb' 104 4, f 128 64, f 192 64,
    f 6 2 == 0 && f 108 4 == 0 && f 112 16 == 0⟩

/-- The attempt of a hart parked in paired-wait (R215); one that is frozen makes none (R100). -/
def Hart.attempt? (h : Hart) : Option Attempt :=
  match if h.run = .running then h.wait else none with
  | some ⟨.pair _ none, .mma _ _ _ afmt _, _, _⟩ => some ⟨false, 0, 0, intClass afmt⟩
  | some ⟨.pair _ (some d), .tgemm _ _ afmt _, _, _⟩ => some ⟨true, (Desc.of d).panels, h.velem.toNat, intClass afmt⟩
  | _ => none

/-- How two attempts meet (R215). -/
inductive Meet where
  | pair | mismatch | classes
  deriving DecidableEq, Repr

/-- The classes are judged before the rest (R222). -/
def Attempt.meet (a b : Attempt) : Meet :=
  if a.integer != b.integer then .classes
  else if a.tgemm != b.tgemm || (a.tgemm && (a.panels != b.panels || a.step != b.step)) then .mismatch
  else .pair

/-- A pairing trap of the executing hart; `mis` sets bit 63 of `laddr` (R368). -/
def State.pairTrap (s : State) (mis : Bool) : State :=
  (s.trap tPairing (BitVec.ofNat 64 (twinOf s.cur + if mis then 2 ^ 63 else 0))).settlePair s.cur s.me

/-- The twin partner's slot holds a hart of the same group. -/
def State.partnerHere (s : State) (k : Nat) : Bool :=
  let p := s.hart (twinOf k)
  p.run != .free && p.member.isSome && p.member.map (·.group) == (s.hart k).member.map (·.group)

/-- The trap that ends an attempt in a meeting, for the executing hart. -/
def State.meetTrap (s : State) (m : Meet) : State :=
  match m with
  | .classes => (s.trap tFormat (match s.me.wait with | some w => wordOf w.instr | none => 0)).settlePair s.cur s.me
  | .mismatch => s.pairTrap true
  | .pair => s.pairTrap false

/-- The cycles after the first arrival within which the other side must arrive (R215). -/
def pairBound : Nat := 65536

/-- The instant at which the attempt of a hart in paired-wait began. -/
def Hart.pairSince (h : Hart) : Nat :=
  match h.wait with
  | some ⟨.pair n _, _, _, _⟩ => n
  | _ => 0

/-- An arrival that ends the attempt at once (R215): `t` is the executing hart parked in paired-wait. A partner that a wound is about to take
from its paired-wait (R347) meets nothing. -/
def State.arriveStop (s t : State) (a : Attempt) : Option State :=
  let p := twinOf s.cur
  if !s.partnerHere s.cur then some (t.pairTrap false)
  else
    match s.me.missed with
    | some b => some ((t.upd fun h => { h with missed := none }).meetTrap (a.meet b))
    | none =>
      match if (s.hart p).woundReady then none else (s.hart p).attempt? with
      | none => none
      | some b =>
        if (s.hart p).pairSince + pairBound ≤ s.beacon then some ((t.asSlot p (·.pairTrap false)).meetTrap (a.meet b))
        else
          match a.meet b with
          | .pair => none
          | m => some ((t.asSlot p (·.meetTrap m)).meetTrap m)

/-- Arrive at a twin attempt (R215): the hart parks in paired-wait, or the attempt ends at once. -/
def State.arrive (s : State) (i : Instr) (a : Attempt) (d : Option (BitVec 256)) : State :=
  let t := s.park (.pair s.beacon d) i
  (s.arriveStop t a).getD t

/-- The scan image is bad: its trap, unless a twin attempt ends at once by a trap that comes before it (R222). -/
def State.scanTrap (s : State) (i : Instr) (a : Option Attempt) (d : Option (BitVec 256)) : State :=
  match a with
  | some a => (s.arriveStop (s.park (.pair s.beacon d) i) a).getD (s.trap tScan 0)
  | none => s.trap tScan 0

/-! ## `TGEMM` (R211-R213) -/

/-- Scale offset of panel `j` (R212). -/
def Desc.scaleAt (d : Desc) (j : Nat) : Nat :=
  let nb := weightScales d.wfmt
  d.sBase + 4096 * (j * nb / 64) + j * nb % 64

/-- A limit of R211 is broken. -/
def Desc.bad (d : Desc) : Bool :=
  let nb := weightScales d.wfmt
  !d.clean || d.rows = 0 || 32 < d.rows || d.panels = 0 || 8191 < d.panels || d.aOff % 64 != 0 || d.aStride % 64 != 0
    || d.klast = 0 || 64 < d.klast || d.wBase % 4096 != 0 || 2 ^ 25 < d.wBase + 4096 * d.panels
    || (nb != 0 && (d.sBase % 4096 != 0 || 2 ^ 25 < d.sBase + 4096 * ((d.panels - 1) * nb / 64 + 1)))

/-- The half of step `s`, panel `s - 1`: rows of the tile as the X path shows them. -/
def State.tgemmHalf (s : State) (k : Nat) (d : Desc) (afmt : BitVec 4) (step : Nat) : MHalf :=
  let c := s.core k
  let base := (c.tile d.tile).base + d.aOff + (step - 1) * d.aStride
  ⟨(List.range d.rows).map fun r => (r, BitVec.ofNat 512 (s.viewNat (k / 64) .x (slabLoc k (base + 64 * r)) 64)),
    afmt, if step = d.panels then d.klast else 64, c.front⟩

/-- A soft error in what step `s` reads: the next panel and its scales, the rows. -/
def State.stepCorrupt (s : State) (k : Nat) (d : Desc) (step : Nat) : Bool :=
  (if step < d.panels then s.panelCorrupt k (d.wBase + 4096 * step) (d.scaleAt step) d.wfmt else false) ||
  (step != 0 && s.corrupt (slabLoc k ((s.core k).tile d.tile).base + d.aOff + (step - 1) * d.aStride) (64 * d.rows))

/-- The weight load at the start of a step (R212): panel 0 for step 0, else the panel after the step's own. -/
def State.stepLoad (s : State) (k : Nat) (d : Desc) (step : Nat) : State :=
  if step < d.panels then s.loadBack k (d.wBase + 4096 * step) (d.scaleAt step) d.wfmt else s

/-- The end of a step of the hart in a slot: the swap, and the next step or the next word. -/
def State.stepEnd (s : State) (desc : BitVec 256) (i : Instr) (step : Nat) : State :=
  let d := Desc.of desc
  if step < d.panels then
    ((s.swapLatches (slotCore s.cur)).upd fun h => { h with velem := BitVec.ofNat 64 (step + 1) }).park (.tile desc) i
  else s.upd fun h => { h with velem := 0 }.next

/-! ### A step that a freeze left in flight (R217-R219) -/

/-- The step is the one that the array holds in flight, its descriptor unchanged (R213). -/
def Flight.is (f : Flight) (zd : ZReg) (desc : BitVec 256) (afmt : BitVec 4) (step : Nat) : Bool :=
  f.desc == desc && f.zd == zd && f.step == step && f.afmt == afmt

/-- The half with the rows that the window holds. -/
def Flight.half (f : Flight) (m : MHalf) : MHalf :=
  { m with rows := m.rows.map fun r => (r.1, f.window.extractLsb' (512 * r.1) 512) }

/-- The words that the columns had formed already stand; the others are formed now (R219). -/
def Flight.complete (f : Flight) (z : BitVec 65536) : BitVec 65536 :=
  (updateRows z (List.range 32) fun r c w => (if r < (f.progress.getD c (0, 0)).1 then zWord f.sums r c else w, fNone)).1

/-- The freeze of a step whose work has begun: how far each column has come is the device's (R216, R217, log 13). None has come further
than the rows, nor more than 4 behind the fastest, which has slip 0; the window holds every row of the step (R218), and zero in the rows
above them, for which R218 gives no bytes (DESIGN CHOICE, log 13). -/
def State.freezeStep (s : State) (k : Nat) (zd : ZReg) (desc : BitVec 256) (afmt : BitVec 4) (step : Nat) : State :=
  let d := Desc.of desc
  let (s, n) := s.draw
  let top := Config.freezeRow n 64 % (d.rows + 1)
  let drawn := (List.range 64).map fun c => Config.freezeRow n c % (Nat.min 4 top + 1)
  let least := drawn.foldl Nat.min 4
  let cols := drawn.map fun x => (top - (x - least), x - least)
  let m := s.tgemmHalf k d afmt step
  let z := (s.hart s.cur).zget zd
  let f : Flight := ⟨desc, zd, step, d.rows, m.klen, afmt, cols, BitVec.ofNat 16384 (leNat (m.rows.flatMap fun r => bytesOf r.2 0 64)), 0⟩
  let done := (mmaTile (fmodeSat s.me.fmode) z m none).1
  let f := { f with sums := (updateRows z (List.range 32) fun r c w => (if r < (f.progress.getD c (0, 0)).1 then zWord done r c else w, fNone)).1 }
  if top = 0 then s
  else
    let s := (s.stepLoad k d step).upd fun h => { h with inFlight := some desc }
    s.setCore k { s.core k with flight := some f }

/-- The array of a slot freezes as its owner leaves (R217): a `TGEMM` stands at a step whose tile is ready. In a recess no work of it has
begun (R221). -/
def State.freezeArray (s : State) (k : Nat) : State :=
  let h := s.hart k
  let c := s.core (slotCore k)
  match if s.stalled then none else h.wait with
  | some ⟨.tile desc, .tgemm zd _ afmt 0, _, _⟩ =>
    let d := Desc.of desc
    let step := h.velem.toNat
    if c.owner = some k && step != 0 && (c.tile d.tile).state = .ready && c.flight.isNone && !s.stepCorrupt (slotCore k) d step then
      s.asSlot k fun s => s.freezeStep (slotCore k) zd desc afmt step
    else s
  | _ => s

/-- Attempt the step in `velem` (R212, R213, R221). The `MMA` of a step judges its formats as every `MMA` does (R204). -/
def State.tgemmStep (s : State) (zd : ZReg) (dsc : SReg) (afmt : BitVec 4) (twin : BitVec 1) (desc : BitVec 256) : State :=
  let i := Instr.tgemm zd dsc afmt twin
  let d := Desc.of desc
  let k := slotCore s.cur
  let step := s.me.velem.toNat
  let t := (s.core k).tile d.tile
  if step = 0 then
    if s.stalled then s.park (.tile desc) i
    else if s.stepCorrupt k d 0 then s.xCheck 0
    else ((s.dropFlight k).stepLoad k d 0).stepEnd desc i 0
  else if mcls afmt ≠ mcls (s.core k).front.fmt then s.trap tFormat (wordOf i)
  else if t.state = .free || s.foreignTile t then s.trap tTile (BitVec.ofNat 64 d.tile)
  else if t.state ≠ .ready || s.stalled then s.park (.tile desc) i
  else
    let s := s.upd fun h => h.seesAll t.clock
    if twin = 1 then (s.dropFlight k).arrive i ⟨true, d.panels, step, intClass afmt⟩ (some desc)
    else
      let half := s.tgemmHalf k d afmt step
      match (s.core k).flight.filter (·.is zd desc afmt step) with
      | some f =>
        let s := s.upd fun h => let g := h.mma zd (f.half half) none; g.zput zd (f.complete (g.zget zd))
        (s.dropFlight k).stepEnd desc i step
      | none =>
        if s.stepCorrupt k d step then s.xCheck step
        else (((s.dropFlight k).stepLoad k d step).upd fun h => h.mma zd half none).stepEnd desc i step

/-- The checks of R211 after the descriptor is read, then ownership and the step. -/
def State.tgemmStart (s : State) (zd : ZReg) (dsc : SReg) (afmt : BitVec 4) (twin : BitVec 1) (desc : BitVec 256) : State :=
  let i := Instr.tgemm zd dsc afmt twin
  let d := Desc.of desc
  let t := s.myCore.tile d.tile
  if mcls afmt = none || mcls afmt ≠ mcls d.wfmt then s.trap tFormat (wordOf i)
  else if d.bad || d.panels < s.me.velem.toNat then s.trap tMatrix (s.me.sget dsc)
  else if t.state ≠ .free && t.size < d.aOff + (d.panels - 1) * d.aStride + 64 * d.rows then s.trap tMatrix (s.me.sget dsc)
  else if t.state = .free || s.foreignTile t then s.trap tTile (BitVec.ofNat 64 d.tile)
  else
    match s.takeArray with
    | .wait s w => s.park w i
    | .soft s va => s.machineCheck false s.me.velem.toNat va
    | .bad s =>
      let step := s.me.velem.toNat
      s.scanTrap i (if twin = 1 && step != 0 && t.state = .ready then some ⟨true, d.panels, step, intClass afmt⟩ else none) (some desc)
    | .go s => s.tgemmStep zd dsc afmt twin desc

/-- `TGEMM` (R211-R215): between its steps the hart is parked, and each attempt runs one step. The trap for a marked `velem` (R370) is no
case of R213 or R215, so its `lvelem` is 0 (R222). -/
def execTgemm (zd : ZReg) (dsc : SReg) (afmt : BitVec 4) (twin : BitVec 1) (s : State) : Host.Outcome State Fault Refusal :=
  let i := Instr.tgemm zd dsc afmt twin
  let a := s.me.sget dsc
  .next (
    match s.me.wait with
    | some ⟨.tile desc, _, _, _⟩ => s.tgemmStep zd dsc afmt twin desc
    | some ⟨.pair _ _, _, _, _⟩ => s
    | _ =>
      if s.me.markedVelem then (s.upd fun h => { h with velem := 0 }).trap tIllegal (wordOf i)
      else if a.toNat % 32 ≠ 0 then s.trap tDataAlign a
      else
        match s.access .scalar .load a 32 with
        | .ok s loc =>
          let (s, bs) := s.readBytes .scalar loc 32
          s.tgemmStart zd dsc afmt twin (BitVec.ofNat 256 (leNat bs))
        | .soft x => s.machineCheck false s.me.velem.toNat x
        | .fail f => (s.faultRecord .load f a false s.me.pc s.me.velem.toNat).trap tLoad a
        | r => s.scalarStop i .load a r)

/-! ## `MMA` (R204-R207) -/

/-- `MMA` (R204-R207, R214, R215). -/
def execMma (zd : ZReg) (vs : VReg) (mk : MReg) (afmt : BitVec 4) (twin : BitVec 1) (s : State) : Host.Outcome State Fault Refusal :=
  let s := s.fresh
  let i := Instr.mma zd vs mk afmt twin
  .next (
    match s.me.wait with
    | some ⟨.pair _ _, _, _, _⟩ => s
    | _ =>
      if 32 < vs.toNat + (s.me.mmaRows + 3) / 4 then s.trap tIllegal (wordOf i)
      else if (mcls afmt).isNone then s.trap tFormat (wordOf i)
      else
        match s.takeArray with
        | .wait s w => s.park w i
        | .soft s va => s.machineCheck false 0 va
        | .bad s => s.scanTrap i (if twin = 1 then some ⟨false, 0, 0, intClass afmt⟩ else none) none
        | .go s =>
          let front := s.myCore.front
          if mcls afmt ≠ mcls front.fmt then s.trap tFormat (wordOf i)
          else if twin = 1 then (s.dropFlight (slotCore s.cur)).arrive i ⟨false, 0, 0, intClass afmt⟩ none
          else (s.dropFlight (slotCore s.cur)).upd fun h => (h.mma zd (h.mmaHalf vs mk afmt front) none).next)

/-! ## The combination of two halves (R214, R215) -/

/-- The half of a hart in paired-wait. -/
def State.pairHalf (s : State) (k : Nat) : Option (ZReg × MHalf) :=
  let h := s.hart k
  match if h.run = .running then h.wait else none with
  | some ⟨.pair _ none, .mma zd vs msk afmt _, _, _⟩ => some (zd, h.mmaHalf vs msk afmt (s.core (slotCore k)).front)
  | some ⟨.pair _ (some d), .tgemm zd _ afmt _, _, _⟩ => some (zd, s.tgemmHalf (slotCore k) (Desc.of d) afmt h.velem.toNat)
  | _ => none

/-- What a paired step reads holds a soft error. -/
def State.pairCorrupt (s : State) (k : Nat) : Bool :=
  match (s.hart k).wait with
  | some ⟨.pair _ (some d), _, _, _⟩ => s.stepCorrupt (slotCore k) (Desc.of d) (s.hart k).velem.toNat
  | _ => false

/-- One side completes: the next word for `MMA`, the rest of the step for `TGEMM`. -/
def State.pairEnd (s : State) (k : Nat) : State :=
  match (s.hart k).wait with
  | some ⟨.pair _ (some d), i, _, _⟩ =>
    let step := (s.hart k).velem.toNat
    let s := s.stepLoad (slotCore k) (Desc.of d) step
    let s := s.asSlot k (·.stepEnd d i step)
    s.settleTile (slotCore k) (Desc.of d).tile
  | _ => s.asSlot k (·.upd Hart.next)

/-- The hart that was `h` in a slot is of the group of the twin partner. -/
def State.pairsWith (s : State) (k : Nat) (h : Hart) : Bool := h.member.isSome && h.member.map (·.group) == (s.hart (twinOf k)).member.map (·.group)

/-- The twin partner of a slot stands in paired-wait while that slot, which `h` has left, holds no hart of its group: it takes the pairing trap at
once (R215), unless a wound takes it there first (R347). -/
def State.partnerGone (s : State) (k : Nat) (h : Hart) : State :=
  let p := twinOf k
  match if (s.hart p).run = .running then (s.hart p).wait else none with
  | some ⟨.pair _ _, _, _, _⟩ => if !s.pairsWith k h || s.partnerHere p || (s.hart p).woundReady then s else s.asSlot p (·.pairTrap false)
  | _ => s

/-- The other side of an attempt that one side leaves starts its attempt again with a fresh bound (R215). -/
def State.partnerLeft (s : State) (k : Nat) (h : Hart) : State :=
  let p := twinOf k
  match if (s.hart p).run = .running then (s.hart p).wait else none with
  | some ⟨.pair _ d, i, l, n⟩ =>
    if s.pairsWith k h then s.setHart p { s.hart p with wait := some ⟨.pair s.beacon d, i, l, n⟩ } else s
  | _ => s

/-- The hart that was `h` in a slot has left its paired-wait or the slot (R193, R215): with no hart of the group there any more, its partner takes the
pairing trap. -/
def State.leavePair (s : State) (k : Nat) (h : Hart) : State :=
  match h.wait with
  | some ⟨.pair _ _, _, _, _⟩ => ((s.settlePair k h).partnerLeft k h).partnerGone k h
  | _ => s.partnerGone k h

/-- A machine-check of a paired step: that side leaves the attempt (R213, R215). -/
def State.pairCheck (s : State) (k : Nat) : State :=
  (s.asSlot k fun s => s.xCheck s.me.velem.toNat).leavePair k (s.hart k)

/-- Combine the halves when both sides wait (R214): a tile-reading step waits out a recess (R221). -/
def State.combine (s : State) (k : Nat) : State :=
  let o := if isOwner k then k else twinOf k
  let p := twinOf o
  match s.pairHalf o, s.pairHalf p with
  | some (zd, a), some (_, b) =>
    if s.stalled && (pairTile o (s.hart o)).isSome then s
    else if s.pairCorrupt o then s.pairCheck o
    else if s.pairCorrupt p then s.pairCheck p
    else ((s.setHart o ((s.hart o).mma zd a (some b))).pairEnd o).pairEnd p
  | _, _ => s

/-! ## Outer products (R209) -/

/-- Formats of `MOPA`. -/
def okMopa (c : BitVec 4) : Option Fmt :=
  match Fmt.ofCode c with
  | some .fp16 => some .fp16 | some .bf16 => some .bf16 | some .fp32 => some .fp32
  | some .int8 => some .int8 | some .uint8 => some .uint8 | some .int16 => some .int16
  | _ => none

/-- One word of an outer product: one rounding, or an INT32 sum. -/
def mopaWord (f : Fmt) (sat : Bool) (a b : Elem) (z : BitVec 32) : BitVec 32 × FlagSet :=
  if f.isInt then accInt sat z (intVal f a * intVal f b)
  else
    let x := decodeNum f a
    let y := decodeNum f b
    let c := decodeNum .fp32 (z.zeroExtend 64)
    if x.isNaN || y.isNaN || c.isNaN then nanWord fNone
    else
      let r := fmaNum .fp32 (arrayEnv sat) false x y c
      (r.1.truncate 32, r.2)

/-- `MOPA` (R209). -/
def execMopa (zd : ZReg) (va vb : VReg) (mk : MReg) (afmt : BitVec 4) (s : State) : Host.Outcome State Fault Refusal :=
  let s := s.fresh
  let i := Instr.mopa zd va vb mk afmt
  .next (
    match okMopa afmt with
    | none => s.trap tFormat (wordOf i)
    | some f =>
      match s.takeArray with
      | .wait s w => s.park w i
      | .bad s => s.trap tScan 0
      | .soft s va => s.machineCheck false 0 va
      | .go s =>
        (s.dropFlight (slotCore s.cur)).upd fun h =>
          let rows := (List.range (min 32 h.grant)).filter fun r => (h.mget mk).getLsbD r
          let r := updateRows (h.zget zd) rows fun r c w =>
            mopaWord f (fmodeSat h.fmode) (h.elem va.toNat f.width r) (h.elem vb.toNat f.width c) w
          ((h.zput zd r.1).raise r.2).next)

/-! ## The tiles row by row (R210) -/

/-- `ZCLR` (R210). -/
def execZclr (zd : ZReg) (s : State) : Host.Outcome State Fault Refusal := .next (s.upd fun h => (h.zput zd 0).next)

/-- `ZRD` (R210). -/
def execZrd (vd : VReg) (zs : ZReg) (r : SReg) (s : State) : Host.Outcome State Fault Refusal :=
  let s := s.fresh
  let x := s.me.sget r
  .next (if 32 ≤ x.toNat then s.trap tMatrix x else s.upd fun h => (h.vput vd.toNat (zRow (h.zget zs) x.toNat)).next)

/-- `ZWR` (R210). -/
def execZwr (zd : ZReg) (vs : VReg) (r : SReg) (s : State) : Host.Outcome State Fault Refusal :=
  let s := s.fresh
  let x := s.me.sget r
  .next (if 32 ≤ x.toNat then s.trap tMatrix x
    else s.upd fun h => (h.zput zd (setZRow (h.zget zd) x.toNat (h.vget vs.toNat))).next)

/-- One word of a row converted by `ZCVT`: as INT32 to an integer format, else as FP32; FP32 and INT32 copy (R210). -/
def zConvert (f : Fmt) (env : Env) (w : BitVec 32) : Elem × FlagSet :=
  if f = .fp32 || f = .int32 then (w.zeroExtend 64, fNone)
  else convert (if f.isInt then .int32 else .fp32) f env (w.zeroExtend 64)

/-- `ZCVT` (R210). -/
def execZcvt (vd : VReg) (zs : ZReg) (r : SReg) (afmt : BitVec 4) (s : State) : Host.Outcome State Fault Refusal :=
  let s := s.fresh
  let i := Instr.zcvt vd zs r afmt
  let x := s.me.sget r
  .next (
    match Fmt.ofCode afmt with
    | none => s.trap tFormat (wordOf i)
    | some f =>
      if f.width = 64 && vd = 31 then s.trap tIllegal (wordOf i)
      else if f = .e8m0 || f = .s12 then s.trap tFormat (wordOf i)
      else if 32 ≤ x.toNat then s.trap tMatrix x
      else
        s.upd fun h =>
          let rs := (List.range 64).map fun c => zConvert f (modeEnv h.fmode) (zWord (h.zget zs) x.toNat c)
          let n := rs.reverse.foldl (fun n e => n * 2 ^ f.width + (valueBits f e.1).toNat % 2 ^ f.width) 0
          let g := h.vput vd.toNat (BitVec.ofNat 2048 n)
          let g := if f.width = 64 then g.vput (vd.toNat + 1) (BitVec.ofNat 2048 (n / 2 ^ 2048)) else g
          (g.raise (rs.foldl (fun x e => x ||| e.2) fNone)).next)

end Sys2Proof.Machine
end

