-- ==== Sys2Proof/Machine/Copy.lean ====
section
/-! DEFINITION. The copy engine: acceptance, checks, readers and writers of tiles, the forms, reloads, completion
(R228-R237, R245-R247). -/

namespace Sys2Proof.Machine

/-! ## Commands and tokens (R228, R229) -/

def Cluster.cmd? (c : Cluster) (seq : Nat) : Option Cmd := c.cmds.find? fun x => x.seq == seq

/-- Replace a command by a new form of it. -/
def State.setCmd (s : State) (cl : Nat) (m : Cmd) : State :=
  let c := s.cluster cl
  s.setCluster cl { c with cmds := c.cmds.map fun x => if x.seq = m.seq then m else x }

def tokenOf (cl seq : Nat) : Word := BitVec.ofNat 64 (2 ^ 63 + cl * 2 ^ 32 + seq % 2 ^ 32)

/-- What a token names (R229, R237). -/
inductive Named where
  | invalid
  | running
  | complete (status : Nat) (clock : Clock)

def State.named (s : State) (t : Word) : Named :=
  let x := t.toNat
  let c := s.cluster (x / 2 ^ 32 % 32)
  let back := (c.seq + 2 ^ 32 - 1 - x % 2 ^ 32) % 2 ^ 32
  if x / 2 ^ 63 = 0 || x / 2 ^ 37 % 2 ^ 26 != 0 || c.seq = 0 || 4096 < back || c.seq ≤ back then .invalid
  else
    let n := c.seq - 1 - back
    match c.done.find? fun e => e.1 == n with
    | some (_, st, k) => .complete st k
    | none => if (c.cmd? n).isSome then .running else .invalid

/-! ## Places of an engine's access (R225, R230) -/

/-- Check 5 of R230: no translation can reach some byte of the range. R230 does not say whether a range that passes 2^64 goes on at
address 0: here it leaves the addresses and is unreachable (DESIGN CHOICE, log 15). -/
def unreachable (a : Word) (n : Nat) : Bool :=
  let lo := a.toNat
  let hi := lo + n - 1
  let wEnd := Config.weightWindow + Config.weightSize
  n != 0 &&
  (!(hi < 2 ^ 56 || (2 ^ 64 - 2 ^ 56 ≤ lo && hi < 2 ^ 64)) ||
    (Config.slabWindow ≤ hi && lo < 2 ^ 56 &&
      !((Config.slabWindow ≤ lo && hi < Config.slabWindow + Config.slabSize) || (Config.weightWindow ≤ lo && hi < wEnd))))

/-- Ranges of two lists that share a byte (check 4). -/
def rangesMeet (xs ys : List (Word × Nat)) : Bool :=
  xs.any fun x => ys.any fun y => x.2 != 0 && y.2 != 0 && overlaps x.1.toNat x.2 y.1.toNat y.2

/-- Translate for the engine of a cluster: the windows reach the core the command was accepted with (R225). -/
def State.engineTranslate (s : State) (cl : Nat) (m : Cmd) (k : Kind) (va : Word) : Tr :=
  if Config.weightWindow ≤ va.toNat && va.toNat < Config.weightWindow + Config.weightSize then
    .ok s (weightLoc m.core (va.toNat - Config.weightWindow))
  else s.translate (cl / 8) m.core m.asid k va

/-! ## Tile rules (R193, R236, R247) -/

/-- Readers of a tile other than a command of the engine of a cluster. -/
def State.othersRead (s : State) (cl seq id : Nat) : Bool :=
  (s.clusters.any fun c => c.2.cmds.any fun m => m.reads.contains id && !(c.1 == cl && m.seq == seq))
    || s.harts.any fun e => pairTile e.1 e.2 == some id

/-- How an access finds the tile it touches. -/
inductive Admit where
  | ok (s : State) (m : Cmd)
  | wait
  | error

/-- The tile a location lies in: none outside the slabs and in slab bytes of no tile. -/
def State.tileOfLoc (s : State) (loc : Nat) : Option (Nat × Nat × Tile) :=
  match slabOf loc with
  | none => none
  | some (k, o) => ((s.core k).tileAt o).map fun e => (k, e.1, e.2)

/-- Admit a command as a reader or a writer of the tile at a location (R193, R236): once for each tile. A command that is a writer of the tile already reads it
at once, empty or filling: it waits neither for itself nor for its own reader, a case on which R193 and R236 are silent (DESIGN CHOICE, log 31). The kind
of an `UNPACK` that writes is known by then, and its tag stays (R247). -/
def State.admitTile (s : State) (cl : Nat) (m : Cmd) (write : Bool) (loc : Nat) : Admit :=
  if (slabOf loc).isNone then .ok s m
  else
    match s.tileOfLoc loc with
    | none => .error
    | some (k, n, t) =>
      let id := tileId k n
      if m.writes.contains id || (!write && m.reads.contains id) then .ok s m
      else if t.group.isNone || t.group ≠ m.group then .error
      else if write then
        if t.state = .empty || t.state = .filling || (t.state = .ready && !s.othersRead cl m.seq id) then
          let tag := if m.kind = .unpack && t.tag.isNone then some (cl, m.gen) else t.tag
          .ok (s.setTile k n { t with state := .filling, tag := tag }) { m with writes := m.writes ++ [id] }
        else .wait
      else if t.state = .ready then .ok s { m with reads := m.reads ++ [id] }
      else .wait

/-! ## Plans: what a command moves, block by block -/

/-- One piece of a run: at most the 256-byte block of its destination, the source ranges it is computed from, and how. -/
structure Chunk where
  dst : Word
  len : Nat
  srcs : List (Word × Nat)
  conv : List Byte → List Byte
  /-- Bytes of the piece that a number of leading source bytes gives; whether the piece is the source as it stands. -/
  reach : Nat → Nat
  plain : Bool

/-- Offsets and lengths of the 256-byte blocks of `n` bytes at an address; `fuel` bounds their number. -/
def blockParts (a : Word) (o n : Nat) (fuel : Nat) : List (Nat × Nat) :=
  match fuel with
  | 0 => []
  | f + 1 =>
    if n ≤ o then []
    else
      let l := min (n - o) (256 - (a.toNat + o) % 256)
      (o, l) :: blockParts a (o + l) n f

def blocksIn (a : Word) (n : Nat) : List (Nat × Nat) := blockParts a 0 n (n / 256 + 2)

/-- `CPY` (R231). -/
def cpyPlan (n : Nat) (dst src : Word) : List Chunk :=
  (blocksIn dst n).map fun p => ⟨dst + BitVec.ofNat 64 p.1, p.2, [(src + BitVec.ofNat 64 p.1, p.2)], id, id, true⟩

/-- Bytes of `n` source elements of `CPYW` (R232). -/
def sourceLen (f : Fmt) (n : Nat) : Nat :=
  match f with
  | .e2m1 => (n + 1) / 2
  | .l6 => n / 80 * 64
  | _ => n * f.bytes

/-- Where `c` elements from element `e` lie in the source, and element `i` of them in those bytes (R27, R41, R232). -/
def sourceSpan (f : Fmt) (e c : Nat) : Nat × Nat :=
  match f with
  | .e2m1 => (e / 2, (e + c + 1) / 2 - e / 2)
  | .l6 => (e / 80 * 64, ((e + c - 1) / 80 - e / 80 + 1) * 64)
  | _ => (e * f.bytes, c * f.bytes)

/-- Elements, of `c` from element `e`, that lie whole in the first `n` bytes of their span. -/
def spanReach (f : Fmt) (e c n : Nat) : Nat :=
  min c (
    match f with
    | .e2m1 => 2 * n - e % 2
    | .l6 => n / 64 * 80 + min 80 (n % 64 * 8 / 6) - e % 80
    | _ => n / f.bytes)

def sourceElem (f : Fmt) (bs : List Byte) (e i : Nat) : Elem :=
  match f with
  | .e2m1 =>
    let k := (e % 2 + i) / 2
    let b := (bs.getD k 0).toNat
    BitVec.ofNat 64 (if (e + i) % 2 = 0 then b % 16 else b / 16)
  | .l6 =>
    let k := e % 80 + i
    BitVec.ofNat 64 (leNat ((bs.drop (64 * (k / 80))).take 64) / 2 ^ (6 * (k % 80)) % 64)
  | _ => BitVec.ofNat 64 (leNat ((bs.drop (i * f.bytes)).take f.bytes))

/-- `CPYW` (R232). -/
def cpywPlan (fs fd : Fmt) (n : Nat) (dst src : Word) : List Chunk :=
  (blocksIn dst (n * fd.bytes)).map fun p =>
    let e := p.1 / fd.bytes
    let c := p.2 / fd.bytes
    let sp := sourceSpan fs e c
    ⟨dst + BitVec.ofNat 64 p.1, p.2, [(src + BitVec.ofNat 64 sp.1, sp.2)],
      fun bs => (List.range c).flatMap fun i => leBytes fd.bytes (widen fs fd (valueBits fs (sourceElem fs bs e i))).toNat,
      fun n => spanReach fs e c n * fd.bytes, false⟩

/-! ### Sparse images (R233) -/

structure Image where
  n : Nat
  rows : Nat
  unit : Nat
  kind : Nat
  flags : Nat
  clean : Bool
  idx : List Nat
  deriving DecidableEq, Repr

def Image.of (h : List Byte) : Image :=
  ⟨leNat (h.take 2), leNat ((h.drop 2).take 2), (h.getD 4 0).toNat, (h.getD 5 0).toNat, (h.getD 6 0).toNat,
    ((h.drop 7).take 9).all (· == 0), []⟩

def Image.rb (g : Image) : Nat := 64 * g.unit
/-- Offset of the value block, and the size of a value row. -/
def Image.vb (g : Image) : Nat := 64 * ((16 + 2 * g.n + 63) / 64)
def Image.valueRow (g : Image) : Nat :=
  match g.kind with
  | 0 => g.rb | 1 => g.rb / 2 | 2 => g.rb / 4 | _ => g.rb / 2

/-- Bytes of a row that one byte of a value row gives. -/
def Image.spread (g : Image) : Nat :=
  match g.kind with
  | 0 => 1 | 2 => 4 | _ => 2

/-- Strictly ascending. -/
def ascending (l : List Nat) : Bool :=
  match l with
  | [] => true
  | [_] => true
  | a :: b :: r => a < b && ascending (b :: r)

/-- The limits of R233 on the header, under a row pitch. -/
def Image.headBad (g : Image) (pitch : Word) (pack : Bool) : Bool :=
  let p := pitch.toNat
  2 ^ 32 ≤ p || !g.clean || g.rows < g.n || g.unit = 0 || 64 < g.unit || 3 < g.kind || (pack && g.kind != 0) || 1 < g.flags
    || (g.flags = 1 && 1 < g.kind) || p % 64 != 0 || p < g.rb

def Image.listBad (g : Image) : Bool := !ascending g.idx || g.idx.any fun i => g.rows ≤ i

/-- Decode a value row with the user tables of a generation (R233, R245). -/
def decodeRow (kind : Nat) (t : Generation) (bs : List Byte) : List Byte :=
  match kind with
  | 0 => bs
  | 1 => bs.flatMap fun b => [bytesOf t.t16 (b.toNat % 16) 1, bytesOf t.t16 (b.toNat / 16) 1].flatten
  | 2 => bs.flatMap fun b => bytesOf t.t16w (2 * (b.toNat % 16)) 2 ++ bytesOf t.t16w (2 * (b.toNat / 16)) 2
  | _ => bs.flatMap fun b => bytesOf t.t256 (2 * b.toNat) 2

/-- Bit 7 of byte 63 of every 64-byte part, in the rows of L6, for the bytes of a row from byte `o` (R235). -/
def tagRow (flags : Nat) (g : Bool) (o : Nat) (bs : List Byte) : List Byte :=
  if flags = 1 then bs.zipIdx.map fun p => if (o + p.2) % 64 = 63 then (p.1 &&& 0x7F#8) ||| (if g then 0x80#8 else 0#8) else p.1 else bs

/-- `PACK` (R234). -/
def packPlan (g : Image) (pitch : Nat) (img rows : Word) : List Chunk :=
  g.idx.zipIdx.flatMap fun p =>
    cpyPlan g.rb (img + BitVec.ofNat 64 (g.vb + p.2 * g.rb)) (rows + BitVec.ofNat 64 (p.1 * pitch))

/-- Position of a row in the index list. -/
def rowPlace (idx : List Nat) (r : Nat) : Option Nat := idx.findIdx? (· == r)

/-- `UNPACK` (R235): a block of a listed row is computed from those bytes of its value row alone that it needs. -/
def unpackPlan (g : Image) (t : Generation) (gen : Bool) (pitch : Nat) (rows img : Word) : List Chunk :=
  (List.range g.rows).flatMap fun r =>
    let a := rows + BitVec.ofNat 64 (r * pitch)
    (blocksIn a g.rb).map fun p =>
      let w := g.spread
      let o := p.1 / w
      let cut := fun (row : List Byte) => tagRow g.flags gen p.1 ((row.drop (p.1 % w)).take p.2)
      match rowPlace g.idx r with
      | some j =>
        ⟨a + BitVec.ofNat 64 p.1, p.2, [(img + BitVec.ofNat 64 (g.vb + j * g.valueRow + o), (p.1 + p.2 + w - 1) / w - o)],
          fun bs => cut (decodeRow g.kind t bs), fun n => min p.2 (w * n - p.1 % w), false⟩
      | none => ⟨a + BitVec.ofNat 64 p.1, p.2, [], fun _ => tagRow g.flags gen p.1 (zeroBytes p.2), fun _ => p.2, false⟩

/-! ## Judging a run, page by page (R236, R237) -/

/-- The outcome of judging a list of parts: the locations, or what stopped it. -/
inductive Judge where
  | ok (s : State) (m : Cmd) (locs : List (Nat × Nat))
  | fault (s : State) (m : Cmd) (k : Kind) (f : Fail) (va : Word)
  | wait (s : State) (m : Cmd)
  /-- A status, and the parts before the one that gives it. -/
  | status (s : State) (m : Cmd) (st : Nat) (before : List (Nat × Nat))
  | soft (s : State) (m : Cmd) (va : Word)

/-- The page of an address at the grain of tiles. -/
def pageOf (a : Word) : Word := BitVec.ofNat 64 (a.toNat / 4096 * 4096)

/-- Judge 4 KiB pages, each at its location, as far as they may be admitted; a refused page will stop the command there. -/
def State.judgePages (s : State) (cl : Nat) (m : Cmd) (write : Bool) (ps : List (Word × Nat)) : State × Cmd :=
  match ps with
  | [] => (s, m)
  | a :: r =>
    match s.admitTile cl m write a.2 with
    | .ok s m => s.judgePages cl m write r
    | .wait => s.judgePages cl m write r
    | .error => s.judgePages cl { m with doom := if m.doom.contains a.1 then m.doom else m.doom ++ [a.1] } write r

/-- A page above 4 KiB has translated: all that the ranges of a command hold of it is judged then (R236). -/
def State.judgeLarge (s : State) (cl : Nat) (m : Cmd) (write : Bool) (whole : List (Word × Nat)) (a : Word) : State × Cmd :=
  match if inWindow a then none else s.cached (cl / 8) m.asid a with
  | some t =>
    if t.bits ≤ 12 || (slabOf (t.loc a)).isNone then (s, m)
    else
      let ps := ((whole.flatMap fun r => (pagesOf r.1 r.2).map pageOf).filter fun p => t.covers m.asid p).dedup
      s.judgePages cl m write (ps.map fun p => (p, t.loc p))
  | none => (s, m)

/-- Judge the parts of source or destination ranges, of the command's `whole` ones; `tiles` is false for the header of a `PACK`, which is no reader
(R234). -/
def State.judgeParts (s : State) (cl : Nat) (m : Cmd) (k : Kind) (tiles : Bool) (whole ps : List (Word × Nat)) (acc : List (Nat × Nat)) : Judge :=
  match ps with
  | [] => .ok s m acc.reverse
  | (a, n) :: r =>
    match s.engineTranslate cl m k a with
    | .fail f => if f = Fail.corrupt then .soft s m a else .fault s m k f a
    | .wait s _ => .wait s m
    | .ok s loc =>
      let (s, m) := if tiles then s.judgeLarge cl m (k = .write) whole a else (s, m)
      match if !tiles then .ok s m else if m.doom.contains (pageOf a) then .error else s.admitTile cl m (k = .write) loc with
      | .error => .status s m 2 acc.reverse
      | .wait => .wait s m
      | .ok s m => if s.corrupt loc n then .soft s m a else (s.wakePlaces [loc]).judgeParts cl m k tiles whole r ((loc, n) :: acc)

/-- How far a run can go: with the blocks it is to write. -/
inductive RunOut where
  | all (s : State) (m : Cmd) (hs : List HeldBlock)
  | stop (hs : List HeldBlock) (j : Judge)

/-- The bytes the C path of an engine's quarter shows. -/
def State.engineBytes (s : State) (cl : Nat) (locs : List (Nat × Nat)) : List Byte :=
  locs.flatMap fun p => (List.range p.2).map fun i => s.viewByte (cl / 8) .c (p.1 + i)

/-- What the bytes read causally follow. -/
def State.engineClock (s : State) (cl : Nat) (locs : List (Nat × Nat)) : Clock :=
  locs.foldl (fun c p => c.max (s.readClock (cl / 8) .c p.1 p.2)) Clock.zero

/-- The tile, if any, that a destination block lies in. -/
def State.tileIdAt (s : State) (loc : Nat) : Option Nat := (s.tileOfLoc loc).map fun e => tileId e.1 e.2.1

/-- Judge the destination of a block (R236): with `first`, it must lie in that tile. -/
def State.judgeDest (s : State) (cl : Nat) (m : Cmd) (first : Option (Option Nat)) (whole : List (Word × Nat)) (c : Chunk) : Nat × Judge :=
  match s.engineTranslate cl m .write c.dst with
  | .ok t loc =>
    if (match first with | some f => f != t.tileIdAt loc | none => false) then (loc, .status t m 3 [])
    else (loc, t.judgeParts cl m .write true whole [(c.dst, c.len)] [])
  | .fail f => (0, if f = Fail.corrupt then .soft s m c.dst else .fault s m .write f c.dst)
  | .wait t _ => (0, .wait t m)

/-- The leading bytes of a block, from the parts of its source that were judged. -/
def Chunk.cutTo (c : Chunk) (n : Nat) : Chunk :=
  let whole := c.srcs.foldl (fun n x => n + x.2) 0
  { c with len := n, conv := fun bs => (c.conv (bs ++ zeroBytes (whole - bs.length))).take n, plain := false }

/-- A judged block is read, d set in its destination's page (R383): the bytes to write, and the history the command follows. A slab keeps the
compressed form of a whole block that reaches it unchanged (R244). -/
def State.holdBlock (s : State) (cl : Nat) (m : Cmd) (c : Chunk) (dst : Nat) (srcs : List (Nat × Nat)) : State × Cmd × HeldBlock :=
  let packed := match srcs with
    | [(a, 256)] => c.plain && c.len == 256 && a % 256 == 0 && s.packedAt a && (slabOf dst).isSome
    | _ => false
  (s.markDirty (cl / 8) m.asid c.dst, { m with clock := m.clock.max (s.engineClock cl srcs) }, ⟨dst, c.conv (s.engineBytes cl srcs), packed⟩)

/-- Source and destination ranges of a plan. -/
def planRanges (cs : List Chunk) : List (Word × Nat) × List (Word × Nat) := (cs.flatMap (·.srcs), cs.map fun c => (c.dst, c.len))

/-- Judge the blocks of a plan, whose ranges are `whole`, in order, after those held; with `one`, every destination block must lie in the tile of the first (R236). A source
that fails its tile rules inside a block leaves the bytes of the block before it. -/
def State.judgeRun (s : State) (cl : Nat) (m : Cmd) (one : Bool) (whole : List (Word × Nat) × List (Word × Nat)) (cs : List Chunk) (acc : List HeldBlock) : RunOut :=
  match cs with
  | [] => .all s m acc.reverse
  | c :: r =>
    let first := if one then acc.getLast?.map fun x => s.tileIdAt x.dst else none
    match s.judgeParts cl m .load true whole.1 (c.srcs.flatMap fun x => partsOf x.1 x.2) [] with
    | .ok s m srcs =>
      match s.judgeDest cl m first whole.2 c with
      | (loc, .ok s m _) =>
        let (s, m, b) := s.holdBlock cl m c loc srcs
        s.judgeRun cl m one whole r (b :: acc)
      | (_, j) => .stop acc.reverse j
    | .status s m st before =>
      let n := c.reach (before.foldl (fun n x => n + x.2) 0)
      if n = 0 then .stop acc.reverse (.status s m st [])
      else
        match s.judgeDest cl m first whole.2 (c.cutTo n) with
        | (loc, .ok s m _) =>
          let (s, m, b) := s.holdBlock cl m (c.cutTo n) loc before
          .stop (b :: acc).reverse (.status s m st [])
        | (_, j) => .stop acc.reverse j
    | j => .stop acc.reverse j

/-! ## Moving -/

/-- Issue the pieces of an engine's write in an order of the device's choice (R252, log 5). -/
def State.engineIssue (s : State) (q : Nat) (path : Path) (h : Clock) (ps : List (Nat × List Byte)) : State × Clock :=
  match ps with
  | [] => (s, h)
  | _ =>
    let (s, n) := s.draw
    let ordered := ps.zipIdx.foldl (fun a x => insertKey (fun (e : (Nat × List Byte) × Nat) => Config.elementKey n e.2) x a) []
    ordered.foldl (fun acc x =>
      let r := acc.1.issueWrite q h none .engine path (cellsAt x.1.1 x.1.2)
      (r.1, acc.2.max r.2)) (s, h)

/-- Write the blocks that a command holds: their sources have all been read (R231). -/
def State.moveBlocks (s : State) (cl : Nat) (m : Cmd) (hs : List HeldBlock) : State × Cmd :=
  let ps := hs.flatMap fun b => (piecesOf (BitVec.ofNat 64 b.dst) b.bytes (b.bytes.length + 1)).map fun p => (p.1.toNat, p.2)
  let (t, c) := s.engineIssue (cl / 8) .c m.clock ps
  ({ t with slabForms := t.slabForms ++ (hs.filter (·.packed)).map (·.dst) }, { m with clock := c, held := [] })

/-! ## The checks of R230 and the plan -/

/-- What a command is to do once its checks are made. -/
inductive Plan where
  | run (s : State) (m : Cmd) (one : Bool) (cs : List Chunk)
  | stop (j : Judge)

/-- `CPYW`'s pair of formats. -/
def Cmd.fmts (m : Cmd) : Fmt × Fmt := ((Fmt.ofCode m.src).getD .fp32, (Fmt.ofCode m.dst).getD .fp32)

/-- The ranges of a `CPY` or `CPYW` break a check of R230. -/
def Cmd.denseBad (m : Cmd) : Bool :=
  let n := m.len.toNat
  match m.kind with
  | .cpyw =>
    let f := m.fmts
    let sl := sourceLen f.1 n
    let dl := n * f.2.bytes
    2 ^ 32 ≤ n || m.dest.toNat % f.2.bytes != 0
      || (match f.1 with | .e2m1 => false | .l6 => m.source.toNat % 64 != 0 || n % 80 != 0 | g => m.source.toNat % g.bytes != 0)
      || rangesMeet [(m.source, sl)] [(m.dest, dl)] || unreachable m.source sl || unreachable m.dest dl
  | _ => 2 ^ 32 ≤ n || unreachable m.source n || unreachable m.dest n

/-- Source and destination lengths of a `CPY` or `CPYW`. -/
def Cmd.denseLens (m : Cmd) : Nat × Nat :=
  match m.kind with
  | .cpyw => (sourceLen m.fmts.1 m.len.toNat, m.len.toNat * m.fmts.2.bytes)
  | _ => (m.len.toNat, m.len.toNat)

def Cmd.densePlan (m : Cmd) : List Chunk :=
  match m.kind with
  | .cpyw => cpywPlan m.fmts.1 m.fmts.2 m.len.toNat m.dest m.source
  | _ => cpyPlan m.len.toNat m.dest m.source

/-- The user tables of a generation. -/
def Cluster.tables (c : Cluster) (g : Bool) : Generation := c.gens.getD (if g then 1 else 0) Generation.zero

/-- The address of the sparse image of a `PACK` or `UNPACK`. -/
def Cmd.image (m : Cmd) : Word := if m.kind = .pack then m.dest else m.source

/-- Read the header or the index list of a sparse image, once for each command (R233): the bytes of the image from `o` to `o + n`. -/
def State.readHead (s : State) (cl : Nat) (m : Cmd) (o n : Nat) (k : State → Cmd → List Byte → Plan) : Plan :=
  if o + n ≤ m.head.length then k s m ((m.head.drop o).take n)
  else
    match s.judgeParts cl m .load (m.kind != .pack) [(m.image + BitVec.ofNat 64 o, n)] (partsOf (m.image + BitVec.ofNat 64 o) n) [] with
    | .ok s m locs => let bs := s.engineBytes cl locs; k s { m with head := m.head ++ bs } bs
    | j => .stop j

/-- Check a sparse image and make the plan (R233-R235). -/
def State.imagePlan (s : State) (cl : Nat) (m : Cmd) : Plan :=
  let pack := m.kind = .pack
  let a := m.image
  let pitch := m.len.toNat
  if (pack && 2 ^ 32 ≤ pitch) || a.toNat % 64 ≠ 0 || unreachable a 16 then .stop (.status s m 3 [])
  else
    s.readHead cl m 0 16 fun s m bs =>
      let g := Image.of bs
      if g.kind = 15 && !pack then .stop (.ok s m [])
      else if g.headBad m.len pack || unreachable a (16 + 2 * g.n) then .stop (.status s m 3 [])
      else
        s.readHead cl m 16 (2 * g.n) fun s m bs =>
          let g := { g with idx := (List.range g.n).map fun j => leNat ((bs.drop (2 * j)).take 2) }
          let dense := if pack then m.source else m.dest
          let listed := fun (r : Nat) => (dense + BitVec.ofNat 64 (r * pitch), g.rb)
          let rows := (if pack then g.idx else List.range g.rows).map listed
          let image := if pack then [(a + BitVec.ofNat 64 g.vb, g.n * g.rb)] else [(a, g.vb + g.n * g.valueRow)]
          if g.listBad || rangesMeet rows image || (rows ++ image).any (fun x => unreachable x.1 x.2) then .stop (.status s m 3 [])
          else if pack then .run s m true (packPlan g pitch a m.source)
          else .run s m true (unpackPlan g ((s.cluster cl).tables m.gen) m.gen pitch m.dest a)

def State.planOf (s : State) (cl : Nat) (m : Cmd) : Plan :=
  match m.kind with
  | .cpy | .cpyw => if m.denseBad then .stop (.status s m 3 []) else .run s m false m.densePlan
  | _ => s.imagePlan cl m

/-! ## Running a command (R228, R236, R237) -/

/-- The command ends with a status once its writes are applied everywhere. -/
def State.endCmd (s : State) (cl : Nat) (m : Cmd) (st : Nat) : State := s.setCmd cl { m with state := .moved st }

/-- The fault record of an engine (R386). -/
def State.engineFault (s : State) (cl : Nat) (m : Cmd) (k : Kind) (f : Fail) (va : Word) : State :=
  if f.recorded then
    let src := 0x8000 + cl
    let n := s.engineSeq.get 0 src
    { s with
      faults := s.faults ++ [⟨s.nextTicket, m.asid, src, k.code, f.reason, f.level, false, va, tokenOf cl m.seq, 0, n⟩]
      nextTicket := s.nextTicket + 1
      engineSeq := s.engineSeq.put src ((n + 1) % 2 ^ 32) }
  else s

/-- The issuing hart still runs: its group's member is in the slot (R372). -/
def State.issuerRuns (s : State) (m : Cmd) : Option Nat :=
  match m.issuer with
  | none => none
  | some id =>
    match (s.group? id.group).bind fun g => g.members.find id.key with
    | some x => match x.state with | .running k => if (s.hart k).run = .running then some k else none | _ => none
    | none => none

/-- Status 4: the record, and the machine-check of the issuing hart at its next boundary (R237, R372). -/
def State.engineSoft (s : State) (cl : Nat) (m : Cmd) (va : Word) : State :=
  let s := s.endCmd cl m 4
  let block := BitVec.ofNat 64 (va.toNat / 256 * 256)
  let s := s.record ⟨4, m.asid, 0xFFFF, tMachine, 0, block, 0⟩
  match s.issuerRuns m with
  | some k =>
    (s.asSlot k fun s => if s.me.blk.isSome then s.vtrap tMachine s.me.velem.toNat block else s.trap tMachine block).leavePair k (s.hart k)
  | none => s

/-- A tile that an `UNPACK` tagged while its kind was not known loses that tag (R247). -/
def State.unTag (s : State) (cl : Nat) (m : Cmd) : State :=
  { s with cores := s.cores.map fun c => (c.1, { c.2 with tiles := c.2.tiles.map fun e =>
      (e.1, if e.2.giver = some (cl, m.seq) then { e.2 with tag := none, giver := none } else e.2) }) }

/-- A command turns out to write no tile: the tile it was a writer of is what its other writers leave it (log 31); one that is empty again carries no
tag (R247). -/
def State.unWrite (s : State) (cl : Nat) (m : Cmd) : State × Cmd :=
  let n := { m with writes := [], doom := [] }
  (m.writes.foldl (fun s id =>
    let t := (s.core (id / 64)).tile (id % 64)
    if s.tileWritten id then s
    else if t.state = .filling then
      s.setTile (id / 64) (id % 64) (if t.full then { t with state := .ready } else { t with state := .empty, tag := none, giver := none })
    else s.settleTile (id / 64) (id % 64)) (s.setCmd cl n), n)

/-- Kinds that take a generation (R247). -/
def decodes (kind : Nat) : Bool := kind ≤ 3

/-- The kind in the header of a sparse image, once read (R233). -/
def Cmd.kind? (m : Cmd) : Option Nat := if 16 ≤ m.head.length then some (m.head.getD 5 0).toNat else none

/-- A `PACK` or `UNPACK` fails its checks, or is a reload (R230, R246): it is no writer, and gave no tag but as one of kinds 0 to 3. -/
def State.unUse (s : State) (cl : Nat) (m : Cmd) (kind : Option Nat) : State × Cmd :=
  (if kind.any decodes then s else s.unTag cl m).unWrite cl m

/-- What stopped a run, `hs` being the blocks before it: they are written when the command ends there, and held while it waits. -/
def State.stopRun (_s : State) (cl : Nat) (hs : List HeldBlock) (j : Judge) : State :=
  match j with
  | .ok t m _ => t.setCmd cl { m with state := .reloading }
  | .fault t m k f va =>
    if f.recorded then (t.engineFault cl m k f va).setCmd cl { m with state := .faulted va, held := hs }
    else t.endCmd cl m 3
  | .wait t m => t.setCmd cl { m with state := .waiting, held := hs }
  | .status t m st _ =>
    let (t, m) := t.moveBlocks cl m hs
    t.endCmd cl m st
  | .soft t m va =>
    let (t, m) := t.moveBlocks cl m hs
    t.engineSoft cl m va

/-! ### The slab window (R225, R236): its tile rules are judged at acceptance, before any byte moves -/

/-- An address in the slab window. -/
def inSlabWindow (a : Word) : Bool := Config.slabWindow ≤ a.toNat && a.toNat < Config.slabWindow + Config.slabSize
/-- The 4 KiB pages of the slab window that some ranges touch, each once. -/
def windowPages (rs : List (Word × Nat)) : List Word :=
  (((rs.filter fun r => r.2 != 0 && inSlabWindow r.1).flatMap fun r => (pagesOf r.1 r.2).map pageOf).filter inSlabWindow).dedup
def windowLoc (core : Nat) (a : Word) : Nat := slabLoc core (a.toNat - Config.slabWindow)

/-- Judge the pages of the slab window that some ranges touch. -/
def State.judgeWindow (s : State) (cl : Nat) (m : Cmd) (write : Bool) (rs : List (Word × Nat)) : State × Cmd :=
  s.judgePages cl m write ((windowPages rs).map fun a => (a, windowLoc m.core a))

/-- Judge the window pages of a plan; the command fails with status 3 where its destination leaves its one tile (R236). -/
def State.judgeWindows (s : State) (cl : Nat) (m : Cmd) (one : Bool) (cs : List Chunk) : Option (State × Cmd) :=
  let rs := planRanges cs
  let ids := (windowPages rs.2).map fun a => s.tileIdAt (windowLoc m.core a)
  if one && ids.any (· != ids.headD none) then none
  else
    let (s, m) := s.judgeWindow cl m false rs.1
    some (s.judgeWindow cl m true rs.2)

/-- The location an address of a command reaches by the tables, whatever its leaf allows; no effect. A walk waits out a recess (R394). -/
def State.peek (s : State) (cl : Nat) (m : Cmd) (va : Word) : Option Nat :=
  if inWindow va then
    match s.engineTranslate cl m .load va with
    | .ok _ loc => some loc
    | _ => none
  else
    match s.cached (cl / 8) m.asid va with
    | some t => some (t.loc va)
    | none =>
      match if s.stalled then .inl Fail.corrupt else s.walkFrom (cl / 8) va (s.ctx m.asid).root 4 with
      | .inr (e, at_, level) => some ((transOf m.asid va e at_ level).loc va)
      | .inl _ => none
/-- The tile a command's destination lies in. -/
def State.destTile (s : State) (cl : Nat) (m : Cmd) : Option (Nat × Nat × Tile) := (s.peek cl m m.dest).bind s.tileOfLoc

/-- An `UNPACK` whose tile its acceptance could not know decodes with the tag of that tile, where another has tagged it (R247). -/
def State.sameGen (s : State) (cl : Nat) (m : Cmd) : Cmd :=
  match if m.kind = .unpack && !m.genFixed then (s.destTile cl m).bind fun e => e.2.2.tag else none with
  | some (_, g) => { m with gen := g }
  | none => m

/-- An `UNPACK` known to be of kinds 0 to 3 tags the tile its destination lies in, or takes the tag it finds for good (R247). -/
def State.firmGen (s : State) (cl : Nat) (m : Cmd) : State :=
  match if m.kind = .unpack then s.destTile cl m else none with
  | some (k, n, t) =>
    if t.group.isSome && t.group = m.group then s.setTile k n { t with tag := some (t.tag.getD (cl, m.gen)), giver := none } else s
  | none => s

/-- Run a command as far as it goes, from the block it stopped at (R228, R237). -/
def State.runCmd (s : State) (cl : Nat) (m : Cmd) : State :=
  match s.planOf cl (s.sameGen cl m) with
  | .stop (.ok t x _) =>
    let (t, x) := t.unUse cl x x.kind?
    t.setCmd cl { x with state := .reloading }
  | .stop (.status t x 3 _) =>
    let (t, x) := t.unUse cl x x.kind?
    t.endCmd cl x 3
  | .stop j => s.stopRun cl m.held j
  | .run s m one cs =>
    match (s.firmGen cl m).judgeWindows cl m one cs with
    | none =>
      let (s, m) := s.unWrite cl m
      s.endCmd cl m 3
    | some (s, m) =>
      match s.judgeRun cl m one (planRanges cs) (cs.drop m.held.length) m.held.reverse with
      | .stop hs j => s.stopRun cl hs j
      | .all s m hs =>
        let (s, m) := s.moveBlocks cl m hs
        s.endCmd cl m 0

/-- A started command ends early with a status: the blocks before the one it stopped at are written (R228, R237). -/
def State.cutCmd (s : State) (cl : Nat) (m : Cmd) (st : Nat) : State :=
  let (s, m) := s.moveBlocks cl m m.held
  s.endCmd cl m st

/-! ## Acceptance (R225, R228, R236, R247) -/

/-- The kind of an `UNPACK`'s sparse image (R233, R246): none while it cannot be read, 16 where there can be no image. -/
def State.imageKind? (s : State) (cl : Nat) (m : Cmd) : Option Nat :=
  if m.source.toNat % 64 ≠ 0 || unreachable m.source 16 then some 16
  else
    match m.kind? with
    | some k => some k
    | none =>
      (if s.stalled then none else s.peek cl m m.source).bind fun loc =>
        let kind := (s.viewByte (cl / 8) .c (loc + 5)).toNat
        match s.tileOfLoc loc with
        | some (_, _, t) => if t.state = .ready && t.group = m.group then some kind else none
        | none => some kind

/-- An `UNPACK` of kinds 0 to 3 takes its generation (R247): the tag of the tile its destination lies in, which takes the active one where
it carries none; outside the slab the active one. One whose image cannot be read yet takes it too, until it is found to be of another kind
(log 31). It says whether the tile is known. -/
def State.takeGen (s : State) (cl : Nat) (m : Cmd) : State × Bool × Bool :=
  let now := (s.cluster cl).active
  let kind := s.imageKind? cl m
  match s.destTile cl m with
  | none => (s, now, (s.peek cl m m.dest).isSome)
  | some (k, n, t) =>
    if t.group.isNone || t.group ≠ m.group || !(kind.all decodes) then (s, now, true)
    else
      match t.tag with
      | some (_, g) => (if kind.isSome then s.setTile k n { t with giver := none } else s, g, true)
      | none => (s.setTile k n { t with tag := some (cl, now), giver := if kind.isSome then none else some (cl, m.seq) }, now, true)

/-- The command as it stood where its judging stopped. -/
def Judge.cmd (j : Judge) : Cmd :=
  match j with
  | .ok _ m _ | .fault _ m _ _ _ | .wait _ m | .status _ m _ _ | .soft _ m _ => m

/-- The bytes of a sparse image that are its header and, once that is read, its index list (R233). -/
def Cmd.headSpan (m : Cmd) : Nat := if m.head.length < 16 then 16 else 16 + 2 * leNat (m.head.take 2)

/-- The window ranges of a command as it is accepted, judged as far as they are known, once the checks of R230 on them are made: the whole of a `CPY`
or `CPYW`; the image of a reload; of a `PACK` or `UNPACK` all rows once its sparse image can be read, else the header and index list read and the first
page of the destination; of an `UNPACK` whose kind is not known yet no destination, since a reload has none (R246). One that fails its checks reads and writes no tile,
a case on which R236 is silent (DESIGN CHOICE, log 15). None for status 3. -/
def State.acceptWindows (s : State) (cl : Nat) (m : Cmd) : Option (State × Cmd) :=
  let head := fun (x : Cmd) => if m.kind = .unpack then s.judgeWindow cl m false [(m.source, x.headSpan)] else (s, m)
  match m.kind with
  | .cpy | .cpyw =>
    let (s, m) := s.judgeWindow cl m false [(m.source, m.denseLens.1)]
    some (s.judgeWindow cl m true [(m.dest, m.denseLens.2)])
  | .pack | .unpack =>
    match if s.stalled then .stop (.wait s m) else s.planOf cl m with
    | .run _ x one cs =>
      let (s, m) := head x
      s.judgeWindows cl m one cs
    | .stop (.ok _ _ _) =>
      if unreachable m.source 624 then none
      else
        let (s, m) := s.unUse cl m none
        some (s.judgeWindow cl m false [(m.source, 624)])
    | .stop (.status _ x 3 _) => some (s.unUse cl m x.kind?)
    | .stop j =>
      let (s, m) := head j.cmd
      if m.kind = .unpack && m.kind?.isNone then some (s, m) else some (s.judgeWindow cl m true [(m.dest, 1)])

/-- Drop a command and end its readers and writers (R193). -/
def State.leaveTiles (s : State) (m : Cmd) : State :=
  let s := m.writes.foldl (fun s id => s.fillTile (id / 64) (id % 64) m.clock) s
  m.reads.foldl (fun s id => s.settleTile (id / 64) (id % 64)) s

/-- Complete a command (R195, R237, R264, R310): its writes into tiles are shown on every path; the successors of its group follow it. -/
def State.finishCmd (s : State) (cl : Nat) (m : Cmd) (st : Nat) : State :=
  let c := s.cluster cl
  let s := s.setCluster cl { c with
    cmds := c.cmds.filter fun x => x.seq != m.seq
    done := ((m.seq, st, m.clock) :: c.done).filter fun e => c.seq ≤ e.1 + 4097 }
  let s := if m.writes.isEmpty then s else [Path.h, Path.x, Path.l, Path.n].foldl (fun s p => s.cross m.clock .c p) s
  let s := match m.group.bind fun g => (s.group? g).map fun x => (g, x) with
    | some (g, x) => s.setGroup g { x with ended := x.ended.max m.clock }
    | none => s
  s.leaveTiles m

/-- The engine of a cluster accepts a command (R228): its token, and the new state. -/
def State.acceptCmd (s : State) (cl : Nat) (m : Cmd) : State × Word :=
  let c := s.cluster cl
  let m := { m with seq := c.seq }
  let (s, g, fixed) := if m.kind = .unpack then s.takeGen cl m else (s, false, true)
  let m := { m with gen := g, genFixed := fixed }
  let s := (s.wakeQuarter (cl / 8)).setCluster cl { c with seq := c.seq + 1, cmds := c.cmds ++ [m] }
  let t := tokenOf cl m.seq
  if (m.kind = .cpy || m.kind = .cpyw) && m.len = 0 then (s.finishCmd cl m 0, t)
  else if (m.kind = .cpy || m.kind = .cpyw) && m.denseBad then (s.endCmd cl m 3, t)
  else
    match s.acceptWindows cl m with
    | some (s, m) => (s.setCmd cl m, t)
    | none => (s.endCmd cl m 3, t)

/-- A command of the executing hart. -/
def State.hartCmd (s : State) (kind : CmdKind) (src dst : BitVec 4) (a b c : Word) : Cmd :=
  ⟨0, kind, src, dst, a, b, c, slotCore s.cur, s.me.member, s.me.asid, s.myGroupNo, none, false, true, .accepted, [], [], [], [], [], Clock.zero⟩

/-- Issue a moving form (R228, R237, R352). -/
def State.issueCopy (s : State) (i : Instr) (kind : CmdKind) (src dst : BitVec 4) (a b c : SReg) : State :=
  let h := s.me
  let cl := slotCluster s.cur
  if s.buffering s.cur then s.trap tIrrevocable (wordOf i)
  else if 64 ≤ (s.cluster cl).cmds.length then s.park .engine i
  else
    let (s, t) := s.acceptCmd cl (s.hartCmd kind src dst (h.sget a) (h.sget b) (h.sget c))
    s.upd fun h => (h.sput a t).next

/-- `CPY` (R231). -/
def execCpy (a b c : SReg) (s : State) : Host.Outcome State Fault Refusal := .next (s.issueCopy (.cpy a b c) .cpy 0 0 a b c)
/-- `CPYW` (R232). -/
def execCpyw (a b c : SReg) (src dst : BitVec 4) (s : State) : Host.Outcome State Fault Refusal :=
  .next (s.issueCopy (.cpyw a b c src dst) .cpyw src dst a b c)
/-- `PACK` (R234). -/
def execPack (a b c : SReg) (s : State) : Host.Outcome State Fault Refusal := .next (s.issueCopy (.pack a b c) .pack 0 0 a b c)
/-- `UNPACK` (R235). -/
def execUnpack (a b c : SReg) (s : State) : Host.Outcome State Fault Refusal := .next (s.issueCopy (.unpack a b c) .unpack 0 0 a b c)

/-- `CPWAIT` (R237). -/
def execCpwait (a : SReg) (s : State) : Host.Outcome State Fault Refusal :=
  .next (
    match s.named (s.me.sget a) with
    | .invalid => s.upd fun h => (h.sput a 5).next
    | .complete st c => s.upd fun h => ({ h with clock := h.clock.max c }.sput a (BitVec.ofNat 64 st)).next
    | .running => s.park .engine (.cpwait a))

/-! ## The engine's own steps -/

/-- Cycles before a recess in which no command starts (R228, R394). -/
def drainWindow : Nat := 2048

/-- Engines start no command: a recess, or the window before it. -/
def State.draining (s : State) : Bool := s.stalled || s.untilRecess ≤ drainWindow

/-- An earlier command of the engine has not started, or a reload waits (R228, R246). -/
def Cluster.blocked (c : Cluster) (seq : Nat) : Bool :=
  c.cmds.any fun x => x.seq < seq && (x.state == .accepted || x.state == .reloading)

/-- `COPY_COMMAND_START` (R228): a command that waits on a tile or a page goes on as soon as it may. -/
def execCopyCommandStart (cluster seq : Nat) (s : State) : Host.Outcome State Fault Refusal :=
  let c := s.cluster cluster
  .next (
    match c.cmd? seq with
    | none => s
    | some m =>
      match m.state with
      | .accepted => if s.draining || c.blocked seq then s else s.runCmd cluster m
      | .waiting => if s.stalled then s else s.runCmd cluster m
      | _ => s)

/-- `TILE_WRITER_ACCEPT` (R193): a started command that waits for its tile is admitted and goes on. -/
def execTileWriterAccept (cluster seq : Nat) (s : State) : Host.Outcome State Fault Refusal :=
  .next (
    match (s.cluster cluster).cmd? seq with
    | none => s
    | some m =>
      match m.state with
      | .waiting => if s.stalled then s else s.runCmd cluster m
      | .accepted =>
        match s.acceptWindows cluster m with
        | some (t, m) => t.setCmd cluster m
        | none =>
          let (s, m) := s.unWrite cluster m
          s.endCmd cluster m 3
      | _ => s)

/-- A generation of an engine is used: by a tile's tag, or by an accepted `UNPACK` other than the reload itself (R247). -/
def State.genUsed (s : State) (cl : Nat) (g : Bool) : Bool :=
  (s.cores.any fun c => c.2.tiles.any fun t => t.2.tag == some (cl, g)) ||
  (s.cluster cl).cmds.any fun m => m.kind == .unpack && m.gen == g &&
    (match m.state with | .moved _ => false | .reloading => false | _ => (s.imageKind? cl m).all decodes)

/-- `DECODE_TABLE_RELOAD` (R246): the reload waits until the idle generation is unused. -/
def execDecodeTableReload (cluster seq : Nat) (s : State) : Host.Outcome State Fault Refusal :=
  let c := s.cluster cluster
  .next (
    match c.cmd? seq with
    | none => s
    | some m =>
      if m.state ≠ .reloading || s.stalled || s.genUsed cluster (!c.active) then s
      else if unreachable m.source 624 then s.endCmd cluster m 3
      else
        match s.judgeParts cluster m .load true [(m.source, 624)] (partsOf m.source 624) [] with
        | .ok s m locs =>
          let bs := s.engineBytes cluster locs
          if ((bs.drop 6).take 58).any (· != 0) then s.endCmd cluster m 3
          else
            let g : Generation := ⟨BitVec.ofNat 128 (leNat ((bs.drop 64).take 16)), BitVec.ofNat 256 (leNat ((bs.drop 80).take 32)),
              BitVec.ofNat 4096 (leNat ((bs.drop 112).take 512))⟩
            let c := s.cluster cluster
            (s.setCluster cluster { c with gens := c.gens.setIfInBounds (if c.active then 0 else 1) g, active := !c.active }).endCmd cluster m 0
        | .wait s m => s.setCmd cluster m
        | j => s.stopRun cluster [] j)

end Sys2Proof.Machine
end

