-- ==== Sys2Proof/Machine/Sync.lean ====
section
/-! DEFINITION. Barriers, slates and lockets: the scalar-stream forms of 17_barrier and 19_locket (R320-R325, R331, R333, R342,
R344, R355). -/

namespace Sys2Proof.Machine

/-! ## Barriers (R320-R324) -/

/-- The fields of a barrier object, from its 32 bytes as a little-endian number (R320). -/
structure Bar where
  expected : Nat
  arrived : Nat
  phase : Nat
  state : Nat
  group : Nat
  clean : Bool
  deriving DecidableEq, Repr

def Bar.of (x : Nat) : Bar :=
  ⟨x % 2 ^ 32, x / 2 ^ 32 % 2 ^ 32, x / 2 ^ 64 % 2 ^ 32, x / 2 ^ 96 % 256, x / 2 ^ 128 % 2 ^ 64,
    x / 2 ^ 104 % 2 ^ 24 == 0 && x / 2 ^ 192 % 2 ^ 64 == 0⟩
def Bar.toNat (b : Bar) : Nat :=
  b.expected + b.arrived * 2 ^ 32 + b.phase * 2 ^ 64 + b.state * 2 ^ 96 + b.group * 2 ^ 128

/-- Open or broken, with its zero bytes zero (R320). -/
def Bar.initialised (b : Bar) : Bool := b.clean && (b.state == 1 || b.state == 2)

/-- The barrier as the instruction that reaches it sees it: broken when its group has failed (R322). -/
def State.seenBar (s : State) (b : Bar) : Bar :=
  match s.group? b.group with
  | some g => if g.state = .failed && b.state = 1 then { b with state := 2 } else b
  | none => b

/-- The waiters parked on the barrier at a location leave the park with a status; a return is an acquire (R322, R324). A frozen hart stays as it
is (R100). -/
def State.releaseWaiters (s : State) (loc status : Nat) (c : Clock) : State :=
  s.harts.foldl (fun s e =>
    match e.2.wait with
    | some ⟨.barrier l d, _, _, _⟩ =>
      if l = loc && e.2.run == .running then
        let s := s.setHart e.1 (((s.hart e.1).seesAll c).ahead fun h => (h.sput d (BitVec.ofNat 64 status)).next)
        s.edgeOf e.1 true false
      else s
    | _ => s) s

/-- The checks of R323, then the 32 bytes at the home as one atomic (R260): `k` gets the state, the location and the barrier. That holds where
this access itself has acquired a locket, too: R349 names no barrier form among the writes that are buffered (DEDUCED, log 42). -/
def State.barrier (s : State) (i : Instr) (a : SReg) (kind : Kind) (k : State → Nat → Bar → State) : State :=
  let va := s.me.sget a
  if s.buffering s.cur && !s.me.parkedAt i then s.trap tIrrevocable (wordOf i)
  else if va.toNat % 32 ≠ 0 then s.trap tDataAlign va
  else
    match s.access .scalar kind va 32 with
    | .ok s loc =>
      let h := s.me
      let t := s.settleHome h.clock loc
      let t := t.setMe (h.sees .scalar (t.readClock (homeOf loc) .h loc 32))
      k t loc (Bar.of (t.viewNat (homeOf loc) .h loc 32))
    | r => s.scalarStop i kind va r

/-- Write the barrier at its home, d set first (R260, R323, R383). -/
def State.putBar (s : State) (va : Word) (loc : Nat) (b : Bar) : State :=
  let h := s.me
  let (t, v) := (s.markMine va).homeWrite h.clock (some s.cur) .scalar (cellsAt loc (leBytes 32 b.toNat))
  t.setMe { h with clock := h.clock.max v }

/-- A write of the device through the page of a `BWAIT` cannot be made now: the page is migrating (R382), or d is to be set in a recess (R383, R394). -/
def State.breakWaits (s : State) (va : Word) : Option Why :=
  if (s.myTrans va).any fun t => pteState t.leaf == 4 then some .migrating
  else if s.stalled && s.setsD .write va then some .recess
  else none

/-- `BINIT` (R322, R323). -/
def execBinit (a n : SReg) (s : State) : Host.Outcome State Fault Refusal :=
  let x := s.me.sget n
  let va := s.me.sget a
  .next (s.barrier (.binit a n) a .write fun s loc _ =>
    if x = 0 || 2 ^ 32 ≤ x.toNat then s.trap tBarrier x
    else
      let g := match s.me.member with | some id => id.group | none => 0
      let s := s.putBar va loc ⟨x.toNat, 0, 0, 1, g, true⟩
      (s.releaseWaiters loc 1 s.me.clock).upd Hart.next)

/-- Arrivals a `BARRIVE` counts: the set mask bits below VL (R323). -/
def Hart.arrivals (h : Hart) (mk : MReg) : Nat := (List.range (h.vlgrant.toNat % 512)).countP fun i => (h.mget mk).getLsbD i

/-- What `k` arrivals make of a barrier: the new barrier, and the status its waiters leave with (R322). -/
def Bar.arrive (b : Bar) (k : Nat) : Bar × Option Nat :=
  if b.state = 2 || k = 0 then (b, none)
  else if b.arrived + k < b.expected then ({ b with arrived := b.arrived + k }, none)
  else if b.arrived + k = b.expected then ({ b with arrived := 0, phase := (b.phase + 1) % 2 ^ 32 }, some 0)
  else ({ b with state := 2 }, some 1)

/-- `BARRIVE` (R322-R324): a release at device scope, published in the barrier even where it changes no byte. -/
def execBarrive (a : SReg) (mk : MReg) (s : State) : Host.Outcome State Fault Refusal :=
  let va := s.me.sget a
  .next (s.barrier (.barrive a mk) a .atomic fun s loc b =>
    if !b.initialised then s.trap tBarrier va
    else
      let seen := s.seenBar b
      let (b', st) := seen.arrive (s.me.arrivals mk)
      let s := s.upd fun h => { h with arrival := ⟨va, BitVec.ofNat 32 b.phase, true⟩ }
      let s := if b' = b && b.state ≠ 1 then s else s.putBar va loc b'
      let s := match st with
        | some x => s.releaseWaiters loc x s.me.clock
        | none => if seen = b then s else s.releaseWaiters loc 1 s.me.clock
      (s.edge false true).upd Hart.next)

/-- `BWAIT` (R322-R325): an acquire at device scope, in the scalar class (R254, R261). The break of a failed group's barrier is the device's write, which
the page need not allow the hart (DESIGN CHOICE, log 51). -/
def execBwait (d a : SReg) (s : State) : Host.Outcome State Fault Refusal :=
  let va := s.me.sget a
  let i := Instr.bwait d a
  .next (s.barrier i a .load fun s loc b =>
    let answer := fun (s : State) (x : Word) => (s.edge true false).upd fun h => (h.sput d x).next
    if !b.initialised then answer s 3
    else
      let seen := s.seenBar b
      if seen ≠ b then
        match s.breakWaits va with
        | some w => s.park w i
        | none => answer ((s.putBar va loc seen).releaseWaiters loc 1 s.me.clock) 1
      else if b.state = 2 then answer s 1
      else if !s.me.arrival.valid || s.me.arrival.addr ≠ va then answer s 2
      else if BitVec.ofNat 32 b.phase ≠ s.me.arrival.phase then answer s 0
      else s.park (.barrier loc d) i)

/-! ## Slates (R330, R331, R333) -/

/-- The identity of a slate's operation (R331). -/
def slateIdentity (op : Nat) (f : Fmt) : Elem :=
  match op with
  | 0 => 0
  | 1 => if f.isInt then wrapInt f.width f.intRange.2 else BitVec.ofNat 64 (infCode f)
  | _ => if f.isInt then wrapInt f.width f.intRange.1 else withSign f true (infCode f)

/-- `SLATE` (R331). -/
def execSlate (i b l : SReg) (s : State) : Host.Outcome State Fault Refusal :=
  let h := s.me
  let f := cfgFmt h.vcfg
  let m := f.width / 8
  let x := (h.sget l).toNat
  let len := x % 65536
  let off := x / 65536 % 1024
  let op := x / 2 ^ 26 % 4
  let id := (h.sget i).toNat
  let base := h.sget b
  let bad := 31 < id || base.toNat % m ≠ 0 || len % m ≠ 0 || off % m ≠ 0 || len = 0 || 1024 < len || 1024 < off + len || op = 3
    || x / 2 ^ 28 ≠ 0 || h.slates.any fun e => e.1 != id && overlaps off len e.2.offset e.2.length
  .next (
    if bad then s.trap tSlate (h.sget l)
    else if !okSlate f then s.trap tFormat (wordOf (.slate i b l))
    else
      let m' := (List.range 32).foldl (fun mm lane =>
        (List.range (len / m)).foldl (fun mm k => satPut mm lane (off + k * m) m (slateIdentity op f).toNat) mm) h.satchel
      s.setMe { h.next with satchel := m', slates := h.slates.put id ⟨base, len, off, op, cfgCode h.vcfg⟩ })

/-- Fold one lane's copy of element `x` into memory at the home, unless it holds the identity (R333). -/
def State.foldLane (s : State) (e : Slate) (f : Fmt) (x : Nat) (va : Word) (loc lane : Nat) : State :=
  let h := s.me
  let m := f.width / 8
  let o := e.offset + x * m
  let c := BitVec.ofNat 64 (satGet h.satchel lane o m)
  if c = slateIdentity e.op f then s
  else
    let env := modeEnv h.fmode
    match s.atomicAt .scalar va loc m fun old => some (slateOp e.op f env (BitVec.ofNat 64 old) c).1.toNat with
    | none => s
    | some (t, old) =>
      t.upd fun h =>
        { h with satchel := satPut h.satchel lane o m (slateIdentity e.op f).toNat }.raise (slateOp e.op f env (BitVec.ofNat 64 old) c).2

/-- The locations of the elements of a merge, every gate passed before anything changes (R333). -/
def State.admitMerge (s : State) (els : List (Nat × Word)) (m : Nat) (acc : List (Nat × Word × Nat)) :
    State × List (Nat × Word × Nat) × Option (Word × Acc) :=
  match els with
  | [] => (s, acc, none)
  | (x, va) :: r =>
    match s.access .scalar .atomic va m with
    | .ok s loc => s.admitMerge r m (acc ++ [(x, va, loc)])
    | .wait t y => (t, acc, some (va, .wait t y))
    | a => (s, acc, some (va, a))

/-- Some lane's copy of element `x` of a slate does not hold the identity (R333). -/
def Hart.toFold (h : Hart) (e : Slate) (f : Fmt) (x : Nat) : Bool :=
  (List.range 32).any fun lane => BitVec.ofNat 64 (satGet h.satchel lane (e.offset + x * (f.width / 8)) (f.width / 8)) != slateIdentity e.op f

/-- `SMERGE` (R333): elements ascending, lanes ascending, each fold an atomic. Only an element with a fold is accessed. -/
def execSmerge (i : SReg) (s : State) : Host.Outcome State Fault Refusal :=
  let h := s.me
  let w := Instr.smerge i
  .next (
    if s.buffering s.cur && !h.parkedAt w then s.trap tIrrevocable (wordOf w)
    else
      match if (h.sget i).toNat < 32 then h.slates.find (h.sget i).toNat else none with
      | none => s.trap tSlate (h.sget i)
      | some e =>
        let f := (Fmt.ofCode e.fmt).getD .fp32
        let m := f.width / 8
        let ps := pagesOf e.base e.length
        match s.translateAll .write ps with
        | .fail s fl va => s.failScalar .write fl va
        | .wait s y => s.park y w
        | .ok s =>
          let els := ((List.range (e.length / m)).filter (h.toFold e f)).map fun x => (x, e.base + BitVec.ofNat 64 (x * m))
          if (List.range 32).any fun lane => h.satBad lane e.offset e.length then s.machineCheck false 0 (codeAddr 2)
          else
            let (t, locs, st) := s.admitMerge els m []
            match st with
            | some (_, .wait t y) => t.parkHold y w ps
            | some (va, a) => t.scalarStop w .atomic va a
            | none =>
              if !t.linesFit (locs.map fun p => (p.2.1, p.2.2, m)) then t.parkHold .overflow w ps
              else (locs.foldl (fun s p => (List.range 32).foldl (fun s lane => s.foldLane e f p.1 p.2.1 p.2.2 lane) s) t).upd Hart.next)

/-! ## Lockets (R342, R344, R355) -/

/-- The length of a locket is refused (R342): no multiple of 8, more than 2^32, or a range that crosses bit 57. The model takes a range to cross it where its
last byte is not canonical or lies in the other half of the address space than the base, or where the range passes 2^64 (DESIGN CHOICE, log 43). -/
def locketLenBad (b l : Word) : Bool :=
  l.toNat % 8 != 0 || 2 ^ 32 < l.toNat || !canonical (BitVec.ofNat 64 (b.toNat + l.toNat - 1)) || 2 ^ 64 < b.toNat + l.toNat
    || b.getLsbD 56 != (BitVec.ofNat 64 (b.toNat + l.toNat - 1)).getLsbD 56
def locketBaseBad (b : Word) : Bool := b.toNat % 8 != 0 || !canonical b

/-- `LKDECL` (R342). -/
def execLkdecl (i b l : SReg) (s : State) : Host.Outcome State Fault Refusal :=
  let h := s.me
  let id := h.sget i
  let base := h.sget b
  let len := h.sget l
  .next (
    if s.holdsLocket s.cur || 63 < id.toNat then s.trap tLocket id
    else
      match s.myGroup? with
      | none => s.upd Hart.next
      | some (gn, g) =>
        let cur := g.lockets.find id.toNat
        let put := fun (x : Locket) => (s.setGroup gn { g with lockets := g.lockets.put id.toNat x }).upd Hart.next
        if len = 0 then
          match cur with
          | some x => if x.holder.isSome then s.trap tLocket id else (s.setGroup gn { g with lockets := g.lockets.drop id.toNat }).upd Hart.next
          | none => s.upd Hart.next
        else if locketBaseBad base then s.trap tLocket base
        else if locketLenBad base len then s.trap tLocket len
        else
          match cur with
          | some x => if x.base = base && x.length = len.toNat then s.upd Hart.next else s.trap tLocket base
          | none =>
            if g.lockets.any fun e => overlaps base.toNat len.toNat e.2.base.toNat e.2.length then s.trap tLocket base
            else put ⟨base, len.toNat, none, [], Clock.zero⟩)

/-- `LKSTAT`: bit j while the task holds locket j (R355). -/
def execLkstat (d : SReg) (s : State) : Host.Outcome State Fault Refusal :=
  let x := match s.myGroup?, s.me.member with
    | some (_, g), some id => g.lockets.foldl (fun n e => if e.2.holder = some id then n + 2 ^ e.1 else n) 0
    | _, _ => 0
  .next (s.upd fun h => (h.sput d (BitVec.ofNat 64 x)).next)

/-- `LKSEN` (R344). -/
def execLksen (d : SReg) (s : State) : Host.Outcome State Fault Refusal :=
  let t := s.me.task
  let x := t.stamp % 2 ^ 62 + (if t.restarted then 2 ^ 62 else 0) + (if t.irrevocable then 2 ^ 63 else 0)
  .next (s.upd fun h => (h.sput d (BitVec.ofNat 64 x)).next)

end Sys2Proof.Machine
end

