-- ==== Sys2Proof/Machine/Group.lean ====
section
/-! DEFINITION. The life of a group and its members: places, starts, restarts, ends and failures, and what they leave behind in
kernels, queues, pools and contexts (R273-R290, R299, R322, R348, R353, R359, R360). -/

namespace Sys2Proof.Machine

/-! ## Memory of a context as the device reads and writes it, in the view of Q0 (log 15) -/

/-- The translation of an address of a context (R376-R384); no window of R225 belongs to the device itself. -/
def State.deviceTrans (s : State) (asid : Nat) (va : Word) : Option Trans :=
  if !canonical va || inWindow va then none
  else
    match s.cached 0 asid va with
    | some t => some t
    | none =>
      match s.walkFrom 0 va (s.ctx asid).root 4 with
      | .inl _ => none
      | .inr (e, at_, level) => some (transOf asid va e at_ level)

/-- The bytes that the device is to read lie in host memory while the host link is down: the read waits for the link (R7; log 35). -/
def State.deviceAway (s : State) (asid : Nat) (va : Word) (n : Nat) : Bool :=
  s.hostLink.isNone && (pagesOf va n).any fun a => (s.deviceTrans asid a).any fun t => inHostMem (t.loc a)

/-- The location of a byte that the device reads (R381); none where it holds an uncorrectable soft error (log 15). -/
def State.deviceLoc (s : State) (asid : Nat) (va : Word) : Option Nat :=
  match s.deviceTrans asid va with
  | some t => if pteR t.leaf && !s.unlinked (t.loc va) && !s.corrupt (t.loc va) 1 then some (t.loc va) else none
  | none => none

def State.deviceBytes (s : State) (asid : Nat) (va : Word) (n : Nat) : Option (List Byte) :=
  (List.range n).mapM fun i => (s.deviceLoc asid (va + BitVec.ofNat 64 i)).map fun loc => s.viewByte 0 .h loc

/-- A machine-check that an access of the device's own raises on a context: no hart takes it (R372, R375, R384). -/
def State.deviceSoft (s : State) (asid : Nat) (va : Word) : State := s.record ⟨4, asid, 0xFFFF, tMachine, 0, va, 0⟩

/-- The device walks the pages of the `n` bytes it is to read, caches their translations and sets their a bits (R383, R384); an uncorrectable soft error of a walk
or of the bytes raises a machine-check. -/
def State.deviceLook (s : State) (asid : Nat) (va : Word) (n : Nat) : State :=
  (partsOf va n).foldl (fun s p =>
    let a := p.1
    if !canonical a || inWindow a then s
    else
      let s :=
        match s.cached 0 asid a with
        | some _ => s
        | none =>
          match s.walkFrom 0 a (s.ctx asid).root 4 with
          | .inl f => if f = Fail.corrupt then s.deviceSoft asid a else s
          | .inr (e, at_, level) => s.fill 0 (transOf asid a e at_ level)
      match s.cached 0 asid a with
      | some t => if !s.unlinked (t.loc a) && s.corrupt (t.loc a) p.2 then s.deviceSoft asid a else s
      | none => s) s

/-- The location of an address that the device writes: its own words lie in pages that programs may only read (R284, R287), so a leaf need not
allow a program's write; a page that is copy-on-write takes none, and one that is migrating, or in host memory without the host link, takes none yet (log 15). -/
def State.deviceDest (s : State) (asid : Nat) (va : Word) : Option (Trans × Nat) :=
  match s.deviceTrans asid va with
  | some t => if pteState t.leaf = 2 || pteState t.leaf = 4 || s.unlinked (t.loc va) then none else some (t, t.loc va)
  | none => none

/-- A write of the device waits: for a recess, for a migrating page, or for the host link (R7, R381, R394); into a page that is copy-on-write it is not made. -/
def State.deviceWaits (s : State) (asid : Nat) (va : Word) : Bool :=
  s.stalled || (s.deviceTrans asid va).any fun t => pteState t.leaf == 4 || (pteState t.leaf != 2 && s.unlinked (t.loc va))

/-- The walk of an address that the device writes meets an uncorrectable soft error (R384). -/
def State.deviceCorrupt (s : State) (asid : Nat) (va : Word) : Bool :=
  canonical va && !inWindow va && (s.cached 0 asid va).isNone &&
    (match s.walkFrom 0 va (s.ctx asid).root 4 with | .inl f => f == Fail.corrupt | .inr _ => false)

/-- Write one aligned 8-byte word of a context, a and d set before (R383), with the clock of the write; one that must wait is owed. A walk that meets an
uncorrectable soft error raises a machine-check, and the word is not written (R384). -/
def State.deviceWord (s : State) (asid : Nat) (va : Word) (x : Nat) : State × Clock :=
  if s.deviceWaits asid va then ({ s with owed := s.owed ++ [(asid, va, x)] }, Clock.zero)
  else
    match s.deviceDest asid va with
    | some (t, loc) =>
      let s := (if (s.cached 0 asid va).isSome then s else s.fill 0 t).markDirty 0 asid va
      s.homeWrite Clock.zero none .engine (cellsAt loc (leBytes 8 x))
    | none => (if s.deviceCorrupt asid va then s.deviceSoft asid va else s, Clock.zero)

/-- The words that the device owes are written, in their order, as far as they need wait no more. -/
def State.payOwed (s : State) : State :=
  s.owed.foldl (fun s w => (s.deviceWord w.1 w.2.1 w.2.2).1) { s with owed := [] }

/-- Write aligned 8-byte words of a context, after those owed; with the clock of the writes. -/
def State.deviceWrite (s : State) (asid : Nat) (va : Word) (ws : List Nat) : State × Clock :=
  ws.zipIdx.foldl (fun (s, c) w =>
    let (s, v) := s.deviceWord asid (va + BitVec.ofNat 64 (8 * w.2)) w.1
    (s, c.max v)) (if s.owed.isEmpty then s else s.payOwed, Clock.zero)

/-! ## Kernels (R284, R285) -/

/-- The state word of a kernel (R284). -/
def Kernel.word (k : Kernel) : Nat :=
  (if k.retired then 2 else if k.groups = 0 then 0 else 1) + (if k.retiring then 4 else 0) + k.groups * 65536

def State.kernel? (s : State) (asid : Nat) (rec : Word) : Option Kernel := s.kernels.find? fun k => k.asid == asid && k.record == rec

/-- Change a kernel and its state word. -/
def State.setKernel (s : State) (k : Kernel) : State :=
  let s := { s with kernels := s.kernels.map fun (x : Kernel) => if x.asid = k.asid && x.record = k.record then k else x }
  (s.deviceWrite k.asid (k.record + 16) [k.word]).1

/-- Retire a kernel: its pages are unmapped by the host, its weight range is released. -/
def Kernel.retire (k : Kernel) : Kernel := { k with retired := true, retiring := false, weightLen := 0 }

/-- A group of a kernel stops counting (R285). -/
def State.kernelDone (s : State) (asid : Nat) (rec : Word) : State :=
  match s.kernel? asid rec with
  | none => s
  | some k =>
    let k := { k with groups := k.groups - 1 }
    s.setKernel (if k.groups = 0 && k.retiring then k.retire else k)

/-! ## Queues and contexts follow (R299, R359) -/

/-- A group counts while it is pending or running (R285). -/
def Group.counts (g : Group) : Bool := g.state == .pending || g.state == .running

def State.ctxCounts (s : State) (asid : Nat) : Bool := s.groups.any fun e => e.2.asid == asid && e.2.counts
def State.queueCounts (s : State) (q : Nat) : Bool := s.groups.any fun e => e.2.queue == some q && e.2.counts

/-- A context without a group that counts is loaded, not running. -/
def State.settleCtx (s : State) (asid : Nat) : State :=
  let c := s.ctx asid
  if c.state = .running && !s.ctxCounts asid then s.setCtx asid { c with state := .loaded } else s

/-- An active queue with nothing pending is empty. -/
def State.settleQueue (s : State) (q : Nat) : State :=
  let x := s.queue q
  if x.state = .active && x.ring.isEmpty && x.taken.isNone && !s.queueCounts q
      && (x.graph = .none || x.graph = .done || x.graph = .stopped) then s.setQueue q { x with state := .empty }
  else s

/-- A queue enters fault (R299, R300). -/
def State.queueFault (s : State) (q code node from_ : Nat) : State :=
  let x := s.queue q
  if x.state = .empty || x.state = .active then s.setQueue q { x with state := .fault, fault := code, node := node, from_ := from_ } else s

/-- The graph of a queue stops (R313). -/
def State.stopGraph (s : State) (q : Nat) : State :=
  let x := s.queue q
  if x.graph = .running then s.setQueue q { x with graph := .stopped } else s

/-- A node takes a state. -/
def State.setNode (s : State) (q j : Nat) (st : NodeState) : State :=
  let x := s.queue q
  s.setQueue q { x with nodes := x.nodes.zipIdx.map fun e => if e.2 = j then { e.1 with state := st } else e.1 }

/-- The graph is done when every node is, unless it has stopped (R313). -/
def State.settleGraph (s : State) (q : Nat) : State :=
  let x := s.queue q
  if x.graph = .running && x.nodes.all (fun n => n.state == .done) then (s.setQueue q { x with graph := .done }).settleQueue q else s

/-! ## Places (R275) -/

/-- `n` rounded up to a power of two (at most 32). -/
def roundUp (n : Nat) : Nat :=
  if n ≤ 1 then 1 else if n ≤ 2 then 2 else if n ≤ 4 then 4 else if n ≤ 8 then 8 else if n ≤ 16 then 16 else 32

/-- The slot of member `m` on place `k` of a cluster, for groups of `n` members. -/
def placeSlot (cluster k n m : Nat) : Nat := 32 * cluster + k * roundUp n + m

def Group.teams (g : Group) : Nat := g.x * g.y
def Group.placeNo (g : Group) (t : Nat) : Nat := t % g.places.length
def Group.place? (g : Group) (t : Nat) : Option Place := g.places[g.placeNo t]?

/-- Top of the stack of a member; 0 without a stack (R289). -/
def Group.stackTop (g : Group) (id : MemberId) : Word :=
  if g.stackBytes = 0 then 0
  else match g.place? id.team with
    | some p => BitVec.ofNat 64 (p.stackOf.getD id.member 0 + g.stackBytes)
    | none => 0

/-! ## A hart at its start (R288) -/

/-- `grpcoord` (R86). -/
def Group.coord (g : Group) (id : MemberId) (stage : Nat) : Word :=
  BitVec.ofNat 64 (id.member + stage * 2 ^ 8 + id.team % g.x * 2 ^ 16 + id.team / g.x * 2 ^ 24)

/-- The scalar registers at hart start: arguments, stack top, launch record. -/
def Group.startRegs (g : Group) (id : MemberId) : Vector Word 32 :=
  Vector.ofFn fun (i : Fin 32) =>
    if i.val = 0 then 0 else if i.val ≤ 15 then g.args.getD (i.val - 1) 0
    else if i.val = 30 then g.stackTop id else if i.val = 31 then g.record else 0

/-- A member at the entry of a stage. -/
def Group.startHart (g : Group) (id : MemberId) (stage : Nat) (tvec : Word) : Hart :=
  { Hart.reset with
    run := .running
    member := some id
    s := g.startRegs id
    pc := g.entry.getD stage 0
    grpcoord := g.coord id stage
    asid := g.asid
    ltvec := tvec }

/-- The restarted state of a member (R348, R281): registers as at start, W0 to W7, a soft error in one of them (R372), and what belongs to the member kept. A pending pre-emption
waits for its next `SETVL` (R356); an overrun of the discarded run is void (R374). A timed-out twin attempt of the partner that was kept for this side's
next one (R215) goes with the discarded run (DEDUCED, log 28). -/
def State.restartHart (s : State) (h : Hart) (id : MemberId) (stage : Nat) (task : Task) : Hart :=
  match s.group? id.group with
  | none => h
  | some g =>
    { g.startHart id stage (s.ctx g.asid).ltvec with
      run := h.run
      w := h.w
      wclk := h.wclk
      marks := h.marks
      seniority := BitVec.ofNat 64 task.stamp
      task := task
      preempt := h.preempt.map fun p => { p with bound := none }
      clock := h.clock
      seen := h.seen
      seenV := h.seenV
      saveArea := h.saveArea
      faultSeq := h.faultSeq
      bad := h.bad.filter fun p => match p with | .w _ => true | _ => false }

/-! ## Save areas of the pool (R360) -/

/-- Give the area of a member back to the pool and unpin it. -/
def State.returnArea (s : State) (id : MemberId) (q : Nat) (area : Option Word) : State :=
  match s.group? id.group with
  | none => s
  | some g =>
    let s := match area with
      | some a => s.unpinArea q g.asid a
      | none => s
    match g.members.find id.key with
    | none => s
    | some m =>
      let c := s.ctx g.asid
      let s := match m.area with
        | some a => s.setCtx g.asid { c with areas := c.areas.filter (· != a) }
        | none => s
      s.setGroup id.group { g with members := g.members.put id.key { m with area := none } }

/-- The free areas of a context's pool, lowest first. -/
def Ctx.freeAreas (c : Ctx) : List Word :=
  ((List.range (c.saveLen * 4096 / Config.saveSize)).map fun i => c.saveBase + BitVec.ofNat 64 (i * Config.saveSize)).filter
    fun a => !c.areas.contains a

/-- A `SAVEPIN` of the runtime for the member in a slot has failed: the record, or the machine-check of a walk (R384, R385). -/
def State.pinFailed (s : State) (k : Nat) (f : Fail) (va : Word) : State :=
  if f = Fail.corrupt then s.record ⟨4, (s.hart k).asid, k, tMachine, (s.hart k).pc, va, 0⟩
  else if s.unanswered k then s
  else s.asSlot k fun s => s.sendFault .pin f va false s.me.pc 0

/-- The first of some areas whose pages pin now; `waits` says that one before it must wait for a recess or a migrating page (R382). -/
def State.pickArea (s : State) (k : Nat) (as : List Word) (waits : Bool) : State × Option Word × Bool :=
  match as with
  | [] => (s, none, waits)
  | a :: r =>
    let cur := s.cur
    match ({ s with cur := k }).translateAll .pin (pagesOf a Config.saveSize) with
    | .ok t => ({ t with cur := cur }, some a, false)
    | .wait t _ => ({ t with cur := cur }).pickArea k r true
    | .fail t f va => (({ t with cur := cur }).pinFailed k f va).pickArea k r waits

/-- Take an area of the pool for the member that is to begin in a slot, as Isaber's runtime does with `SAVEPIN` (R360): the lowest free one whose
pages pin. While a pin must wait, the member does not begin; it begins without an area where the pool has none left that pins (log 52). -/
def State.takeArea (s : State) (k : Nat) : State × Option Word :=
  let h := s.hart k
  match s.pickArea k (s.ctx h.asid).freeAreas false with
  | (t, some a, _) =>
    let t := t.pinArea (slotQuarter k) h.asid a
    let t := t.setCtx h.asid { t.ctx h.asid with areas := a :: (t.ctx h.asid).areas }
    (t.setHart k { t.hart k with saveArea := some a, wait := none }, some a)
  | (t, none, true) => (t.setHart k { t.hart k with wait := some ⟨.area, .nop, [], 0⟩ }, none)
  | (t, none, false) => (t.setHart k { t.hart k with wait := none }, none)

/-! ## Leaving a slot -/

def State.coreFree (s : State) (c : Nat) : Bool := (coreSlots c).all fun k => (s.hart k).run == .free

/-- The hart in a slot leaves it: every write of its history is applied in all four views, its `WMSET`s among them (R265); the writes are
the hart's own no more (R251). That is the device's own work, which a recess does not hold (log 36). -/
def State.leaveView (s : State) (k : Nat) : State :=
  let s := s.settleAll (s.hart k).clock
  (s.setHart k ((s.hart k).showMarks [0, 1, 2, 3])).disown k

/-- A slot becomes free, its twin partner apart (R200, R265, R296). -/
def State.vacate (s : State) (k : Nat) : State :=
  let h := s.hart k
  let s := ((s.leaveView k).dropHandles k).freeArray k
  let s := match h.member with
    | some id => s.dropWaiter id.group k
    | none => s
  let s := s.setHart k { Hart.reset with faultSeq := h.faultSeq }
  let c := s.core (slotCore k)
  if s.coreFree (slotCore k) then s.setCore (slotCore k) { c with lastBusy := s.beacon } else s

/-- A hart leaves its slot for good (R215). -/
def State.freeSlot (s : State) (k : Nat) : State := (s.vacate k).leavePair k (s.hart k)

/-- A rollback of the task in a slot (R348). -/
def State.rollback (s : State) (k : Nat) : State :=
  let h := s.hart k
  match h.member with
  | none => s
  | some id =>
    let s := ((s.dropHandles k).freeArray k).dropWaiter id.group k
    let s := s.setHart k (s.restartHart h id h.stage { h.task with restarted := true, irrevocable := false, committing := false })
    (s.releaseLockets id).leavePair k h

/-! ## Barriers of a failing group (R322) -/

/-- Break an open barrier at a location and release its waiters with status 1. -/
def State.breakAt (s : State) (loc : Nat) : State :=
  let s := s.settleHome Clock.zero loc
  let b := Bar.of (s.viewNat (homeOf loc) .h loc 32)
  if b.initialised && b.state = 1 then
    let (t, v) := s.homeWrite (s.readClock (homeOf loc) .h loc 32) none .engine (cellsAt loc (leBytes 32 { b with state := 2 }.toNat))
    t.releaseWaiters loc 1 v
  else s

/-- The location of the barrier a hart is parked on. -/
def Hart.barrierLoc (h : Hart) : Option Nat :=
  match h.wait with
  | some ⟨.barrier l _, _, _, _⟩ => some l
  | _ => none

/-- Barriers with parked waiters that the failure of a group breaks: named by it, or one of its harts is parked there. -/
def State.brokenBy (s : State) (gn : Nat) : List Nat :=
  ((s.harts.filterMap fun e =>
    match e.2.barrierLoc with
    | none => none
    | some l =>
      let b := Bar.of (s.viewNat (homeOf l) .h l 32)
      if b.group = gn || e.2.member.map (·.group) = some gn then some l else none)).dedup

/-! ## Ends -/

/-- The stacks of a group go back to the pool (R289). -/
def State.returnStacks (s : State) (g : Group) : State :=
  let c := s.ctx g.asid
  let mine := if g.stackBytes = 0 then [] else g.places.flatMap (·.stackOf)
  s.setCtx g.asid { c with stackList := c.stackList.filter fun e => !mine.contains e.1 }

/-- A hart of an ended group that keeps its slot, frozen, keeps no array (R200). -/
def State.freeArrays (s : State) (gn : Nat) : State :=
  s.cores.foldl (fun s c =>
    match c.2.owner with
    | some k => if (s.hart k).member.map (·.group) = some gn then s.freeArray k else s
    | none => s) s

/-- What every end of a group does: tiles, arrays, stacks, its kernel, its context, its queue (R192, R278, R285). -/
def State.groupEnds (s : State) (gn : Nat) : State :=
  match s.group? gn with
  | none => s
  | some g =>
    let s := (((s.releaseTiles gn).freeArrays gn).returnStacks g).kernelDone g.asid g.kernel
    let s := s.settleCtx g.asid
    match g.queue with
    | some q => s.settleQueue q
    | none => s

def State.setMember (s : State) (id : MemberId) (f : Member → Member) : State :=
  match s.group? id.group with
  | none => s
  | some g =>
    match g.members.find id.key with
    | none => s
    | some m => s.setGroup id.group { g with members := g.members.put id.key (f m) }

/-- The hart's task is committing (R350). -/
def Hart.commits (h : Hart) : Bool := h.run == .running && h.task.committing

/-- Stop one member of a failing group: its task's buffered writes are discarded, its lockets released (R353). A task that is committing is not
touched, and ends at its commit (R354). A frozen hart keeps its slot until the host acts (R373). -/
def State.stopMember (s : State) (id : MemberId) : State :=
  match (s.group? id.group).bind fun g => g.members.find id.key with
  | none => s
  | some m =>
    match m.state with
    | .running k =>
      let h := s.hart k
      if h.commits then s
      else
        let s := s.setMember id fun m => { m with state := .stopped, saved := some { h with lines := [], spill := [] } }
        let s := s.releaseLockets id
        match h.run with
        | .running | .saving _ _ _ _ => (s.returnArea id (slotQuarter k) h.saveArea).freeSlot k
        | _ => s.setHart k { h with lines := [], spill := [], wound := false, task := { h.task with irrevocable := false } }
    | .saved =>
      let s := s.setMember id fun m => { m with state := .stopped }
      (s.releaseLockets id).returnArea id (slotQuarter m.slot) (m.saved.bind (·.saveArea))
    | _ => s

/-- The ready lists lose the records of a group. -/
def Record.group : Record → Nat
  | .team g _ => g
  | .member id => id.group

def State.dropRecords (s : State) (gn : Nat) : State :=
  { s with
    clusters := s.clusters.map fun c => (c.1, { c.2 with ready := c.2.ready.filter fun r => r.group != gn })
    steals := s.steals.map fun t => if t.record.map Record.group = some gn then { t with record := none } else t }

/-- A group enters failed (R278), with its node, if the graph still holds that (R313); `code` is the fault code its queue takes, none for a disable, a reset or a tear-down. -/
def State.failGroup (s : State) (gn : Nat) (code : Option Nat) : State :=
  match s.group? gn with
  | none => s
  | some g =>
    if !g.counts then s
    else
      let locs := s.brokenBy gn
      let s := s.setGroup gn { g with state := .failed }
      let s := (g.memberKeys.map fun k => (⟨gn, k / 32, k % 32⟩ : MemberId)).foldl State.stopMember s
      let s := (locs.foldl State.breakAt s).dropRecords gn
      let s := match g.queue with
        | none => s
        | some q =>
          let mine := g.node.filter fun j => (((s.queue q).nodes[j]?).bind fun (n : Node) => n.group) == some gn
          let s := match mine with
            | some j => (s.setNode q j .done).stopGraph q
            | none => s
          match code with
          | some c => s.queueFault q c (mine.getD 0) 0
          | none => s
      s.groupEnds gn

/-- A member fails, and its group with it (R278): a saved one gives up its lockets and its area as it fails (R353, R360). One that a failed group
left committing, and that came to no commit, stops too. -/
def State.failMember (s : State) (id : MemberId) : State :=
  let saved := ((s.group? id.group).bind fun g => g.members.find id.key).map (·.state) == some .saved
  let s := if saved then (s.stopMember id).setMember id fun m => { m with state := .failed } else s
  (s.failGroup id.group (some 1)).stopMember id

/-- The team of a member has ended when all its members have; then its strands are discarded, and the place is free (R276, R291). A failed group
stays failed (R278). -/
def State.teamEnds (s : State) (gn t : Nat) : State :=
  match (s.group? gn).filter (·.counts) with
  | none => s
  | some g =>
    let done := fun (t : Nat) => (List.range g.n).all fun m => (g.members.find (32 * t + m)).map (·.state) == some .ended
    if !done t then s
    else
      let items := (List.range 16).foldl (fun (x : Tbl (List (Word × Clock))) j => x.drop (16 * t + j)) g.items
      let places := g.places.zipIdx.map fun p => if p.2 = g.placeNo t then { p.1 with busy := false, wave := p.1.wave + 1 } else p.1
      let s := s.setGroup gn { g with items := items, places := places }
      if (List.range g.teams).all done then
        (s.setGroup gn { g with items := items, places := places, state := .complete, lockets := [] }).groupEnds gn
      else s

/-- The buffered bytes of a task, those waiting in its spill included. -/
def Line.cells (l : Line) : List Host.Cell :=
  ((List.range 64).filter fun o => l.valid.getLsbD o).map fun o => (l.pa + o, l.data.extractLsb' (8 * o) 8)

/-- A line of the buffer holds an uncorrectable soft error. -/
def Hart.badLine (h : Hart) : Bool := (h.lines ++ h.spill).any fun l => h.bad.contains (.line l.pa)

/-- The lines of the task in a slot are read, to be committed or spilled, and one holds an uncorrectable soft error: the machine-check, and the member
fails (R349, R372). -/
def State.lineFails (s : State) (k : Nat) : State :=
  let h := s.hart k
  let s := s.record ⟨4, h.asid, k, tMachine, h.wordAddr, codeAddr 3, h.velem.toNat⟩
  let s := s.setHart k { h with task := { h.task with committing := false } }
  match h.member with
  | some id => s.failMember id
  | none => s

/-- Issue the buffered writes of the task in a slot as one commit (R271, R350), d set first in the leaves that their translations came from (R383, log 21), with the clock it
leaves. The task's later accesses of both classes follow its own earlier stores of their class, which the commit holds together (R254). -/
def State.commitLines (s : State) (k : Nat) : State :=
  let h := s.hart k
  let ls := h.lines ++ h.spill
  match ls.flatMap Line.cells with
  | [] => s.setHart k { h with lines := [], spill := [] }
  | cells =>
    let s := ls.foldl (fun s l => s.setLeafBit l.leaves 9) s
    let (s, v) := s.issueWrite (slotQuarter k) h.clock (some k) .scalar .h cells
    (s.orderBoth (slotQuarter k) v).setHart k { h with lines := [], spill := [], clock := h.clock.max v }

/-- The buffered writes of the task in a slot cannot be issued yet: in a recess (R394), or into host memory without the host link (R7). -/
def State.commitWaits (s : State) (k : Nat) : Bool :=
  let ls := (s.hart k).lines ++ (s.hart k).spill
  !ls.isEmpty && (s.stalled || ls.any fun l => s.unlinked l.pa)

/-- The lockets of a member carry the clock of its commit to those who acquire them (R350). -/
def State.stampLockets (s : State) (id : MemberId) (c : Clock) : State :=
  match s.group? id.group with
  | none => s
  | some g => s.setGroup id.group { g with
      lockets := g.lockets.map fun l => if l.2.holder = some id then (l.1, { l.2 with clock := l.2.clock.max c }) else l }

/-- A member whose task has ended, as its group then stands: in one that has failed it counts as stopped, so that the group watermark keeps its
value (R270, R278). -/
def Member.atEnd (m : Member) (counts : Bool) (h : Hart) : Member :=
  if counts then { m with state := .ended, saved := none } else { m with state := .stopped, saved := some h }

/-- The end of the task in a slot (R278, R290): commit, lockets, handles, slot, member. -/
def State.endTask (s : State) (k : Nat) : State :=
  match (s.hart k).member with
  | none => s
  | some id =>
    if (s.hart k).badLine then s.lineFails k else
    let s := s.commitLines k
    let h := s.hart k
    let c := h.clock
    let area := h.saveArea
    let counts := (s.group? id.group).any (·.counts)
    let s := (s.stampLockets id c).releaseLockets id
    let s := (s.returnArea id (slotQuarter k) area).freeSlot k
    let s := s.setMember id fun m => m.atEnd counts h
    let s := match s.group? id.group with
      | some g => s.setGroup id.group { g with ended := g.ended.max c }
      | none => s
    s.teamEnds id.group id.team

/-! ## Starts (R276, R288, R343) -/

/-- Tiles of a group as `allocTiles` takes them. -/
def Group.tileSizes (g : Group) : List (Nat × Nat) := g.tiles.zipIdx.map fun e => (e.2, 4096 * e.1)

/-- The `.tile` entries of a group that a core's table does not hold for it. -/
def State.tilesMissing (s : State) (gn : Nat) (g : Group) (c : Nat) : List (Nat × Nat) :=
  g.tileSizes.filter fun e => ((s.core c).tile e.1).group != some gn
/-- A core's table holds the `.tile` entries of a group, or can take them (R277, R288). -/
def State.coreTakes (s : State) (gn : Nat) (g : Group) (c : Nat) : Bool :=
  ((s.core c).allocTiles gn (s.tilesMissing gn g c)).isSome

/-- Allocate the `.tile` entries the first time a member starts or resumes on a core (R288). -/
def State.tileCore (s : State) (gn c : Nat) : State :=
  match s.group? gn with
  | none => s
  | some g =>
    if g.tiled.contains c then s
    else
      match (s.core c).allocTiles gn g.tileSizes with
      | none => s
      | some x =>
        let s := (s.setCore c x).setGroup gn { g with tiled := g.tiled ++ [c] }
        g.tileSizes.foldl (fun s e => if e.2 = 0 then s else s.emptyTile c e.1) s

/-- A member starts in a slot. -/
def State.startMember (s : State) (gn t m k : Nat) : State :=
  match s.group? gn with
  | none => s
  | some g =>
    let id : MemberId := ⟨gn, t, m⟩
    let stage := m % g.stages
    let stamp := s.nextStamp
    let old := s.hart k
    let s := { s with nextStamp := stamp + 1 }
    let s := s.setHart k { g.startHart id stage (s.ctx g.asid).ltvec with
      seniority := BitVec.ofNat 64 stamp
      task := ⟨stamp, false, false, false⟩
      clock := g.clock
      seen := g.clock
      seenV := g.clock
      faultSeq := old.faultSeq }
    let s := (s.wakeCore (slotCore k)).tileCore gn (slotCore k)
    let (s, area) := s.takeArea k
    match s.group? gn with
    | some g => s.setGroup gn { g with members := g.members.put id.key ⟨.running k, stage, none, k, area⟩ }
    | none => s

/-- The member that is to begin in the executing slot takes its area, if its pages pin by now (R360, R382). -/
def State.arm (s : State) : State :=
  let (s, area) := s.takeArea s.cur
  match s.me.member with
  | some id => s.setMember id fun m => { m with area := area }
  | none => s

/-- All members of a team start together on its place (R276). -/
def State.startTeam (s : State) (gn t : Nat) : State :=
  match s.group? gn with
  | none => s
  | some g =>
    match g.place? t with
    | none => s
    | some p =>
      let places := g.places.zipIdx.map fun x => if x.2 = g.placeNo t then { x.1 with busy := true } else x.1
      let s := s.setGroup gn { g with places := places }
      (List.range g.n).foldl (fun s m => s.startMember gn t m (placeSlot p.cluster p.k g.n m)) s

/-- The member slots of a place are free and not reserved. A place is free, as R305 asks, by its n member slots alone: a slot of it that no member would take
may be another group's (DESIGN CHOICE, log 51). -/
def State.placeFree (s : State) (cluster k n : Nat) : Bool :=
  (List.range n).all fun m =>
    let x := placeSlot cluster k n m
    (s.hart x).run == .free && !s.reserved.any fun r => r.1 == x

/-- The member slots of a place lie on cores that can take the group's tiles (R288, R305). -/
def State.placeTakes (s : State) (gn : Nat) (g : Group) (cluster k : Nat) : Bool :=
  (List.range g.n).all fun m => s.coreTakes gn g (slotCore (placeSlot cluster k g.n m))

/-- The next team of a place, if one is left. -/
def Group.nextTeam (g : Group) (place : Nat) : Option Nat :=
  match g.places[place]? with
  | some p => if !p.busy && p.wave * g.places.length + place < g.teams then some (p.wave * g.places.length + place) else none
  | none => none

end Sys2Proof.Machine
end

