-- ==== Sys2Proof/Machine/Save.lean ====
section
/-! DEFINITION. Saving and restoring a hart, pre-emption, wounds, and `SETVL`, which takes them (R109, R110, R279-R281, R347,
R353, R360-R367). -/

namespace Sys2Proof.Machine

/-! ## The save area (R362, R363) -/

/-- Bytes of a vector of registers of `n` bytes each. -/
def regBytes {w : Nat} (l : List (BitVec w)) (n : Nat) : List Byte := l.flatMap fun x => bytesOf x 0 n

/-- A slate entry: base, then the operand of `SLATE` with the format code in bits [31:28]. -/
def slateBytes (t : Tbl Slate) (i : Nat) : List Byte :=
  match t.find i with
  | some e => bytesOf e.base 0 8 ++ leBytes 8 (e.length + e.offset * 2 ^ 16 + e.op * 2 ^ 26 + e.fmt.toNat * 2 ^ 28)
  | none => zeroBytes 16

/-- The control registers in their order in the save area. -/
def saveCtrl (h : Hart) (slot : Nat) : List Word :=
  [h.fmode, h.vcfg, h.vlgrant, h.velem, h.lcause, h.lepc, h.lvelem, h.laddr, h.lstat, h.ltvec, h.lhold, h.seniority, h.grpcoord,
    BitVec.ofNat 64 slot]

/-- The 8 KiB that stand for the vector resume state: bytes of the device's own (R369, log 10). -/
def resumeBytes (serial : Nat) : List Byte := (List.range 8192).map fun i => Config.resumeByte serial (0x1000 + i)

/-- The spill directory and lines (R362); beyond the lines, bytes of the device's own. -/
def spillBytes (serial : Nat) (ls : List Line) : List (Nat × List Byte) :=
  let dir := ls.flatMap fun l => bytesOf l.va 0 8 ++ bytesOf l.valid 0 8
  let data := ls.flatMap fun l => bytesOf l.data 0 64
  let fill := fun base used size => (List.range (size - used)).map fun i => Config.resumeByte serial (base + used + i)
  [(0x2B000, dir ++ fill 0x2B000 dir.length 0x4000), (0x2F000, data ++ fill 0x2F000 data.length 0x10000)]

/-- What of a save is present. -/
structure SaveKind where
  vec : Bool
  array : Bool
  spill : Bool
  deriving DecidableEq, Repr

/-- The sections a save writes, header last (R364). -/
def saveSections (h : Hart) (slot serial : Nat) (k : SaveKind) (image : List Byte) : List (Nat × List Byte) :=
  [(0x40, zeroBytes 8 ++ regBytes (h.s.toList.drop 1) 8), (0x140, regBytes (saveCtrl h slot) 8 ++ zeroBytes 16), (0x1C0, regBytes h.w.toList 8),
    (0x200, regBytes h.d.toList 8),
    (0x280, bytesOf h.arrival.addr 0 8 ++ leBytes 8 h.arrival.phase.toNat ++ leBytes 16 (if h.arrival.valid then 1 else 0) ++ zeroBytes 32)] ++
  (if k.vec then [(0x400, bytesOf (BitVec.allOnes 256) 0 32 ++ regBytes (h.m.toList.drop 1) 32)] else []) ++
  [(0x600, (List.range 32).flatMap (slateBytes h.slates)), (0x1000, resumeBytes serial)] ++
  (if k.vec then [(0x3000, regBytes h.v.toList 256)] else []) ++
  [(0x5000, regBytes h.z.toList 8192), (0xD000, (List.range 32768).map h.satchel.get), (0x15000, regBytes h.p.toList 4096)] ++
  (if k.array then [(0x25000, image)] else []) ++
  (if k.spill then spillBytes serial h.spill else [])

/-- The header (R363). -/
def saveHeader (h : Hart) (serial : Nat) (k : SaveKind) (valid : Bool) : List Byte :=
  leBytes 8 (2 + (if valid then 2 ^ 32 else 0) + (if k.vec then 2 ^ 33 else 0) + (if k.array then 2 ^ 34 else 0)
    + (if k.spill then 2 ^ 35 else 0) + 2 ^ 36) ++
  leBytes 8 (if k.spill then h.spill.length else 0) ++ leBytes 8 (crc32 (resumeBytes serial)).toNat ++ zeroBytes 40

/-- The 64-byte units of a list of sections, by save index. -/
def unitsOf (l : List (Nat × List Byte)) : List (Nat × List Byte) :=
  l.flatMap fun e => (List.range (e.2.length / 64)).map fun u => (e.1 / 64 + u, (e.2.drop (64 * u)).take 64)

/-- The host has unmapped a pinned page. R382 keeps the translation of one for every access, a host edit having no effect; the example of R365 has a save fault there.
Whether a store of a save faults is a free value, so that either can be (DESIGN CHOICE, log 53). -/
def State.pinLost (s : State) (q asid serial : Nat) (va : Word) : Option Fail :=
  if Config.pinLost serial va && s.pins.any fun p => p.trans.covers asid va then
    match s.walkFrom q va (s.ctx asid).root 4 with
    | .inl f => if f.reason = 1 then some f else none
    | .inr _ => none
  else none

/-- Write units through the translations of a save area, ascending: the cells to write, and the unit that faulted; `lost` says which units lie in a page
that is lost. -/
def State.placeUnits (s : State) (q c asid : Nat) (area : Word) (lost : Nat → Option Fail) (us : List (Nat × List Byte)) (acc : List Host.Cell) :
    State × List Host.Cell × Option (Nat × Option Fail) :=
  match us with
  | [] => (s, acc, none)
  | (u, bs) :: r =>
    let va := area + BitVec.ofNat 64 (64 * u)
    match match lost u with | some f => Tr.fail f | none => s.translate q c asid .write va with
    | .ok s loc => (s.markDirty q asid va).placeUnits q c asid area lost r (acc ++ cellsAt loc bs)
    | .fail f => (s, acc, some (u, some f))
    | .wait s _ => (s, acc, some (u, none))

/-- Write the units of a save from a slot on the H path and apply them everywhere (R265, R364). -/
def State.writeUnits (s : State) (k : Nat) (area : Word) (lost : Nat → Option Fail) (us : List (Nat × List Byte)) :
    State × Option (Nat × Option Fail) :=
  let h := s.hart k
  let (s, cells, out) := s.placeUnits (slotQuarter k) (slotCore k) h.asid area lost us []
  match cells with
  | [] => (s, out)
  | _ =>
    let (s, v) := s.issueWrite (slotQuarter k) h.clock none .engine .h cells
    (s.settleAll v, out)

/-- The image of the array that a slot owns. -/
def State.imageOf (s : State) (k : Nat) (twin : Bool) : Option (List Byte) :=
  let c := s.core (slotCore k)
  if c.owner = some k then some (scanImage c ((s.hart k).z.getD 0 0) twin) else none

/-! ## Saving a hart (R364, R365, R367) -/

/-- The record of a save area that is missing or fails its checks, and the failure of the member (R360, R364). -/
def State.areaMissing (s : State) (asid slot : Nat) (h : Hart) (id : MemberId) : State :=
  (s.record ⟨6, asid, slot, tSave, h.lepc, h.laddr, h.lvelem.toNat % 65536⟩).failMember id

/-- The saved member leaves its slot and becomes a ready record of its cluster (R316, R367). A twin partner in paired-wait starts its attempt again,
with a fresh bound, and takes no trap (R215, R374; log 28). -/
def State.leaveSaved (s : State) (k : Nat) (array : Bool) : State :=
  let h := s.hart k
  match h.member with
  | none => s
  | some id =>
    let s := s.setMember id fun m => { m with state := .saved, slot := k, saved := some { h with image := array || h.image, preempt := [] } }
    let s := (s.vacate k).partnerLeft k h
    let c := s.cluster (slotCluster k)
    s.setCluster (slotCluster k) { c with ready := c.ready ++ [.member id] }

/-- The store of a unit of a save does not go through. A page fault is a save fault (R365): the records, and the hart frozen in its slot. A store that
waits leaves the hart there until it may go on (R382), and an uncorrectable soft error of its walk is a machine-check of the hart, which has entered system mode
(R372, R373, R384). -/
def State.saveFaulted (s : State) (k : Nat) (f : Option Fail) (unit serial : Nat) (vec twin : Bool) (area : Word) : State :=
  let h := s.hart k
  let va := area + BitVec.ofNat 64 (64 * unit)
  match f with
  | none => s.setHart k { h with run := .saving unit serial vec twin }
  | some f =>
    if f = Fail.corrupt then (s.setHart k { h with run := .running }).asSlot k fun s => s.machineCheck false 0 va
    else
      let s := s.record ⟨2, h.asid, k, 0, h.lepc, h.laddr, unit⟩
      let s := s.asSlot k fun s => s.sendFault .write f va false h.lepc 0
      s.setHart k { s.hart k with run := .saveFault unit serial vec twin }

/-- Save the hart in a slot from a unit on, its state as the pre-emption trap left it, with its history applied in all four views (R265); `twin` says that a
half was discarded (R217). -/
def State.saveFrom (s : State) (k serial : Nat) (vec : Bool) (unit : Nat) (twin : Bool) : State :=
  let s := s.settleAll (s.hart k).clock
  let s := s.setHart k ((s.hart k).showMarks [0, 1, 2, 3])
  let h := s.hart k
  match h.member, h.saveArea with
  | some id, none => s.areaMissing h.asid k h id
  | none, _ => s
  | some _, some area =>
    let image := s.imageOf k twin
    let kind : SaveKind := ⟨vec, image.isSome || h.image, !h.spill.isEmpty⟩
    let us := (unitsOf (saveSections h k serial ⟨vec, image.isSome, kind.spill⟩ (image.getD []))).filter fun u => unit ≤ u.1
    let lost := fun u => s.pinLost (slotQuarter k) h.asid serial (area + BitVec.ofNat 64 (64 * u))
    match s.writeUnits k area lost us with
    | (s, some (u, f)) => s.saveFaulted k f u serial vec twin area
    | (s, none) =>
      match s.writeUnits k area lost [(0, saveHeader h serial kind true)] with
      | (s, some (u, f)) => s.saveFaulted k f u serial vec twin area
      | (s, none) => (s.setHart k { s.hart k with run := .running }).leaveSaved k image.isSome

/-- Holders of lockets of the device: their stamps (R353). -/
def State.holderStamps (s : State) : List Nat :=
  s.groups.flatMap fun g => g.2.lockets.filterMap fun l => match l.2.holder with | some id => (s.taskOf id).map (·.stamp) | none => none

/-- The task in a slot is the oldest holder of the device, or irrevocable. -/
def State.oldestHolder (s : State) (k : Nat) : Bool :=
  let t := (s.hart k).task
  t.irrevocable || s.holderStamps.all fun x => t.stamp ≤ x

/-- Where the scalar stream of a hart taken by a pre-emption goes on: at the word it executes, or after the `IDLE` it is parked in (R104). -/
def Hart.resumeAt (h : Hart) : Word :=
  match h.wait with
  | some ⟨.idle _ _, _, _, _⟩ => h.pc + 4
  | _ => h.pc

/-- Take a pre-emption of the hart in a slot (R367); `code` is what `laddr` holds. A block in the vector unit stops there (R366, R369). The stores of its
save wait out a recess, and the hart in its slot with them (R394). -/
def State.takePreempt (s : State) (k code : Nat) : State :=
  let old := s.hart k
  let rolled := s.holdsLocket k && !s.oldestHolder k
  if !rolled && old.badLine then s.lineFails k
  else
    let twin := !rolled && (match old.wait with | some ⟨.pair _ _, _, _, _⟩ => true | _ => false)
    let s := if rolled then s.rollback k else s.freezeArray k
    let s := if twin then (s.setHart k { s.hart k with wait := none }).leavePair k old else s
    let h := { s.hart k with pc := (s.hart k).resumeAt }
    let vec := h.blk.isSome
    let h := { (if vec then h.stopVector else h).enter tPreempt vec h.wordAddr (BitVec.ofNat 64 code) with
      preempt := [], spill := h.lines ++ h.spill, lines := [] }
    let s := s.setHart k h
    let (s, n) := s.draw
    let full := code != 0 && !rolled
    if s.stalled then s.setHart k { s.hart k with run := .saving 1 n full twin } else s.saveFrom k n full 1 twin

/-- A wound has struck a hart whose save a fault holds: it is saved in its restarted state (R347, R367). -/
def State.restartSave (s : State) (k : Nat) : State :=
  let h := s.hart k
  match h.member with
  | some id =>
    let r := s.restartHart h id h.stage { h.task with restarted := true, irrevocable := false }
    (((s.dropHandles k).freeArray k).dropWaiter id.group k).setHart k { r.enter tPreempt false r.pc h.laddr with preempt := [] }
  | none => s

/-- A save whose stores waited goes on, unit by unit; that of a wounded task with every unit in its restarted form. -/
def State.goOnSave (s : State) (k : Nat) : State :=
  match if s.stalled then .free else (s.hart k).run with
  | .saving unit n vec twin => if (s.hart k).wound then (s.restartSave k).saveFrom k n false 1 false else s.saveFrom k n vec unit twin
  | _ => s

/-- `RESUME_SAVE` (R365): the units from the one named, then the header. It waits out a recess. -/
def execResumeSave (slot unit : Nat) (s : State) : Host.Outcome State Fault Refusal :=
  let h := s.hart slot
  .next (
    match h.run with
    | .saveFault _ n vec twin => (s.setHart slot { h with run := .saving (max 1 unit) n vec twin }).goOnSave slot
    | _ => s)

/-! ## Restoring a hart (R364, R367) -/

/-- The parts of a save area as they are read back, by offset. -/
structure Area where
  parts : List (Nat × List Byte)

def Area.at_ (a : Area) (o n : Nat) : List Byte :=
  match a.parts.find? fun p => p.1 ≤ o && o < p.1 + p.2.length with
  | some p => (p.2.drop (o - p.1)).take n
  | none => zeroBytes n
def Area.nat (a : Area) (o n : Nat) : Nat := leNat (a.at_ o n)

/-- Read the parts of a save area that lie at some offsets; none where a page does not translate. -/
def State.areaParts (s : State) (k asid : Nat) (area : Word) (ps : List (Nat × Nat)) : Option (List (Nat × List Byte)) :=
  ps.mapM fun p => (s.areaBytes (slotQuarter k) (slotCore k) asid (area + BitVec.ofNat 64 p.1) p.2).map fun bs => (p.1, bs)

/-- The checks of R364. -/
def Area.ok (a : Area) : Bool :=
  a.nat 0 4 == 2 && a.nat 4 1 % 2 == 1 && a.nat 0 8 / 2 ^ 37 == 0 && a.nat 8 8 / 2 ^ 11 == 0 && a.nat 8 8 ≤ 1024 && a.nat 24 40 == 0
    && a.nat 16 8 == (crc32 (a.at_ 0x1000 8192)).toNat
def Area.bit (a : Area) (i : Nat) : Bool := a.nat 0 8 / 2 ^ i % 2 == 1

/-- The parts that a header says were saved (R364). -/
def Area.saved (a : Area) : List (Nat × Nat) :=
  let lines := min 1024 (a.nat 8 8)
  [(0x40, 0x280), (0x600, 0x200), (0x1000, 0x2000), (0x5000, 0x20000)] ++ (if a.bit 33 then [(0x400, 0x200), (0x3000, 0x2000)] else []) ++
    (if a.bit 35 && lines != 0 then [(0x2B000, (16 * lines + 63) / 64 * 64), (0x2F000, 64 * lines)] else [])

def Area.regs (a : Area) (o n w : Nat) : List (BitVec w) := (List.range n).map fun i => BitVec.ofNat w (a.nat (o + w / 8 * i) (w / 8))

/-- A vector of registers from a list. -/
def vecOf {w : Nat} (n : Nat) (l : List (BitVec w)) : Vector (BitVec w) n := Vector.ofFn fun (i : Fin n) => l.getD i.val 0

/-- The slate table of a save area. -/
def Area.slates (a : Area) : Tbl Slate :=
  (List.range 32).filterMap fun i =>
    let x := a.nat (0x608 + 16 * i) 8
    if x % 65536 = 0 then none
    else some (i, ⟨BitVec.ofNat 64 (a.nat (0x600 + 16 * i) 8), x % 65536, x / 2 ^ 16 % 1024, x / 2 ^ 26 % 4, BitVec.ofNat 4 (x / 2 ^ 28)⟩)

/-- The spilled lines: their addresses, valid bits and bytes as saved, their physical blocks as the device holds them. -/
def Area.lines (a : Area) (held : List Line) : List Line :=
  (List.range (a.nat 8 8)).map fun i =>
    let va := BitVec.ofNat 64 (a.nat (0x2B000 + 16 * i) 8)
    let l := held.getD i ⟨0, 0, 0, 0, []⟩
    ⟨va, l.pa, BitVec.ofNat 64 (a.nat (0x2B008 + 16 * i) 8), BitVec.ofNat 512 (a.nat (0x2F000 + 64 * i) 64), l.leaves⟩

/-- The hart that a save area and what the device held beside it give, with the effect of `RETT` (R102, R367). -/
def Area.hart (a : Area) (h : Hart) : Hart :=
  let c := fun i => BitVec.ofNat 64 (a.nat (0x140 + 8 * i) 8)
  let vec := a.bit 33
  let g := { h with
    run := .running
    s := vecOf 32 (0 :: a.regs 0x48 31 64)
    fmode := c 0, vcfg := c 1, vlgrant := c 2, velem := c 3, lcause := c 4, lepc := c 5, lvelem := c 6, laddr := c 7
    system := (c 8).getLsbD 0, ltvec := c 9, lhold := c 10, seniority := c 11, grpcoord := c 12
    w := vecOf 8 (a.regs 0x1C0 8 64)
    d := vecOf 16 (a.regs 0x200 16 64)
    arrival := ⟨BitVec.ofNat 64 (a.nat 0x280 8), BitVec.ofNat 32 (a.nat 0x288 4), a.nat 0x290 1 % 2 == 1⟩
    m := if vec then vecOf 16 (a.regs 0x400 16 256) else Vector.replicate 16 0
    v := if vec then vecOf 32 (a.regs 0x3000 32 2048) else Vector.replicate 32 0
    slates := a.slates
    z := vecOf 4 (a.regs 0x5000 4 65536)
    satchel := (List.range 32768).foldl (fun m i => m.put i ((a.at_ (0xD000 + i) 1).getD 0 0)) []
    p := vecOf 16 (a.regs 0x15000 16 32768)
    image := a.bit 34
    spill := if a.bit 35 then a.lines h.spill else []
    preempt := []
    wait := none }
  if a.bit 36 then g.ret else g

/-- Lines of the buffer refill from the spill while the core has free ones (R353). -/
def State.refill (s : State) (k : Nat) : State :=
  let h := s.hart k
  let n := 1024 - s.linesUsed (slotCore k)
  s.setHart k { h with lines := h.lines ++ h.spill.take n, spill := h.spill.drop n }

/-- A wound that struck a saved member: its area is rewritten in the restarted form before it is granted a slot (R353, R367). -/
def State.rewriteSaved (s : State) (k : Nat) (id : MemberId) (h : Hart) : State × Hart × Bool :=
  match h.saveArea with
  | none => (s, h, false)
  | some area =>
    let r := s.restartHart { h with wound := false, lines := [], spill := [] } id h.stage { h.task with restarted := true, irrevocable := false }
    let r := { r.enter tPreempt false r.pc h.laddr with vrs := none, faultSeq := h.faultSeq }
    let (s, n) := s.draw
    let old := s.hart k
    let s := s.setHart k r
    let us := unitsOf (saveSections r k n ⟨false, false, false⟩ []) ++ [(0, saveHeader r n ⟨false, false, false⟩ true)]
    match s.writeUnits k area (fun _ => none) us with
    | (s, some _) => (s.setHart k old, r, false)
    | (s, none) => (s.setHart k old, r, true)

/-- An uncorrectable soft error in the parts of a save area that a restore reads: the header, then what it says was saved (R364, R372). -/
def State.restoreSoft (s : State) (k asid : Nat) (area : Word) : Option Word :=
  let soft := fun (p : Nat × Nat) => s.areaSoft (slotQuarter k) (slotCore k) asid (area + BitVec.ofNat 64 p.1) p.2
  match soft (0, 64) with
  | some va => some va
  | none => (s.areaParts k asid area [(0, 64)]).bind fun head => (Area.mk head).saved.findSome? soft

/-- Restore a saved member into a free slot (R364, R367); an area that fails its checks, or that is read with an uncorrectable soft error (R372),
fails the member. -/
def State.resumeMember (s : State) (id : MemberId) (k : Nat) : State :=
  match (s.group? id.group).bind fun g => (g.members.find id.key).bind (·.saved) with
  | none => s
  | some h0 =>
    let (s, h, fresh) := if h0.wound then s.rewriteSaved k id h0 else (s, h0, true)
    let old := s.hart k
    match if fresh then h.saveArea else none with
    | none => s.areaMissing h.asid k h id
    | some area =>
      match s.restoreSoft k h.asid area with
      | some va => (s.record ⟨4, h.asid, k, tMachine, h.lepc, va, 0⟩).failMember id
      | none =>
      match (s.areaParts k h.asid area [(0, 64)]).bind fun head => (s.areaParts k h.asid area (Area.mk head).saved).map fun ps => (head ++ ps : List (Nat × List Byte)) with
      | none => s.areaMissing h.asid k h id
      | some ps =>
        let a : Area := ⟨ps⟩
        if !a.ok then s.areaMissing h.asid k h id
        else
          let g := { a.hart h with faultSeq := old.faultSeq }
          let s := s.setHart k g
          let (s, _) := s.writeUnits k area (fun _ => none) [(0, leBytes 8 (a.nat 0 8 - 2 ^ 32) ++ a.at_ 8 56)]
          let s := s.setMember id fun m => { m with state := .running k, slot := k, saved := none }
          ((s.wakeCore (slotCore k)).tileCore id.group (slotCore k)).refill k

/-! ## Wounds (R347) -/

/-- `WOUND_DELIVERY` (R347, R348). -/
def execWoundDelivery (slot : Nat) (s : State) : Host.Outcome State Fault Refusal :=
  .next (if (s.hart slot).woundReady then s.rollback slot else s)

/-! ## Stage reassignment (R279-R281) -/

/-- Used slots and slot count of strand `j` of a team. -/
def Group.occupancy (g : Group) (t j : Nat) : Nat × Nat :=
  ((g.items.get [] (16 * t + j)).length, match g.strands[j]? with | some x => x.1 | none => 1)

/-- One occupancy is below another. -/
def occLt (a b : Nat × Nat) : Bool := a.1 * b.2 < b.1 * a.2

/-- The largest occupancy among the input strands of a stage; none without one. -/
def Group.inputOcc (g : Group) (t st : Nat) : Option (Nat × Nat) :=
  (g.strands.zipIdx.filter fun e => e.1.2.2 == st).foldl (fun acc e =>
    let o := g.occupancy t e.2
    match acc with
    | none => some o
    | some x => some (if occLt x o then o else x)) none

/-- A stage wants a slot. -/
def Group.wants (g : Group) (t st : Nat) : Bool :=
  (match g.inputOcc t st with | some o => occLt (3, 4) o | none => false) &&
  (g.strands.zipIdx.filter fun e => e.1.2.1 == st).all fun e => occLt (g.occupancy t e.2) (1, 4)

/-- Harts of a team in a stage. -/
def Group.stageHarts (g : Group) (t st : Nat) : Nat :=
  (List.range g.n).countP fun m =>
    match g.members.find (32 * t + m) with
    | some x => x.stage == st && (match x.state with | .running _ => true | .saved => true | _ => false)
    | none => false

/-- The donor stage of a team. -/
def Group.donor (g : Group) (t : Nat) : Option Nat :=
  ((List.range g.stages).foldl (fun (acc : Option (Nat × (Nat × Nat))) st =>
    match g.inputOcc t st with
    | none => acc
    | some o =>
      if g.wants t st || g.stageHarts t st < 2 then acc
      else
        match acc with
        | none => some (st, o)
        | some (b, x) => if occLt o x then some (st, o) else some (b, x)) none).map (·.1)

/-- The stage that the executing hart is donated to at a `SETVL`, if R280 holds: in task mode, as only `RETT` leaves system mode (R84). A donation exactly 4,096 cycles before is no more one of the previous
4,096 cycles (DESIGN CHOICE, log 51). -/
def State.donation (s : State) : Option Nat :=
  let h := s.me
  match s.myGroup?, h.member with
  | some (_, g), some id =>
    match (List.range g.stages).find? (g.wants id.team) with
    | none => none
    | some st =>
      let quiet := match s.myCore.donated with | some b => b + 4096 ≤ s.beacon | none => true
      let handles := s.myCore.tiles.any fun e => e.2.taker == some s.cur
      let copies := s.clusters.any fun c => c.2.cmds.any fun m => m.issuer == some id
      if g.donor id.team = some h.stage && !h.system && h.preempt.isEmpty && !s.holdsLocket s.cur && !h.task.irrevocable
          && s.myCore.owner != some s.cur && !handles && !copies && quiet then some st
      else none
  | _, _ => none

/-- The executing hart starts afresh in the gaining stage (R281). -/
def State.donate (s : State) (st : Nat) : State :=
  match s.me.member with
  | none => s
  | some id =>
    let stamp := s.nextStamp
    let s := { s with nextStamp := stamp + 1 }
    let s := s.setMe (s.restartHart s.me id st ⟨stamp, false, false, false⟩)
    let s := s.setMember id fun m => { m with stage := st }
    s.setCore (slotCore s.cur) { s.myCore with donated := some s.beacon }

/-- `SETVL` (R109, R110, R280): a pending pre-emption request is taken here, else a donation, else the grant. -/
def execSetvl (d a : SReg) (s : State) : Host.Outcome State Fault Refusal :=
  let h := s.me
  .next (
    if !h.preempt.isEmpty && !h.system then s.takePreempt s.cur 0
    else
      match s.donation with
      | some st => s.donate st
      | none =>
        let g := BitVec.ofNat 64 (min (h.sget a).toNat (min (cfgVlmax h.vcfg) (capElems s.myCore.lanes h.vcfg)))
        s.upd fun h => { ({ h with vlgrant := g }.sput d g).next with velem := 0 })

end Sys2Proof.Machine
end

