-- ==== Sys2Proof/Machine/Queue.lean ====
section
/-! DEFINITION. Kernels, launches, strands, queues, task graphs and the dispatchers (R282-R293, R298-R318). -/

namespace Sys2Proof.Machine

/-! ## The kernel record (R283, R286) -/

structure KRec where
  clean : Bool
  version : Nat
  stages : Nat
  count : Nat
  n : Nat
  x : Nat
  y : Nat
  entry : List Word
  strands : List (Nat × Nat × Nat)
  tiles : List Nat
  lockets : Word
  slates : Word
  weightLen : Nat
  weightOff : Nat
  deriving DecidableEq, Repr

/-- The fields of a kernel record's 256 bytes. -/
def KRec.of (b : List Byte) : KRec :=
  let f := fun o n => leNat ((b.drop o).take n)
  ⟨((b.drop 9).take 7).all (· == 0), f 0 4, f 4 1, f 5 1, f 6 1, f 7 1, f 8 1,
    (List.range 8).map fun s => BitVec.ofNat 64 (f (24 + 8 * s) 8),
    (List.range 16).map fun j => (f (88 + 4 * j) 2, f (90 + 4 * j) 1, f (91 + 4 * j) 1),
    (List.range 64).map fun n => f (152 + n) 1,
    BitVec.ofNat 64 (f 216 8), BitVec.ofNat 64 (f 224 8), f 240 8, f 248 8⟩

/-- The limits of R283, which the load and each launch ask for. The length of the weight image, of which R283 says both that the device does not read it and
that it has a limit, is read and judged; the limits of a strand, for which R283 names R290, are asked of a load alone, in `KRec.loadOk` (DESIGN CHOICE,
log 33). -/
def KRec.ok (k : KRec) : Bool :=
  k.clean && k.version == 2 && 1 ≤ k.stages && k.stages ≤ 8 && k.count ≤ 16 && 1 ≤ k.n && k.n ≤ 32 && 1 ≤ k.x && k.x ≤ 64 && 1 ≤ k.y && k.y ≤ 64
    && k.entry.all (fun e => e.toNat % 4 == 0) && (k.entry.drop k.stages).all (· == 0) && (k.strands.drop k.count).all (· == (0, 0, 0))
    && k.tiles.all (· ≤ 16) && k.lockets.toNat % 16 == 0 && k.slates.toNat % 16 == 0 && k.weightOff % 4096 == 0
    && k.weightLen + k.weightOff ≤ 2 ^ 25

/-- What a load asks beyond R283 (R286), the weight ranges apart; the limits of the strands stand here and not in `KRec.ok` (DESIGN CHOICE, log 33). -/
def KRec.loadOk (k : KRec) : Bool :=
  k.ok && (k.entry.take k.stages).all (· != 0)
    && (k.strands.take k.count).all (fun x => x.2.1 < x.2.2 && x.2.2 < k.stages && 4 ≤ x.1 && x.1 ≤ 256)
    && k.tiles.foldl (· + ·) 0 ≤ 256

def State.kernelRecord (s : State) (asid : Nat) (rec : Word) : Option KRec := (s.deviceBytes asid rec 256).map KRec.of

/-- The context takes commands and launches: it is neither free nor on its way out. -/
def Ctx.live (c : Ctx) : Bool := c.state != .free && c.state != .dying && c.state != .torn

/-- `KERNEL_LOAD` (R285, R286): the read of the record waits out a recess (R394). -/
def execKernelLoad (asid : Nat) (rec : Word) (s : State) : Host.Outcome State Fault Refusal :=
  let s := if s.stalled then s else s.deviceLook asid rec 256
  .next (
    match if s.stalled then none else s.kernelRecord asid rec, s.kernel? asid rec with
    | some k, old =>
      let taken := s.kernels.any fun (o : Kernel) => !o.retired && k.weightLen != 0 && o.weightLen != 0
        && overlaps k.weightOff k.weightLen o.weightBase o.weightLen
      let exists_ := match old with | some o => !o.retired | none => false
      if !(s.ctx asid).live || rec.toNat % 256 ≠ 0 || exists_ || taken || !k.loadOk then s
      else
        let new : Kernel := ⟨asid, rec, false, false, 0, k.weightOff, k.weightLen⟩
        let s := { s with kernels := (s.kernels.filter fun (o : Kernel) => !(o.asid == asid && o.record == rec)) ++ [new] }
        s.setKernel new
    | none, _ => s)

/-- `KERNEL_RETIRE` (R285). -/
def execKernelRetire (asid : Nat) (rec : Word) (s : State) : Host.Outcome State Fault Refusal :=
  .next (
    match s.kernel? asid rec with
    | none => s
    | some k => if k.retired then s else s.setKernel (if k.groups = 0 then k.retire else { k with retiring := true }))

/-! ## Launch descriptors (R307) -/

structure Launch where
  clean : Bool
  kernel : Word
  n : Nat
  x : Nat
  y : Nat
  stack : Nat
  args : List Word
  guard : Nat
  bindings : List (Nat × Word × Nat × Nat)
  deriving DecidableEq, Repr

/-- The fields of a launch descriptor: a binding as producer, base, index, log2 of e. -/
def Launch.of (d : BitVec 2048) : Launch :=
  let f := fun o n => fieldOf d (8 * o) (8 * n)
  let nb := f 11 1 % 8
  let slot := fun b => (f (160 + 24 * b) 8, BitVec.ofNat 64 (f (168 + 24 * b) 8), f (176 + 24 * b) 1, f (177 + 24 * b) 1)
  let unused := (List.range 4).all fun b => if b < nb then f (178 + 24 * b) 6 == 0 else f (160 + 24 * b) 24 == 0
  ⟨f 11 1 < 8 && nb ≤ 4 && f 12 4 == 0 && f 152 8 == 0 && unused, BitVec.ofNat 64 (f 0 8), f 8 1, f 9 1, f 10 1, f 16 8,
    (List.range 15).map fun a => BitVec.ofNat 64 (f (24 + 8 * a) 8), f 144 8, (List.range (min nb 4)).map slot⟩

/-- No status of R308: the kernel's record lies in host memory, and its read waits for the host link (R7; log 35). -/
def linkStatus : Nat := 9

/-- Statuses 3 and 4 of R308 for a descriptor; `node` says that it lies in no ring (R307, R312). 0 where it passes. -/
def State.launchStatus (s : State) (asid : Nat) (l : Launch) (node : Bool) : Nat :=
  match s.kernel? asid l.kernel with
  | none => 4
  | some k =>
    if k.retired || k.retiring then 3
    else if !l.clean || 32 < l.n || 64 < l.x || 64 < l.y || l.stack % 16 != 0
      || l.bindings.any (fun b => (node && b.1 == 0) || 7 < b.2.2.1 || 12 < b.2.2.2 || b.2.1.toNat % 2 ^ b.2.2.2 != 0
        || (b.1 != 0 && !(match s.group? b.1 with | some g => g.asid == asid | none => false))) then 4
    else
      match s.kernelRecord asid l.kernel with
      | some r => if r.ok then 0 else 4
      | none => if s.deviceAway asid l.kernel 256 then linkStatus else 4

/-- The group that a launch makes, before its places are granted. -/
def buildGroup (asid q prio : Nat) (node : Option Nat) (l : Launch) (r : KRec) (record : Word) (clock : Clock) : Group :=
  { asid := asid, kernel := l.kernel, queue := some q, node := node, prio := prio
    x := if l.x = 0 then r.x else l.x
    y := if l.y = 0 then r.y else l.y
    n := if l.n = 0 then r.n else l.n
    stages := r.stages, entry := r.entry, strands := r.strands.take r.count, tiles := r.tiles, args := l.args
    stackBytes := l.stack, record := record
    bindings := l.bindings.map fun b => ⟨b.1, b.2.1, b.2.2.1, 2 ^ b.2.2.2⟩
    guard := l.guard, pred := none, tied := none, state := .pending, places := [], lockets := [], items := [], members := []
    clock := clock, ended := Clock.zero, tiled := [] }

/-- The launch record's 20 words, with `p` places (R287). -/
def Group.recordWords (g : Group) (gn p : Nat) : List Nat :=
  [g.kernel.toNat, gn, g.x + g.y * 2 ^ 8 + g.n * 2 ^ 16 + g.stages * 2 ^ 24 + p * 2 ^ 32, g.stackBytes] ++ g.args.map (·.toNat) ++ [0]

/-- An address can hold a launch record (R287): a multiple of 64 in a page of the context that programs only read and that the device may write now, apart
from the kernel records of the context, whose state words the device rewrites, and from the records of its other groups. -/
def State.recordFits (s : State) (asid : Nat) (a : Word) : Bool :=
  let readOnly := fun (va : Word) =>
    match s.deviceTrans asid va with
    | some t => pteR t.leaf && (pteState t.leaf == 1 || (!pteW t.leaf && pteState t.leaf != 2 && pteState t.leaf != 4))
    | none => false
  a != 0 && readOnly a && readOnly (a + 159)
    && s.groups.all (fun e => !(e.2.asid == asid && overlaps a.toNat 160 e.2.record.toNat 160))
    && s.kernels.all fun (k : Kernel) => !(k.asid == asid && !k.retired && overlaps a.toNat 160 k.record.toNat 256)

/-- Trial `i` of the place of a group's launch record. -/
def recordTrial (asid gn i : Nat) : Word := BitVec.ofNat 64 ((Config.recordAt asid gn i).toNat / 64 * 64)

/-- First address and length of each page, or part of a page, that a table of a context holds, in the view of Q0 (R378-R380); `va` is the
first address the table translates. -/
def State.pagesUnder (s : State) (table level va : Nat) : List (Nat × Nat) :=
  (List.range 512).flatMap fun i =>
    let e := BitVec.ofNat 64 (s.viewNat 0 .h (table + 8 * i) 8)
    let a := va + i * 2 ^ (12 + 9 * level)
    if !pteV e || pteMalformed e level then []
    else if pteLeaf e then [(if a < 2 ^ 56 then a else a + 2 ^ 64 - 2 ^ 57, 2 ^ (12 + 9 * level))]
    else
      match level with
      | 0 => []
      | l + 1 => s.pagesUnder (pteFrame e) l a

/-- The multiples of 64 in the pages that a context has mapped: those in force without a walk (R384), then those of its tables. -/
def State.recordPlaces (s : State) (asid : Nat) : List Word :=
  let kept := ((s.pins.map (·.trans) ++ s.tlbs.get [] 0).filter (·.asid == asid)).map fun t => (t.base, 2 ^ t.bits)
  (kept ++ s.pagesUnder (s.ctx asid).root 4 0).flatMap fun p => (List.range (p.2 / 64)).map fun i => BitVec.ofNat 64 (p.1 + 64 * i)

/-- Where the launch record of a group lies (R287): the first of 4,096 trials that can hold it, else one of the places in the context's pages that
can, which one being open too; 0 where its pages hold no room for it, and then the launch is not accepted yet (log 12). -/
def State.recordAddr (s : State) (asid gn : Nat) : Word :=
  match ((List.range 4096).map (recordTrial asid gn)).find? (s.recordFits asid) with
  | some a => a
  | none =>
    let l := (s.recordPlaces asid).filter (s.recordFits asid)
    l.getD ((Config.recordAt asid gn 4096).toNat % l.length) 0

/-- Write words of a group's launch record, if it has one. -/
def State.writeRecord (s : State) (g : Group) (o : Nat) (ws : List Nat) : State × Clock :=
  if g.record = 0 then (s, Clock.zero) else s.deviceWrite g.asid (g.record + BitVec.ofNat 64 o) ws

/-- Accept a launch: the next group number, its record, which its members follow, its kernel bound (R285, R287, R308). -/
def State.makeGroup (s : State) (asid q : Nat) (node : Option Nat) (l : Launch) (clock : Clock) : State × Nat :=
  let gn := s.nextGroup
  match s.kernelRecord asid l.kernel, s.kernel? asid l.kernel with
  | some r, some k =>
    let g := buildGroup asid q (s.queue q).prio node l r (s.recordAddr asid gn) clock
    let (s, v) := s.writeRecord g 0 (g.recordWords gn 0)
    let s := { s.setGroup gn { g with clock := g.clock.max v } with nextGroup := gn + 1 }
    (s.setKernel { k with groups := k.groups + 1 }, gn)
  | _, _ => (s, gn)

/-! ## `LAUNCH`, `QSTATE` (R300, R308, R309) -/

/-- A refusal: bit 63 and the status. -/
def refuse (st : Nat) : Word := BitVec.ofNat 64 (2 ^ 63 + st)

/-- A queue takes launches of a context. -/
def State.queueOpen (s : State) (q asid : Nat) : Bool :=
  let x := s.queue q
  q < 64 && x.asid == asid && (x.state == .empty || x.state == .active)

/-- The dispatcher walks the pages of the record of the kernel that a launch names (R307, R384). -/
def State.lookKernel (s : State) (asid : Nat) (l : Launch) : State :=
  if (s.kernel? asid l.kernel).isSome then s.deviceLook asid l.kernel 256 else s

/-- The dispatcher's answer to a `LAUNCH` (R308, R309); none yet where the context has no place for the launch record (log 12), or while the host link is
down under the kernel's record. -/
def State.launch (s : State) (asid q : Nat) (d : BitVec 2048) (clock : Clock) : State × Option Word :=
  let l := Launch.of d
  if !(s.ctx asid).live then (s, refuse 5)
  else if !s.queueOpen q asid then (s, refuse 2)
  else
    let s := s.lookKernel asid l
    if s.launchStatus asid l false = linkStatus then (s, none)
    else if s.launchStatus asid l false ≠ 0 then (s, refuse (s.launchStatus asid l false))
    else if (s.queue q).cap ≤ (s.queue q).ring.length then (s, refuse 1)
    else if s.recordAddr asid s.nextGroup = 0 then (s, none)
    else
      let (s, gn) := s.makeGroup asid q none l clock
      let x := s.queue q
      (s.setQueue q { x with ring := x.ring ++ [.launched gn], state := .active }, some (BitVec.ofNat 64 gn))

/-- Read `n` bytes at a multiple of 64 as `LAUNCH` and `GNODE` do: the checks, every page, one load, and the wait for the dispatcher's answer,
at which a pending pre-emption withdraws the launch (R308, R311). The answer waits out a recess (R394); else the wait ends within the step where nothing takes the hart there (log 1). -/
def State.readDesc (s : State) (i : Instr) (a : Word) (n : Nat) (k : State → List Byte → State) : State :=
  if s.buffering s.cur && !s.me.parkedAt i then s.trap tIrrevocable (wordOf i)
  else if a.toNat % 64 ≠ 0 then s.trap tDataAlign a
  else
    match s.translateAll .load (pagesOf a n) with
    | .fail s f va => s.failScalar .load f va
    | .wait s y => s.park y i
    | .ok s =>
      match s.readRange .scalar a n with
      | .stop s va st => s.polyStop i .load (pagesOf a n) va st
      | .ok s bs => if s.me.yields || s.stalled then s.park .dispatcher i else k s bs

/-- `LAUNCH` (R308, R310): a release at device scope. -/
def execLaunch (d desc q : SReg) (s : State) : Host.Outcome State Fault Refusal :=
  let h := s.me
  .next (s.readDesc (.launch d desc q) (h.sget desc) 256 fun s bs =>
    match s.launch h.asid (h.sget q).toNat (BitVec.ofNat 2048 (leNat bs)) s.me.clock with
    | (t, some x) => (t.edge false true).upd fun h => (h.sput d x).next
    | (t, none) => t.park .dispatcher (.launch d desc q))

def QState.code : QState → Nat
  | off => 0 | empty => 1 | active => 2 | fault => 3
def GraphState.code : GraphState → Nat
  | none => 0 | building => 1 | running => 2 | done => 3 | stopped => 4

/-- The state map of a queue (R300). -/
def Queue.word (x : Queue) : Word :=
  BitVec.ofNat 64 (x.state.code + (if x.guarded then 8 else 0) + x.prio % 8 * 16 + min x.ring.length 65535 * 2 ^ 8 + x.graph.code * 2 ^ 24
    + x.fault % 256 * 2 ^ 32 + x.node % 1024 * 2 ^ 40 + x.from_ % 1024 * 2 ^ 50)

/-- `QSTATE` (R300). -/
def execQstate (d q : SReg) (s : State) : Host.Outcome State Fault Refusal :=
  let n := (s.me.sget q).toNat
  let x := s.queue n
  .next (s.upd fun h => (h.sput d (if n < 64 && x.state != .off && x.asid == h.asid then x.word else 0)).next)

/-! ## The task graph (R311-R314) -/

def Node.kind (n : Node) : Nat := fieldOf n.desc 0 8
def Node.prio (n : Node) : Nat := fieldOf n.desc 8 8
def Node.succ (n : Node) : List Nat := (List.range (fieldOf n.desc 32 8)).map fun j => fieldOf n.desc (64 + 16 * j) 10

/-- The address lies in one of the two windows of R225 (R311). -/
def inWindows (a : Word) : Bool :=
  inSlabWindow a || (Config.weightWindow ≤ a.toNat && a.toNat < Config.weightWindow + Config.weightSize)

/-- A node descriptor keeps the limits of R311. -/
def nodeOk (d : BitVec 512) : Bool :=
  let f := fun o n => fieldOf d (8 * o) (8 * n)
  let kind := f 0 1
  let c := f 4 1
  let succ := (List.range 8).map fun j => f (8 + 2 * j) 2
  if 3 < kind || 7 < f 1 1 || f 6 2 != 0 then false
  else if 2 ≤ kind then f 1 4 == 0 && f 6 58 == 0
  else if 8 < c || succ.any (1023 < ·) || (succ.drop c).any (· != 0) || (succ.take c).dedup.length < c then false
  else if kind = 0 then f 32 32 == 0
  else
    f 24 8 == 0 && f 32 1 ≤ 3 && f 34 1 < 32 && f 35 5 == 0
      && (if f 32 1 = 1 then exactPair (BitVec.ofNat 4 (f 33 1)) (BitVec.ofNat 4 (f 33 1 / 16)) else f 33 1 == 0)
      && !inWindows (BitVec.ofNat 64 (f 48 8)) && !inWindows (BitVec.ofNat 64 (f 56 8))

/-- A node becomes ready: its launch descriptor is read now (R312). In a recess that read waits, and the node with it (R394), as it does for the host link (R7). -/
def State.readyNode (s : State) (q j : Nat) : State :=
  let asid := (s.queue q).asid
  match (s.queue q).nodes[j]? with
  | none => s
  | some n =>
    let a := BitVec.ofNat 64 (fieldOf n.desc 192 64)
    let reads := n.kind = 0 && a.toNat % 64 = 0
    if reads && (s.stalled || s.deviceAway asid a 256) then s
    else
      let s := if reads then s.deviceLook asid a 256 else s
      let l := if reads then (s.deviceBytes asid a 256).map fun bs => BitVec.ofNat 2048 (leNat bs) else none
      let x := s.queue q
      s.setQueue q { x with nodes := x.nodes.set j { n with state := .ready, launch := l } }

/-- Every waiting node whose counter is 0 becomes ready, in index order (R299, R312). -/
def State.readyNodes (s : State) (q : Nat) : State :=
  (List.range (s.queue q).nodes.length).foldl (fun s j =>
    match (s.queue q).nodes[j]? with
    | some n => if n.state = .waiting && n.counter = 0 then s.readyNode q j else s
    | none => s) s

/-- The work of the dispatchers that a recess or the host link held: the device's words are written, and the nodes whose descriptors are to be read become
ready (R7, R312, R394). -/
def State.heldWork (s : State) : State :=
  (List.range 64).foldl (fun s q =>
    if (s.queue q).graph = .running && (s.queue q).state != .fault then s.readyNodes q else s) (if s.owed.isEmpty then s else s.payOwed)

/-- The dispatcher's answer to a `GNODE` (R311, R312). -/
def State.gnode (s : State) (asid : Nat) (d : BitVec 512) : State × Word :=
  let q := fieldOf d 40 8
  let kind := fieldOf d 0 8
  let x := s.queue q
  let c := x.nodes.length
  if !(s.ctx asid).live then (s, refuse 5)
  else if !s.queueOpen q asid then (s, refuse 4)
  else if !nodeOk d then (s, refuse 3)
  else if kind < 2 then
    if x.graph ≠ .none && x.graph ≠ .building then (s, refuse 2)
    else if 1024 ≤ c then (s, refuse 1)
    else
      (s.setQueue q { x with graph := .building, nodes := x.nodes ++ [⟨d, fieldOf d 16 16, .waiting, none, none, none, Clock.zero, none⟩] }, BitVec.ofNat 64 c)
  else if kind = 2 then
    if x.graph ≠ .building then (s, refuse 2)
    else if x.nodes.any fun n => n.succ.any (c ≤ ·) then (s, refuse 3)
    else ((s.setQueue q { x with graph := .running, state := .active, steps := 0 }).readyNodes q, BitVec.ofNat 64 c)
  else if x.graph = .running || x.nodes.any (fun n => n.state == .running) then (s, refuse 2)
  else
    (({ s with reserved := s.reserved.filter fun r => !(r.2 / 2048 == q && r.2 % 2048 != 0) }.setQueue q { x with graph := .none, nodes := [] }).settleQueue q, 0)

/-- `GNODE` (R311, R312). -/
def execGnode (d desc : SReg) (s : State) : Host.Outcome State Fault Refusal :=
  let h := s.me
  .next (s.readDesc (.gnode d desc) (h.sget desc) 64 fun s bs =>
    let (t, x) := s.gnode h.asid (BitVec.ofNat 512 (leNat bs))
    (t.edge false true).upd fun h => (h.sput d x).next)

/-- A node may complete (R310, R313): its group is complete and no copy command of it is left, or its command has completed; the
status and the clock. -/
def State.nodeOutcome (s : State) (n : Node) : Option (Nat × Clock) :=
  if n.state ≠ .running then none
  else
    match n.group, n.cmd with
    | some g, _ =>
      match s.group? g with
      | some x =>
        if x.state = .complete && !(s.clusters.any fun c => c.2.cmds.any fun m => m.group == some g) then some (0, x.ended) else none
      | none => none
    | none, some (cl, seq) => ((s.cluster cl).done.find? fun e => e.1 == seq).map fun e => (e.2.1, e.2.2)
    | none, none => none

/-- Decrement the successors of a node in their order (R314); an underflow stops the graph. -/
def State.decrement (s : State) (q j : Nat) (c : Clock) (succ : List Nat) : State :=
  match succ with
  | [] => s
  | k :: r =>
    let x := s.queue q
    match x.nodes[k]? with
    | none => s.decrement q j c r
    | some n =>
      if n.counter = 0 then ((s.stopGraph q).queueFault q 3 k j)
      else
        let n := { n with counter := n.counter - 1, clock := n.clock.max c }
        let s := s.setQueue q { x with nodes := x.nodes.set k n }
        let s := if n.counter = 0 && x.state != .fault then s.readyNode q k else s
        s.decrement q j c r

/-- One node completes, in a step of its graph (R313, R337). -/
def State.completeNode (s : State) (q step j : Nat) : State :=
  match (s.queue q).nodes[j]? with
  | none => s
  | some n =>
    match s.nodeOutcome n with
    | none => s
    | some (st, c) =>
      let s := s.setNode q j .done
      let x := s.queue q
      let s := s.setQueue q { x with steps := step, nodes := x.nodes.zipIdx.map fun (e : Node × Nat) => if e.2 = j then { e.1 with step := some step } else e.1 }
      if st ≠ 0 then (s.stopGraph q).queueFault q 2 j 0
      else if (s.queue q).graph = .running then (s.decrement q j c n.succ).settleGraph q
      else s.settleQueue q

/-- `NODE_COMPLETE` (R313, R314, R337): completions of one cycle, in ascending index, share a step. -/
def execNodeComplete (q : Nat) (nodes : List Nat) (s : State) : Host.Outcome State Fault Refusal :=
  let step := (s.queue q).steps + 1
  .next (((List.range 1024).filter nodes.contains).foldl (fun s j => s.completeNode q step j) s)

/-! ## Strands (R291-R293) -/

/-- A hart of the team stands in a stage. -/
def State.stagePeopled (g : Group) (t st : Nat) : Bool := g.stageHarts t st != 0

/-- The checks of both strand forms, then `k` with the group, the team and the strand. -/
def State.strand (s : State) (i : Instr) (j : Word) (push : Bool) (k : Nat → Group → Nat → State) : State :=
  if s.buffering s.cur then s.trap tIrrevocable (wordOf i)
  else
    match s.myGroup?, s.me.member with
    | some (gn, g), some id =>
      match if j.toNat < 16 then g.strands[j.toNat]? else none with
      | none => s.trap tStrand j
      | some (_, src, dst) => if s.me.stage ≠ (if push then src else dst) then s.trap tStrand j
          else if s.stalled then s.park .recess i else k gn g id.team
    | _, _ => s.trap tStrand j

/-- `STRPUSH` (R292): a release at cluster scope. -/
def execStrpush (d st x : SReg) (s : State) : Host.Outcome State Fault Refusal :=
  let j := s.me.sget st
  let i := Instr.strpush d st x
  .next (s.strand i j true fun gn g t =>
    let key := 16 * t + j.toNat
    let q := g.items.get [] key
    match g.strands[j.toNat]? with
    | none => s
    | some (slots, _, dst) =>
      if q.length < slots then
        let g := { g with items := g.items.put key (q ++ [(s.me.sget x, s.me.clock)]) }
        ((s.setGroup gn g).edge false true).upd fun h => (h.sput d 0).next
      else if !State.stagePeopled g t dst then (s.edge false true).upd fun h => (h.sput d 1).next
      else s.park .strand i)

/-- `STRPOP` (R292): an acquire at cluster scope. -/
def execStrpop (d st : SReg) (s : State) : Host.Outcome State Fault Refusal :=
  let j := s.me.sget st
  let i := Instr.strpop d st
  .next (s.strand i j false fun gn g t =>
    let key := 16 * t + j.toNat
    match g.items.get [] key, g.strands[j.toNat]? with
    | (x, c) :: r, _ =>
      let items := if r.isEmpty then g.items.drop key else g.items.put key r
      ((s.setGroup gn { g with items := items }).edge true false).upd fun h => ((h.seesAll c).sput d x).next
    | [], some (_, from_, _) =>
      if !State.stagePeopled g t from_ then (s.edge true false).upd fun h => (h.sput d (BitVec.allOnes 64)).next else s.park .strand i
    | [], none => s)

/-! ## The host's queue commands (R298, R299) -/

/-- `QUEUE_ENABLE` (R298, R299). -/
def execQueueEnable (q asid prio : Nat) (guarded : Bool) (cap : Nat) (s : State) : Host.Outcome State Fault Refusal :=
  let capOk := (List.range 13).any fun k => cap == 2 ^ (k + 4)
  .next (
    if 64 ≤ q || (s.queue q).state ≠ .off || !(s.ctx asid).live || 7 < prio || !capOk then s
    else s.setQueue q { Queue.off with state := .empty, asid := asid, prio := prio, guarded := guarded, cap := cap })

/-- Groups of a queue accepted and not granted fail without starting (R278, R299). -/
def State.failPending (s : State) (q : Nat) : State :=
  (s.groups.filter fun e => e.2.queue == some q && e.2.state == .pending).foldl (fun s e => s.failGroup e.1 none) s

def State.unreserve (s : State) (q : Nat) : State := { s with reserved := s.reserved.filter fun r => r.2 / 2048 != q }

/-- `QUEUE_DISABLE` (R299): groups that run go on without the queue. -/
def execQueueDisable (q : Nat) (s : State) : Host.Outcome State Fault Refusal :=
  .next (
    if (s.queue q).state = .off then s
    else
      let s := (s.failPending q).unreserve q
      let s := { s with groups := s.groups.map fun (e : Nat × Group) => (e.1, if e.2.queue = some q then { e.2 with queue := none, node := none } else e.2) }
      s.setQueue q Queue.off)

/-- `QUEUE_RESET` (R299). The launch before the next entry stays the one taken last, a point on which R299 and R301 are silent (DESIGN CHOICE, log 51). -/
def execQueueReset (q : Nat) (s : State) : Host.Outcome State Fault Refusal :=
  .next (
    if (s.queue q).state ≠ .fault then s
    else
      let s := (s.failPending q).unreserve q
      let x := s.queue q
      s.setQueue q { x with state := .empty, ring := [], taken := none, graph := .none, nodes := [], steps := 0, fault := 0, node := 0, from_ := 0 })

/-- `QUEUE_RESUME` (R299): nodes whose counter reached 0 in the fault become ready. -/
def execQueueResume (q : Nat) (s : State) : Host.Outcome State Fault Refusal :=
  .next (
    let x := s.queue q
    if x.state ≠ .fault then s
    else
      let s := s.setQueue q { x with state := .active, fault := 0, node := 0, from_ := 0 }
      (if x.graph = .running then s.readyNodes q else s).settleQueue q)

/-- `HOST_RING_SUBMIT` (R298): the entry is not accepted, and the queue not active, before the dispatcher takes it (R285, R299). Into a full ring it does
nothing: R298 says of a full ring only what `LAUNCH` finds (DESIGN CHOICE, log 51). -/
def execHostRingSubmit (q : Nat) (desc : BitVec 2048) (s : State) : Host.Outcome State Fault Refusal :=
  let x := s.queue q
  .next (
    if x.state = .off || x.cap ≤ x.ring.length then s
    else s.setQueue q { x with ring := x.ring ++ [.host desc] })

/-! ## Taking ring entries (R301, R302, R308) -/

/-- The dispatcher takes work of a context. -/
def Ctx.takes (c : Ctx) : Bool := c.state == .loaded || c.state == .running

/-- The launch before the next entry still counts; it has not started. -/
def State.predCounts (s : State) (p : Option Nat) : Bool :=
  match p.bind s.group? with | some g => g.counts | none => false
def State.predPending (s : State) (p : Option Nat) : Bool :=
  match p.bind s.group? with | some g => g.state == .pending | none => false

/-- Producers an entry binds, and whether its binding slot 0 is W0 of the launch before it. -/
def bindsPred (bs : List (Nat × Nat)) (p : Option Nat) : Bool := bs.any fun b => b.1 == 0 || some b.1 == p
def guardBound (bs : List (Nat × Nat)) : Bool :=
  match bs with | b :: _ => b.1 == 0 && b.2 == 0 | [] => false

/-- The dispatcher takes the next entry of a ring, if it is takeable (R301, R302, R308); its reads wait out a recess (R394). In the first entry of a ring, before
which no launch stands, a binding of producer 0 names none and counts as one to a complete producer (DESIGN CHOICE, log 51). An entry of a `LAUNCH`, a group already, that
lacks the binding R302 asks for fails as a group, and the launch before it stays the one before the next entry (DESIGN CHOICE, log 51). -/
def State.takeEntry (s : State) (q : Nat) : State :=
  let x := s.queue q
  if s.stalled || (x.state ≠ .active && x.state ≠ .empty) || x.taken.isSome || !(s.ctx x.asid).takes then s
  else
    match x.ring with
    | [] => s
    | e :: r =>
      let bs := match e with
        | .host d => (Launch.of d).bindings.map fun b => (b.1, b.2.2.1)
        | .launched gn => match s.group? gn with | some g => g.bindings.map fun b => (b.producer, b.index) | none => []
      let takeable := if x.guarded then !s.predPending x.last else !s.predCounts x.last || bindsPred bs x.last
      if !takeable then s
      else
        let rest := s.setQueue q { x with ring := r }
        let unbound := x.guarded && x.last.isSome && !guardBound bs
        let keep := fun (s : State) (gn : Nat) =>
          match s.group? gn with
          | none => s
          | some g =>
            let named := g.bindings.map fun b => if b.producer = 0 then { b with producer := x.last.getD 0 } else b
            let s := s.setGroup gn { g with
              bindings := named, pred := if x.guarded then none else x.last, tied := if x.guarded then x.last else none }
            s.setQueue q { s.queue q with taken := some gn, last := some gn, state := .active }
        match e with
        | .host d =>
          let l := Launch.of d
          let rest := rest.lookKernel x.asid l
          if !unbound && rest.launchStatus x.asid l false = linkStatus then s
          else if unbound || rest.launchStatus x.asid l false ≠ 0 then (rest.queueFault q 4 0 0).settleQueue q
          else if rest.recordAddr x.asid rest.nextGroup = 0 then s
          else
            let (t, gn) := rest.makeGroup x.asid q none l Clock.zero
            keep t gn
        | .launched gn => if unbound then (rest.failGroup gn none).queueFault q 4 0 0 else keep rest gn

/-- `RING_ENTRY_TAKE` (R301, R302, R308). -/
def execRingEntryTake (q : Nat) (s : State) : Host.Outcome State Fault Refusal := .next (s.takeEntry q)

/-! ## Grants (R304-R306) -/

/-- The lowest free stack of a size in a context's pool (R289). -/
def Ctx.freeStack (c : Ctx) (size : Nat) : Option Nat :=
  let up := fun a => (a + 15) / 16 * 16
  let lo := c.stackBase.toNat
  let hi := lo + c.stackLen * 4096
  let fits := fun a => a + size ≤ hi && c.stackList.all fun e => !overlaps a size e.1 e.2
  ((up lo :: c.stackList.map fun e => up (e.1 + e.2)).filter fits).foldl (fun (m : Option Nat) a =>
    match m with | none => some a | some b => some (min a b)) none

/-- Take `n` stks of a size. -/
def Ctx.takeStacks (c : Ctx) (size n : Nat) : Option (Ctx × List Nat) :=
  match n with
  | 0 => some (c, [])
  | n + 1 =>
    match c.freeStack size with
    | none => none
    | some a =>
      match Ctx.takeStacks { c with stackList := (a, size) :: c.stackList } size n with
      | some (c, l) => some (c, a :: l)
      | none => none

/-- Stacks for up to `p` places of `n` members: as many places as the pool serves. -/
def Ctx.placeStacks (c : Ctx) (size n p : Nat) : Ctx × List (List Nat) :=
  match p with
  | 0 => (c, [])
  | p + 1 =>
    if size = 0 then
      let (c, l) := c.placeStacks size n p
      (c, List.replicate n 0 :: l)
    else
      match c.takeStacks size n with
      | none => (c, [])
      | some (c, l) =>
        let (c, r) := Ctx.placeStacks c size n p
        (c, l :: r)

/-- The free places of the clusters, round by round (R305). -/
def State.usablePlaces (s : State) (gn : Nat) (g : Group) : List (Nat × Nat) :=
  let per := (List.range 32).map fun cl =>
    (List.range (32 / roundUp g.n)).filter fun k => s.placeFree cl k g.n && s.placeTakes gn g cl k
  (List.range 32).flatMap fun r => per.zipIdx.filterMap fun e => (e.1[r]?).map fun k => (e.2, k)

/-- Places in ascending cluster and then k (R276). -/
def sortPlaces (ps : List (Nat × Nat)) : List (Nat × Nat) :=
  (List.range 32).flatMap fun cl => ((List.range 32).filter fun k => ps.contains (cl, k)).map fun k => (cl, k)

/-- The places a grant would use: of its reservation, else of R305. -/
def State.grantPlaces (s : State) (key gn : Nat) (g : Group) : List (Nat × Nat) :=
  let c := s.ctx g.asid
  match (s.reserved.filter fun r => r.2 == key).map (·.1) with
  | [] =>
    let ps := s.usablePlaces gn g
    ps.take (c.placeStacks g.stackBytes g.n (min g.teams ps.length)).2.length
  | r =>
    let lo := r.foldl Nat.min 1024
    let k := lo % 32 / roundUp g.n
    let free := (List.range g.n).all fun m => (s.hart (lo + m)).run == .free
    if free && s.placeTakes gn g (lo / 32) k && (c.placeStacks g.stackBytes g.n 1).2.length = 1 then [(lo / 32, k)] else []

/-- The rank of a run (R306): one above the highest priority of the groups that occupy it, 0 where it is free; none where the run
may not be taken. A run with a slot that is reserved for another candidate may not (DESIGN CHOICE, log 51). -/
def State.runRank (s : State) (gn : Nat) (g : Group) (cl k : Nat) : Option Nat :=
  let slots := (List.range (roundUp g.n)).map fun m => placeSlot cl k g.n m
  let prios := slots.filterMap fun x => ((s.hart x).member.bind fun id => s.group? id.group).map (·.prio)
  if prios.any (7 ≤ ·) || slots.any (fun x => s.reserved.any fun r => r.1 == x) || !s.placeTakes gn g cl k then none
  else some (prios.foldl (fun m p => Nat.max m (p + 1)) 0)

/-- The run of lowest rank, then lowest cluster, then lowest k. -/
def State.bestRun (s : State) (gn : Nat) (g : Group) : Option (Nat × Nat) :=
  (((List.range 32).flatMap fun cl => (List.range (32 / roundUp g.n)).filterMap fun k =>
    (s.runRank gn g cl k).map fun r => (r, cl, k)).foldl (fun (b : Option (Nat × Nat × Nat)) x =>
      match b with
      | none => some x
      | some y => if x.1 < y.1 then some x else some y) none).map (·.2)

/-- A pre-emption request reaches a hart; in system mode it is due at the first boundary in task mode (R366). -/
def State.request (s : State) (k bound : Nat) : State :=
  let h := s.hart k
  if h.run = .running then s.setHart k { h with preempt := h.preempt ++ [⟨s.beacon, some (if h.system then 0 else bound)⟩] } else s

/-- Reserve a run for a candidate of priority 7, and request the pre-emption of its harts (R306). The reservation lasts until the candidate is granted, its
queue is disabled, reset or torn down, or its graph is cleared (DESIGN CHOICE, log 51). -/
def State.reserve (s : State) (key gn : Nat) (g : Group) : State :=
  if (s.reserved.any fun r => r.2 == key) || ((s.ctx g.asid).placeStacks g.stackBytes g.n 1).2.length = 0 then s
  else
    match s.bestRun gn g with
    | none => s
    | some (cl, k) =>
      let slots := (List.range (roundUp g.n)).map fun m => placeSlot cl k g.n m
      let s := { s with reserved := s.reserved ++ slots.map fun x => (x, key) }
      slots.foldl (fun s x => s.request x (2 ^ 16)) s

/-- A candidate (R304): the entry taken from a ring, or the head of a graph's ready list. -/
inductive Cand where
  | ring (gn : Nat)
  | node (j : Nat)
  deriving DecidableEq, Repr

/-- The head of a ready list: highest node priority, then lowest index (R314). -/
def Queue.readyHead (x : Queue) : Option Nat :=
  if x.graph ≠ .running then none
  else (x.nodes.zipIdx.foldl (fun (b : Option (Nat × Nat)) e =>
    if e.1.state ≠ .ready then b
    else match b with
      | none => some (e.1.prio, e.2)
      | some (p, i) => if p < e.1.prio then some (e.1.prio, e.2) else some (p, i)) none).map (·.2)

/-- The candidates of a queue, the graph's first. Of a queue in fault neither an entry taken before nor a node made ready before is one (DESIGN CHOICE,
log 51). -/
def State.candidates (s : State) (q : Nat) : List Cand :=
  let x := s.queue q
  if (x.state ≠ .empty && x.state ≠ .active) || !(s.ctx x.asid).takes then []
  else (match x.readyHead with | some j => [.node j] | none => []) ++ (match x.taken with | some gn => [.ring gn] | none => [])

/-- The group a candidate is or would be, with its number and its reservation key; none for a transform or a node that fails. -/
def State.candGroup (s : State) (q : Nat) (c : Cand) : Option (Nat × Nat × Group) :=
  let x := s.queue q
  match c with
  | .ring gn => (s.group? gn).map fun g => (2048 * q, gn, g)
  | .node j =>
    match x.nodes[j]? with
    | none => none
    | some n =>
      if n.kind ≠ 0 then none
      else
        match n.launch with
        | none => none
        | some d =>
          let l := Launch.of d
          if s.launchStatus x.asid l true ≠ 0 then none
          else (s.kernelRecord x.asid l.kernel).map fun r => (2048 * q + 1 + j, s.nextGroup, buildGroup x.asid q x.prio (some j) l r 0 n.clock)

/-- The predecessor of a ring candidate, in service mode, has ended but copy commands of its members run (R310). -/
def State.copiesLeft (s : State) (g : Group) : Bool :=
  match g.pred with
  | none => false
  | some p => !s.predCounts (some p) && s.clusters.any fun c => c.2.cmds.any fun m => m.group == some p

/-- What a grant to a candidate would do. -/
inductive Use where
  | none
  /-- Granted only to fail (R274, R313). -/
  | fails
  /-- A transform that its engine accepts (R315). -/
  | engine
  | places (ps : List (Nat × Nat))
  deriving DecidableEq, Repr

/-- The launch record of a candidate can be written at its grant, before a member starts (R276, R287): a launch's page takes P now, or its walk will
raise a machine-check (R384); a node's launch finds a place for it (log 12). -/
def State.recordReady (s : State) (c : Cand) (g : Group) : Bool :=
  match c with
  | .ring _ => g.record == 0 || (s.deviceDest g.asid (g.record + 16)).isSome || s.deviceCorrupt g.asid (g.record + 16)
  | .node _ => s.recordAddr g.asid s.nextGroup != 0

/-- What a grant of a candidate is to read lies in host memory without the host link (R7): the kernel's record, or its locket table. -/
def State.candAway (s : State) (q : Nat) (c : Cand) : Bool :=
  let kernel : Option (Nat × Word) := match c with
    | .ring gn => (s.group? gn).map fun (g : Group) => (g.asid, g.kernel)
    | .node j => (((s.queue q).nodes[j]?).bind (·.launch)).map fun d => ((s.queue q).asid, (Launch.of d).kernel)
  s.hostLink.isNone && kernel.any fun k =>
    s.deviceAway k.1 k.2 256 || (s.kernelRecord k.1 k.2).any fun r => r.lockets != 0 && s.deviceAway k.1 r.lockets 1024

/-- A queue of a stopped debugger session is granted no slot (R336). A launch is granted none in a recess, nor without the host link where host memory is to be
read: the locket table, the launch record and a node's kernel record are read and written then (R7, R394). -/
def State.use (s : State) (q : Nat) (c : Cand) : Use :=
  let away := s.stalled || s.candAway q c
  match if away then Option.none else s.candGroup q c with
  | some (key, gn, g) =>
    if g.n < g.stages && s.recordReady c { g with record := 0 } then .fails
    else if s.copiesLeft g then .none
    else if (s.ctx (s.queue q).asid).held || !s.recordReady c g then .none
    else
      match s.grantPlaces key gn g with
      | [] => .none
      | ps => .places (sortPlaces ps)
  | Option.none =>
    match c with
    | .ring _ => .none
    | .node j =>
      match (s.queue q).nodes[j]? with
      | Option.none => .none
      | some n => if away && n.kind ≠ 1 then .none else if n.kind = 1 then (if (s.cluster (fieldOf n.desc 272 8)).cmds.length < 64 then .engine else .none) else .fails

/-- The candidate of a queue that has a grant it can use. -/
def State.usableCand (s : State) (q : Nat) : Option (Cand × Use) :=
  (s.candidates q).findSome? fun c => match s.use q c with | .none => Option.none | u => some (c, u)

/-- Reservations of the priority-7 candidates that find no place (R306). -/
def State.reserveAll (s : State) : State :=
  (if s.stalled then [] else List.range 64).foldl (fun s q =>
    if (s.queue q).prio = 7 && !(s.ctx (s.queue q).asid).held then
      (s.candidates q).foldl (fun s c =>
        match s.candGroup q c with
        | some (key, gn, g) => if !s.candAway q c && g.stages ≤ g.n && !s.copiesLeft g && s.recordReady c g && s.use q c = .none then s.reserve key gn g else s
        | Option.none => s) s
    else s) s

/-- The choice of R304. -/
def State.choose (s : State) : Option (Nat × Cand × Use) :=
  let found := (List.range 64).filterMap fun q => (s.usableCand q).map fun c => (q, c)
  let top := found.foldl (fun m e => Nat.max m ((s.queue e.1).prio + 1)) 0
  let best := found.filter fun e => (s.queue e.1).prio + 1 == top
  let start := match s.lastGrant.find (top - 1) with | some q => q + 1 | none => 0
  ((List.range 64).findSome? fun i => best.find? fun e => e.1 == (start + i) % 64)

/-- The declared lockets of a kernel (R341): none where the table does not read or an entry fails R342. -/
def State.locketTable (s : State) (asid : Nat) (a : Word) : Option (Tbl Locket) :=
  match s.deviceBytes asid a 1024 with
  | none => none
  | some bs =>
    (List.range 64).foldl (fun (acc : Option (Tbl Locket)) i =>
      let b := BitVec.ofNat 64 (leNat ((bs.drop (16 * i)).take 8))
      let l := BitVec.ofNat 64 (leNat ((bs.drop (16 * i + 8)).take 8))
      match acc with
      | none => none
      | some t =>
        if l = 0 then some t
        else if locketBaseBad b || locketLenBad b l || t.any (fun e => overlaps b.toNat l.toNat e.2.base.toNat e.2.length) then none
        else some (t.put i ⟨b, l.toNat, none, [], Clock.zero⟩)) (some [])

/-- A granted group runs on its places (R276, R278, R287-R289, R310, R341). A kernel record whose locket table address is 0 declares no locket (DESIGN CHOICE,
log 51). -/
def State.runGroup (s : State) (gn : Nat) (ps : List (Nat × Nat)) : State :=
  match s.group? gn with
  | none => s
  | some g =>
    let s := s.deviceLook g.asid g.kernel 256
    let s := match s.kernelRecord g.asid g.kernel with
      | some r => if r.lockets = 0 then s else s.deviceLook g.asid r.lockets 1024
      | none => s
    let table := match s.kernelRecord g.asid g.kernel with
      | some r => if r.lockets = 0 then some [] else s.locketTable g.asid r.lockets
      | none => none
    match table with
    | none => s.failGroup gn (some 1)
    | some t =>
      let (c, stks) := (s.ctx g.asid).placeStacks g.stackBytes g.n ps.length
      let s := s.setCtx g.asid { c with state := .running }
      let pred := match g.pred.bind s.group? with | some p => if p.counts then Clock.zero else p.ended | none => Clock.zero
      let g : Group := { g with
        state := .running
        lockets := t
        clock := g.clock.max pred
        places := ps.zipIdx.map fun e => ⟨e.1.1, e.1.2, 0, false, stks.getD e.2 []⟩
        members := g.memberKeys.foldl (fun m k => m.put k ⟨.waiting, k % 32 % g.stages, none, 0, none⟩) [] }
      let (s, v) := s.writeRecord g 16 [(g.recordWords gn ps.length).getD 2 0]
      let s := s.setGroup gn { g with clock := g.clock.max v }
      (List.range ps.length).foldl (fun s t => s.startTeam gn t) s

/-- A node of a graph, changed. -/
def State.updNode (s : State) (q j : Nat) (f : Node → Node) : State :=
  let x := s.queue q
  match x.nodes[j]? with
  | none => s
  | some n => s.setQueue q { x with nodes := x.nodes.set j (f n) }

/-- The command of a transform node (R311, R315). -/
def nodeCmd (asid q j : Nat) (d : BitVec 512) : Cmd :=
  let f := fun o n => fieldOf d (8 * o) (8 * n)
  let kind : CmdKind := match f 32 1 with | 0 => .cpy | 1 => .cpyw | 2 => .pack | _ => .unpack
  ⟨0, kind, BitVec.ofNat 4 (f 33 1), BitVec.ofNat 4 (f 33 1 / 16), BitVec.ofNat 64 (f 40 8), BitVec.ofNat 64 (f 48 8), BitVec.ofNat 64 (f 56 8),
    8 * f 34 1, none, asid, none, some (q, j), false, true, .accepted, [], [], [], [], [], Clock.zero⟩

/-- Grant the chosen candidate (R304, R312, R313). -/
def State.grant (s : State) (q : Nat) (c : Cand) (u : Use) : State :=
  let x := s.queue q
  let s := { s with lastGrant := s.lastGrant.put x.prio q }
  match c with
  | .ring gn =>
    let s := { s.setQueue q { x with taken := none } with reserved := s.reserved.filter fun r => r.2 != 2048 * q }
    match u with
    | .places ps => s.runGroup gn ps
    | _ => s.failGroup gn (some 1)
  | .node j =>
    match x.nodes[j]? with
    | none => s
    | some n =>
      match u with
      | .engine =>
        let cl := fieldOf n.desc 272 8
        let seq := (s.cluster cl).seq
        let (s, _) := s.acceptCmd cl (nodeCmd x.asid q j n.desc)
        s.updNode q j fun n => { n with state := .running, cmd := some (cl, seq) }
      | _ =>
        let s := { s with reserved := s.reserved.filter fun r => r.2 != 2048 * q + 1 + j }
        match s.candGroup q c, n.launch with
        | some _, some d =>
          let (s, gn) := (s.deviceLook x.asid (Launch.of d).kernel 256).makeGroup x.asid q (some j) (Launch.of d) n.clock
          let s := s.updNode q j fun n => { n with state := .running, group := some gn }
          match u with
          | .places ps => s.runGroup gn ps
          | _ => s.failGroup gn (some 1)
        | _, _ => ((s.setNode q j .done).stopGraph q).queueFault q 4 j 0

/-- `DISPATCHER_GRANT` (R304-R306): one grant, among candidates that count each ring's next takeable entry. -/
def execDispatcherGrant (s : State) : Host.Outcome State Fault Refusal :=
  .next (
    let s := ((List.range 64).foldl State.takeEntry s).reserveAll
    match s.choose with
    | none => s
    | some (q, c, u) => s.grant q c u)

/-! ## Cluster dispatchers (R277, R316-R318) -/

/-- The slot a pre-empted member takes: its former one, else the free slot of lowest index, on a core that can take its group's
tiles (R277). -/
def State.memberSlot (s : State) (cl : Nat) (id : MemberId) : Option Nat :=
  match s.group? id.group with
  | none => none
  | some g =>
    let ok := fun k => (s.hart k).run == .free && !(s.reserved.any fun r => r.1 == k) && s.coreTakes id.group g (slotCore k)
    let former := match g.members.find id.key with | some m => if slotCluster m.slot = cl then [m.slot] else [] | none => []
    (former ++ (List.range 32).map (32 * cl + ·)).find? ok

/-- A record can be served now. -/
def State.servable (s : State) (cl : Nat) (r : Record) : Bool :=
  match s.group? r.group with
  | none => false
  | some g =>
    (s.ctx g.asid).takes && g.state == .running &&
    (match r with
      | .member id => (s.memberSlot cl id).isSome
      | .team gn p =>
        match g.places[p]? with
        | some x => (g.nextTeam p).isSome && s.placeFree x.cluster x.k g.n && s.placeTakes gn g x.cluster x.k
        | none => false)

/-- The record served first: by group priority, then by age (R316). -/
def State.nextRecord (s : State) (cl : Nat) : Option Record :=
  ((s.cluster cl).ready.foldl (fun (b : Option (Nat × Record)) r =>
    if !s.servable cl r then b
    else
      let p := match s.group? r.group with | some g => g.prio | none => 0
      match b with
      | none => some (p, r)
      | some (bp, br) => if bp < p then some (p, r) else some (bp, br)) none).map (·.2)

/-- The priority of the record a cluster serves first. -/
def State.firstPrio (s : State) (cl : Nat) : Option Nat := ((s.nextRecord cl).bind fun r => s.group? r.group).map (·.prio)

/-- `TEAM_START` (R276, R316): the next team of a place starts when its slots are free and no record of its cluster that may be served comes before
it; else its record joins the ready list. A record that stands there, or is in transit (R317), starts from there; a context that saves or is
saved starts none (R359). -/
def execTeamStart (group place : Nat) (s : State) : Host.Outcome State Fault Refusal :=
  .next (
    match s.group? group with
    | none => s
    | some g =>
      match g.nextTeam place, g.places[place]? with
      | some t, some p =>
        let c := s.cluster p.cluster
        if g.state ≠ .running || c.ready.contains (.team group place) || s.steals.any (fun x => x.record == some (.team group place)) then s
        else if (s.ctx g.asid).takes && s.placeFree p.cluster p.k g.n && s.placeTakes group g p.cluster p.k
            && (match s.firstPrio p.cluster with | some x => x < g.prio | none => true) then
          s.startTeam group t
        else s.setCluster p.cluster { c with ready := c.ready ++ [.team group place] }
      | _, _ => s)

/-- A restore cannot read its save area yet: in a recess (R394), or from host memory without the host link (R7). -/
def State.restoreWaits (s : State) (id : MemberId) (k : Nat) : Bool :=
  s.stalled || (((s.group? id.group).bind fun g => (g.members.find id.key).bind (·.saved)).any fun h =>
    h.saveArea.any fun a => s.areaAway (slotQuarter k) (slotCore k) h.asid a Config.saveSize)

/-- `CLUSTER_SLOT_GRANT` (R316): a restore waits until it can read its save area. -/
def execClusterSlotGrant (cluster : Nat) (s : State) : Host.Outcome State Fault Refusal :=
  .next (
    match s.nextRecord cluster with
    | none => s
    | some r =>
      let c := s.cluster cluster
      let t := s.setCluster cluster { c with ready := c.ready.filter fun x => x != r }
      match r with
      | .member id => match s.memberSlot cluster id with | some k => if s.restoreWaits id k then s else t.resumeMember id k | none => s
      | .team gn p =>
        match (s.group? gn).bind fun g => g.nextTeam p with
        | some w => t.startTeam gn w
        | none => s)

/-- A cluster can hold the next team of a record: a place of it, lowest k first. -/
def State.holdsRecord (s : State) (cl : Nat) (r : Record) : Option Nat :=
  match r, s.group? r.group with
  | .team gn _, some g => (List.range (32 / roundUp g.n)).find? fun k => s.placeFree cl k g.n && s.placeTakes gn g cl k
  | _, _ => none

def Record.isTeam : Record → Bool
  | .team _ _ => true
  | .member _ => false

/-- A cluster is idle: no ready record, a free run of slots (R317). -/
def State.idleCluster (s : State) (cl : Nat) : Bool :=
  (s.cluster cl).ready.isEmpty && (List.range 32).any fun u => (s.hart (32 * cl + u)).run == .free

/-- The cluster with the most team records, ties to the lowest number. -/
def State.busiest (s : State) : Option Nat :=
  ((List.range 32).foldl (fun (b : Option (Nat × Nat)) cl =>
    let n := (s.cluster cl).ready.countP Record.isTeam
    match b with
    | none => if n = 0 then none else some (n, cl)
    | some (m, c) => if m < n then some (n, cl) else some (m, c)) none).map (·.2)

/-- `STEAL_MESSAGE` (R317): the victim's oldest team record that the thief can hold is in transit; an empty reply changes nothing. -/
def execStealMessage (thief : Nat) (s : State) : Host.Outcome State Fault Refusal :=
  .next (
    if 32 ≤ thief || !s.idleCluster thief || s.steals.any (fun t => t.thief == thief) then s
    else
      match s.busiest with
      | none => s
      | some v =>
        let c := s.cluster v
        match c.ready.find? fun r => r.isTeam && (s.holdsRecord thief r).isSome with
        | none => s
        | some r => { s.setCluster v { c with ready := c.ready.filter fun x => x != r } with steals := s.steals ++ [⟨some r, thief, v⟩] })

/-- A stolen place moves to a cluster under its place number (R317): to the lowest run of slots there that can take it, and to the run 0 where at delivery
none can, a case on which R317 is silent (DESIGN CHOICE, log 32). -/
def State.movePlace (s : State) (r : Record) (cl : Nat) : State :=
  match r, s.group? r.group with
  | .team gn p, some g =>
    let k := (s.holdsRecord cl r).getD 0
    s.setGroup gn { g with places := g.places.zipIdx.map fun e => if e.2 = p then { e.1 with cluster := cl, k := k } else e.1 }
  | _, _ => s

/-- `STEAL_DELIVERY` (R318): a record in transit is delivered exactly once. With thief and victim down it goes to the head of the list of the lowest cluster that
can hold it, those two counted, and to the victim's where none can (DESIGN CHOICE, log 32). In the thief's list it stands
last, as the youngest, whatever its age was in the victim's, on which R316 and R318 are silent (DESIGN CHOICE, log 32). -/
def execStealDelivery (index : Nat) (thiefDown victimDown : Bool) (s : State) : Host.Outcome State Fault Refusal :=
  .next (
    match s.steals[index]? with
    | none => s
    | some t =>
      let s := { s with steals := s.steals.eraseIdx index }
      match t.record with
      | none => s
      | some r =>
        let tail := fun (s : State) cl => let c := s.cluster cl; s.setCluster cl { c with ready := c.ready ++ [r] }
        let head := fun (s : State) cl => let c := s.cluster cl; s.setCluster cl { c with ready := r :: c.ready }
        if !thiefDown then tail (s.movePlace r t.thief) t.thief
        else if !victimDown then head s t.victim
        else
          match (List.range 32).find? fun cl => (s.holdsRecord cl r).isSome with
          | some cl => head (s.movePlace r cl) cl
          | none => head s t.victim)

end Sys2Proof.Machine
end

