-- ==== Sys2Proof/Machine/Link.lean ====
section
/-! DEFINITION. The link: messages, ports, puts, the host's link and the side-band port (R405-R413). -/

namespace Sys2Proof.Machine

/-! ## Messages (R409) -/

def msgChannel (m : BitVec 512) : Nat := fieldOf m 0 16
def msgKind (m : BitVec 512) : Nat := fieldOf m 16 8
def msgLength (m : BitVec 512) : Nat := fieldOf m 32 32
def msgSource (m : BitVec 512) : Word := BitVec.ofNat 64 (fieldOf m 64 64)
def msgOffset (m : BitVec 512) : Nat := fieldOf m 128 64
def msgStagger (m : BitVec 512) : Nat := fieldOf m 64 16

/-- The sent form of a message is malformed. -/
def msgBad (m : BitVec 512) : Bool :=
  fieldOf m 24 8 != 0 ||
  match msgKind m with
  | 0 => msgLength m != 0
  | 1 => msgLength m != 0 || fieldOf m 80 432 != 0
  | 2 => msgLength m % 256 != 0 || msgLength m < 256 || 65536 < msgLength m || (msgSource m).toNat % 256 != 0 || fieldOf m 192 320 != 0
  | _ => true

/-- The received form: byte 3 names the arriving port. -/
def msgReceived (p : Nat) (m : BitVec 512) : BitVec 512 := setField m 24 8 p

def Port.queue (x : Port) (cls : Nat) : List (Nat × BitVec 512) := if cls = 0 then x.q0 else x.q1
def Port.setQueue (x : Port) (cls : Nat) (q : List (Nat × BitVec 512)) : Port := if cls = 0 then { x with q0 := q } else { x with q1 := q }
def Port.ticket (x : Port) (cls : Nat) : Option Nat := if cls = 0 then x.fault0 else x.fault1
def Port.setTicket (x : Port) (cls : Nat) (t : Option Nat) : Port := if cls = 0 then { x with fault0 := t } else { x with fault1 := t }
def Ctx.ring (c : Ctx) (cls : Nat) : List (BitVec 512) := if cls = 0 then c.ring0 else c.ring1
def Ctx.setRing (c : Ctx) (cls : Nat) (r : List (BitVec 512)) : Ctx := if cls = 0 then { c with ring0 := r } else { c with ring1 := r }

/-! ## `LSEND` and `LPOLL` (R410) -/

/-- Queue a message of a context at a port: the status of `LSEND`. -/
def State.sendMsg (s : State) (asid : Nat) (p : Word) (cls : Nat) (m : BitVec 512) : State × Nat :=
  let x := s.port p.toNat
  if 15 < p.toNat || !(s.ctx asid).sends.contains (p.toNat, msgChannel m) then (s, 3)
  else if msgBad m then (s, 4)
  else if x.state ≠ .up && x.q0.isEmpty && x.q1.isEmpty then (s, 2)
  else if 64 ≤ (x.queue cls).length then (s, 1)
  else (s.setPort p.toNat (x.setQueue cls (x.queue cls ++ [(asid, m)])), 0)

/-- `LSEND` (R410). -/
def execLsend (d pt a : SReg) (cls : BitVec 1) (s : State) : Host.Outcome State Fault Refusal :=
  let h := s.me
  let i := Instr.lsend d pt a cls
  let va := h.sget a
  .next (
    if s.buffering s.cur && !h.parkedAt i then s.trap tIrrevocable (wordOf i)
    else if va.toNat % 64 ≠ 0 then s.trap tDataAlign va
    else
      match s.access .scalar .load va 64 with
      | .ok s loc =>
        let (s, bs) := s.readBytes .scalar loc 64
        let (s, st) := s.sendMsg h.asid (h.sget pt) cls.toNat (BitVec.ofNat 512 (leNat bs))
        s.upd fun h => (h.sput d (BitVec.ofNat 64 st)).next
      | r => s.scalarStop i .load va r)

/-- A hart has polled a message: that of a put lets it know of the put's writes, which every view has by then, so that a `FENCEP` carries them to
the path it reads the window on (R263, R411). `c` is what its quarter's view has applied. -/
def Hart.polled (h : Hart) (m : BitVec 512) (c : Clock) : Hart := { h with clock := if msgKind m = 2 then h.clock.max c else h.clock }

/-- `LPOLL` (R410): the oldest message of the context's ring of the class, stored on the H path in pieces (R252). -/
def execLpoll (d a : SReg) (cls : BitVec 1) (s : State) : Host.Outcome State Fault Refusal :=
  let h := s.me
  let i := Instr.lpoll d a cls
  let va := h.sget a
  .next (
    if va.toNat % 64 ≠ 0 then s.trap tDataAlign va
    else
      match (s.ctx h.asid).ring cls.toNat with
      | [] =>
        match s.translateMe .write va with
        | .ok s _ => s.upd fun h => (h.sput d 1).next
        | .fail f => s.failScalar .write f va
        | .wait s w => s.park w i
      | m :: r =>
        match s.access .scalar .write va 64 with
        | .ok s loc =>
          if s.linesFit [(va, loc, 64)] then
            let t := s.flush .scalar ((piecesOf va (bytesOf m 0 64) 64).map fun p => ⟨p.1.toNat % 64, p.1, loc + p.1.toNat % 64, p.2, false⟩)
            (t.setCtx h.asid ((t.ctx h.asid).setRing cls.toNat r)).upd fun h => ((h.polled m (quarterClock s.applied (slotQuarter s.cur))).sput d 0).next
          else s.parkHold .overflow i [va]
        | x => s.scalarStop i .write va x)

/-! ## Ports (R407) -/

/-- 100 ms in beacon cycles. -/
def hundredMs : Nat := 300000000

/-- The device has port `p`, and it has been in its state for 100 ms. -/
def State.lapsed (s : State) (p : Nat) : Bool := (s.port p).since + hundredMs ≤ s.beacon

def State.movePort (s : State) (p : Nat) (st : PortState) : State := s.setPort p { s.port p with state := st, since := s.beacon }

/-- `PORT_ENABLE` (R407). -/
def execPortEnable (port : Nat) (s : State) : Host.Outcome State Fault Refusal :=
  .next (if port < 16 && (s.port port).state = .down then s.movePort port .training else s)

/-- A port comes up, with the partner's hallmark (R407, R408). -/
def State.portUp (s : State) (p : Nat) (hm : BitVec 32) : State :=
  s.setPort p { s.port p with state := .up, since := s.beacon, peer := hm, retrain := false }

/-- Training has failed: counted, and tried again at the next class-2 recess (R407). -/
def State.portFailed (s : State) (p : Nat) : State :=
  let x := s.port p
  s.setPort p { x with state := .down, since := s.beacon, failed := x.failed + 1, retrain := true }

/-- `PORT_TRAINED` (R407): within 100 ms, or before the recess ends. -/
def execPortTrained (port : Nat) (peerHallmark : BitVec 32) (s : State) : Host.Outcome State Fault Refusal :=
  .next (
    if 16 ≤ port then s
    else
      match (s.port port).state with
      | .training => if (s.port port).since + hundredMs < s.beacon then s else s.portUp port peerHallmark
      | .retraining => s.portUp port peerHallmark
      | _ => s)

/-- `PORT_TRAINING_TIMEOUT` (R407). -/
def execPortTrainingTimeout (port : Nat) (s : State) : Host.Outcome State Fault Refusal :=
  .next (if port < 16 && (s.port port).state = .training && s.lapsed port then s.portFailed port else s)

/-- `PORT_ERROR_THRESHOLD` (R391, R407). -/
def execPortErrorThreshold (port : Nat) (s : State) : Host.Outcome State Fault Refusal :=
  .next (
    if port < 16 && (s.port port).state = .up then
      { s.setPort port { s.port port with retrain := true } with recess := { s.recess with retrain := true } }
    else s)

/-- `PARTNER_LOST` (R407): queued messages are held; the port trains again when the host enables it. -/
def execPartnerLost (port : Nat) (s : State) : Host.Outcome State Fault Refusal :=
  .next (if port < 16 && (s.port port).state = .up then (s.setPort port { s.port port with retrain := false }).movePort port .down else s)

/-- `PORT_QUEUE_DISCARD` (R410). -/
def execPortQueueDiscard (port : Nat) (s : State) : Host.Outcome State Fault Refusal :=
  let x := s.port port
  .next (
    if port < 16 && x.state = .down && s.lapsed port then
      s.setPort port { x with q0 := [], q1 := [], fault0 := none, fault1 := none, discarded := x.discarded + x.q0.length + x.q1.length }
    else s)

/-! ## Sending (R394, R410, R411) -/

/-- The source blocks of a put, page by page, under the sender's ASID on the L path: their locations. The engine executes on no core (R225), so the slab window
names for it the slab of core 64 * (p / 4), the first of its port's quarter (DESIGN CHOICE, log 50). -/
def State.putSource (s : State) (p asid : Nat) (ps : List (Word × Nat)) (acc : List Nat) : State × Option (Fail × Word) × Option (List Nat) :=
  match ps with
  | [] => (s, none, some acc)
  | (a, n) :: r =>
    match s.translate (p / 4) (64 * (p / 4)) asid .load a with
    | .ok t loc =>
      if t.corrupt loc n then (t, some (Fail.corrupt, a), none)
      else (t.wakePlaces [loc]).putSource p asid r (acc ++ (List.range (n / 256)).map fun i => loc + 256 * i)
    | .fail f => (s, some (f, a), none)
    | .wait t _ => (t, none, none)

/-- The words of a block as the L path of a port shows them. -/
def State.linkWords (s : State) (p b : Nat) : List Nat := (List.range 64).map fun j => s.viewNat (p / 4) .l (b + 4 * j) 4

/-- A block as it crosses a peer link: in its stored form, with the receiver's hallmark (R244, R408). -/
def State.beat (s : State) (p b : Nat) : Bool × List Byte :=
  let ws := s.linkWords p b
  if s.packedAt b && (liveWords ws).length ≤ 61 then (true, packedBeats (s.port p).peer ws) else (false, rawBlock ws)

/-- The fault record of a port (R386). -/
def State.portFault (s : State) (p cls asid : Nat) (f : Fail) (va : Word) : State :=
  let src := 0xC000 + p
  let n := s.engineSeq.get 0 src
  let s := s.setPort p ((s.port p).setTicket cls (some s.nextTicket))
  { s with
    faults := s.faults ++ [⟨s.nextTicket, asid, src, Kind.load.code, f.reason, f.level, false, va, 0, 0, n⟩]
    nextTicket := s.nextTicket + 1
    engineSeq := s.engineSeq.put src ((n + 1) % 2 ^ 32) }

/-- The head of a queue leaves it. -/
def State.popMsg (s : State) (p cls : Nat) : State :=
  let x := s.port p
  s.setPort p ((x.setQueue cls ((x.queue cls).drop 1)).setTicket cls none)

/-- `MESSAGE_TRANSMIT` (R394, R397, R410, R411): a put reads its source first, block by block in its stored form. An uncorrectable soft error there raises a machine-check
on the sender's context (R372, R384), and the put is dropped (log 16). -/
def execMessageTransmit (port cls : Nat) (s : State) : Host.Outcome State Fault Refusal :=
  let x := s.port port
  .next (
    if 16 ≤ port || 1 < cls || x.state ≠ .up || s.draining || (x.ticket cls).isSome then s
    else
      match x.queue cls with
      | [] => s
      | (asid, m) :: _ =>
        let s := s.wakeQuarter (port / 4)
        if msgKind m ≠ 2 then s.popMsg port cls
        else
          match s.putSource port asid (partsOf (msgSource m) (msgLength m)) [] with
          | (t, none, some bs) =>
            let t := t.popMsg port cls
            t.setPort port { t.port port with beats := bs.map (t.beat port) }
          | (t, none, none) => t
          | (t, some (f, va), _) =>
            if f = Fail.corrupt then (t.deviceSoft asid va).popMsg port cls
            else if f.recorded then t.portFault port cls asid f va
            else t.popMsg port cls)

/-! ## Receiving (R104, R410-R412) -/

/-- The context that receives a channel of a port. -/
def State.receiver (s : State) (p channel : Nat) : Option Nat :=
  (s.ctxs.find? fun e => e.2.live && e.2.receives.contains (p, channel)).map (·.1)

/-- A hart leaves `IDLE` or `RCWAIT` at the next word; its vector unit keeps its blocks (R112). -/
def Hart.endIdle (h : Hart) : Hart := h.ahead Hart.next

/-- A message becomes available: the harts of the context parked in `IDLE` continue, but for one that a pre-emption takes there (R104). -/
def State.wakeIdle (s : State) (asid : Nat) : State :=
  { s with harts := s.harts.map fun e =>
      match e.2.wait with
      | some ⟨.idle _ _, _, _, _⟩ => (e.1, if e.2.asid = asid && e.2.run = .running && !e.2.yields then e.2.endIdle else e.2)
      | _ => e }

/-- A message enters the receiver's ring. -/
def State.deliver (s : State) (asid p cls : Nat) (m : BitVec 512) : State :=
  let c := s.ctx asid
  (s.setCtx asid (c.setRing cls (c.ring cls ++ [msgReceived p m]))).wakeIdle asid

/-- A message of an unbound channel is dropped and counted. -/
def State.dropMsg (s : State) (p : Nat) : State := s.setPort p { s.port p with dropped := (s.port p).dropped + 1 }

/-- `MESSAGE_RECEIVE` (R399, R410, R412): of kinds data and stagger. A full ring withholds credit. -/
def execMessageReceive (port cls : Nat) (msg : BitVec 512) (s : State) : Host.Outcome State Fault Refusal :=
  .next (
    if 16 ≤ port || 1 < cls || (s.port port).state ≠ .up || msgBad msg then s
    else
      match msgKind msg with
      | 0 =>
        match s.receiver port (msgChannel msg) with
        | none => s.dropMsg port
        | some a => if 256 ≤ ((s.ctx a).ring cls).length then s else (s.wakeQuarter (port / 4)).deliver a port cls msg
      | 1 => { s with stagger := s.stagger ++ [(msgStagger msg, s.beacon)] }
      | _ => s)

/-- The L path writes GDDR and the vaults; weight space lies above every physical address (R223). -/
def linkWrites (loc : Nat) : Bool := inDram loc

/-- A block as it arrives on a port (R408): bit 0 of its beat header, and the bytes that crossed. A compressed one is checked against the device's own hallmark and
expanded; none where it fails. -/
def receiveBlock (hm : BitVec 32) (b : Bool × List Byte) : Option (List Byte) :=
  if !b.1 then (if b.2.length = 256 then some b.2 else none)
  else
    let bits := leNat (b.2.take 8)
    let k := ((List.range 64).filter bits.testBit).length
    if k ≤ 61 && b.2.length = 12 + 4 * k && leNat (b.2.drop (8 + 4 * k)) = hm.toNat then
      some (rawBlock (expandWords bits 0 64 (wordsOf ((b.2.drop 8).take (4 * k)))))
    else none

/-- The bytes of a put, of the blocks that arrive. -/
def receiveBlocks (hm : BitVec 32) (bs : List (Bool × List Byte)) : Option (List Byte) := (bs.mapM (receiveBlock hm)).map List.flatten

/-- `PUT_EXECUTE` (R394, R408, R411): the bytes are applied in all four views before the message enters the ring. A put that its
window does not hold, whose bytes would reach a place that the L path does not write (R223), or with a block that fails the check of its form (R408), is
dropped as for an unbound channel (log 16). -/
def execPutExecute (port cls : Nat) (msg : BitVec 512) (blocks : List (Bool × List Byte)) (s : State) : Host.Outcome State Fault Refusal :=
  .next (
    if 16 ≤ port || 1 < cls || (s.port port).state ≠ .up || msgBad msg || msgKind msg ≠ 2 || 256 * blocks.length ≠ msgLength msg || s.draining then s
    else
      match s.receiver port (msgChannel msg), receiveBlocks (Config.hallmark s.boots) blocks with
      | none, _ | _, none => s.dropMsg port
      | some a, some data =>
        let c := s.ctx a
        if 256 ≤ (c.ring cls).length then s
        else if c.putLen < msgOffset msg + data.length || (List.range data.length).any (fun i => !linkWrites ((c.putBase + BitVec.ofNat 64 (msgOffset msg + i)).toNat))
        then s.dropMsg port
        else
          let ps := (piecesOf (c.putBase + BitVec.ofNat 64 (msgOffset msg)) data (data.length + 1)).map fun x => (x.1.toNat, x.2)
          let (s, v) := ((s.wakeQuarter (port / 4)).wakePlaces (ps.map (·.1))).engineIssue (port / 4) .l Clock.zero ps
          (s.settleAll v).deliver a port cls msg)

/-! ## The host's link (R405, R406) -/

/-- `HOST_LINK_TRAINING` (R405): a partner without 256-byte flits leaves the link down; a device type, rate or width outside the table is refused, and so is every
option that the table does not have: the link comes up without it. The host sees which were refused as it enumerates the one function. With the link the device's
own accesses to host memory go on (R7). -/
def execHostLinkTraining (deviceType : Nat) (flit256 : Bool) (rate : Nat) (asks : HostAsks) (s : State) : Host.Outcome State Fault Refusal :=
  .next (
    if !flit256 then { s with hostLink := none }
    else if deviceType ≠ 2 || !([64, 32, 16].contains rate) || !([16, 8, 4].contains asks.width) then s
    else
      let t := { s with hostLink := some ⟨rate, asks.width, asks.options⟩ }
      if s.hostLink.isSome || s.stalled then t else t.heldWork)

/-- The location an offset of the HDM range reaches (R406); none for one that reads zero and drops writes. -/
def hdmLoc (o : Nat) : Option Nat :=
  if o < 0xC000000000 then (if physAssigned o then some o else none)
  else if (o - 0xC000000000) / Config.weightSize < Config.numCores then
    some (weightLoc ((o - 0xC000000000) / Config.weightSize) ((o - 0xC000000000) % Config.weightSize))
  else none

/-- A byte as the host reads it: on the N path of Q0's view. -/
def State.hostByte (s : State) (o : Nat) : Byte :=
  match hdmLoc o with
  | some loc => s.viewByte 0 .n loc
  | none => 0

/-- `HOST_MEM_ACCESS` (R7, R250, R252, R394, R397, R405, R406): none while the link is down. A read returns the bytes; a write is issued in Q0 on the N path, piece by piece. -/
def execHostMemAccess (offset len : Nat) (data : Option (List Byte)) (s : State) : Host.Outcome State Fault Refusal :=
  .next (
    if s.hostLink.isNone || s.stalled || 2 ^ 40 < offset + len || data.any (fun bs => bs.length != len) then s
    else
      let s := (s.wakeQuarter 0).wakePlaces ((List.range len).filterMap fun i => hdmLoc (offset + i))
      match data with
      | none => { s with hostData := (List.range len).map fun i => s.hostByte (offset + i) }
      | some bs =>
        let ps := (piecesOf (BitVec.ofNat 64 offset) bs (len + 1)).filterMap fun x => (hdmLoc x.1.toNat).map fun loc => (loc, x.2)
        (s.engineIssue 0 .n Clock.zero ps).1)

/-- The host changes bytes of its own memory: every access that reaches host memory from then on finds them, since the device holds no host line (R406). -/
def State.hostStore (s : State) (loc : Nat) (bs : List Byte) : State :=
  if !inHostMem loc || 2 ^ 48 < loc + bs.length then s
  else { s with views := (List.range 20).map fun k => let v := s.views.get View.reset k; (k, { v with bytes := v.bytes.putAll (cellsAt loc bs) }) }

/-! ## The side-band port (R413) -/

/-- `SIDEBAND_FIRMWARE_UPDATE` (R413): an image whose signature fails is discarded. -/
def execSidebandFirmwareUpdate (image : Nat) (signatureOk : Bool) (s : State) : Host.Outcome State Fault Refusal :=
  .next { s with sideband := { s.sideband with staged := if signatureOk then some image else none } }

/-- The deepest power state of a part, and the lowest lane cap (R401). -/
def State.deepest (s : State) : Nat :=
  Nat.max s.devicePower (Nat.max (s.quarterPower.foldl (fun n e => Nat.max n e.2) 0) (s.cores.foldl (fun n e => Nat.max n e.2.power) 0))
def State.minCap (s : State) : Nat := s.cores.foldl (fun n e => Nat.min n e.2.lanes) 32

/-- The control word `pwrctl` (R401). -/
def State.pwrctl (s : State) : Word :=
  BitVec.ofNat 64 (s.slew % 64 + s.tol % 2 ^ 24 * 2 ^ 8 + s.deepest % 8 * 2 ^ 32 + s.minCap % 64 * 2 ^ 40 + (if s.c2req then 2 ^ 48 else 0))

def PortState.code : PortState → Nat
  | down => 0 | training => 1 | up => 2 | retraining => 3

/-- `SIDEBAND_MONITORING` (R413): `pwrctl`, corrected soft errors, readings, port states and counts. -/
def execSidebandMonitoring (s : State) : Host.Outcome State Fault Refusal :=
  let ports := (List.range 16).flatMap fun p => let x := s.port p; [x.state.code, x.failed, x.discarded, x.dropped]
  let read := fun (t : Tbl Nat) => (List.range 32).map fun c => t.get 0 c
  .next { s with sideband := { s.sideband with
    answer := [s.pwrctl.toNat, s.corrected] ++ read s.temps ++ read s.volts ++ read s.process ++ ports } }

/-- The kinds of record that the side-band port reads. -/
def HostRecord.sideband (r : HostRecord) : Bool := [2, 4, 5, 7, 8, 9].contains r.kind

/-- A host record as four words (R375). -/
def HostRecord.words (r : HostRecord) : List Nat :=
  [r.kind % 2 ^ 16 + r.asid % 2 ^ 16 * 2 ^ 16 + r.hart % 2 ^ 16 * 2 ^ 32 + r.cause % 256 * 2 ^ 48, r.lepc.toNat, r.laddr.toNat, r.extra % 2 ^ 32]

/-- `SIDEBAND_RECORD_READ` (R413): the next record in arrival order. -/
def execSidebandRecordRead (s : State) : Host.Outcome State Fault Refusal :=
  .next (
    match (s.records.filter HostRecord.sideband)[s.sideband.read]? with
    | none => { s with sideband := { s.sideband with answer := [] } }
    | some r => { s with sideband := { s.sideband with read := s.sideband.read + 1, answer := r.words } })

/-- `SPDM_ATTESTATION` (R413): the answer is a free value (log 10). -/
def execSpdmAttestation (request : Nat) (s : State) : Host.Outcome State Fault Refusal :=
  let (s, n) := s.draw
  .next { s with sideband := { s.sideband with answer := [Config.spdmAnswer n request] } }

/-- `MAIN_SIDE_DOWN` (R413): only the side-band port goes on. -/
def execMainSideDown (s : State) : Host.Outcome State Fault Refusal :=
  .next { s with sideband := { s.sideband with mainUp := false } }

end Sys2Proof.Machine
end

