-- ==== Sys2Proof/Machine/Recess.lean ====
section
/-! DEFINITION. Time, recesses, power and reset (R9, R87, R104, R243, R371, R389-R401). -/

namespace Sys2Proof.Machine

/-! ## Time (R389, R390, R395) -/

/-- Beacon count of the published end of the recess in progress, and of its latest end. -/
def State.publishedEnd (s : State) (t : Nat) : Nat := t + recessLength s.recess.cls
def State.latestEnd (s : State) (t : Nat) : Nat := t + 4 * recessLength s.recess.cls

/-- The beacon count of the next instant at which the recess calendar has something to do. -/
def State.nextDue (s : State) : Nat :=
  match s.recess.start with
  | none => recessStartAt s.recess.number
  | some t => if s.beacon < s.publishedEnd t then s.publishedEnd t else s.latestEnd t

/-- The cores on which a vector block runs or waits. -/
def State.blockCores (s : State) : List Nat :=
  s.harts.filterMap fun e => if e.2.blk.isSome || !e.2.vq.isEmpty then some (slotCore e.1) else none

/-- The beacon reaches a count: cores parked in A2 or deeper keep their `cycle` (R87). -/
def State.reachBeacon (s : State) (b : Nat) : State :=
  let d := b - s.beacon
  let s := { s with
    beacon := Nat.max s.beacon b
    cores := s.cores.map fun (e : Nat × Core) => (e.1, if e.2.power = 2 then { e.2 with lag := e.2.lag + d } else e.2) }
  s.blockCores.foldl (fun s c => s.setCore c { s.core c with lastBlock := s.beacon }) s

/-- Time passes, not beyond what the recess calendar has next. Past the published end maintenance work is still running (R395). -/
def State.elapse (s : State) (n : Nat) : State := s.reachBeacon (Nat.min (s.beacon + n) s.nextDue)

/-- The recess in progress has outlasted its published length. -/
def State.overrunning (s : State) : Option Nat :=
  match s.recess.start with
  | some t => if s.publishedEnd t < s.beacon then some (s.beacon - s.publishedEnd t) else none
  | none => none

/-! ## Monitors (R400) -/

/-- Lower the caps of some cores: that ends an upward ramp (log 38). -/
def State.mapLanes (s : State) (cs : List Nat) (f : Nat → Nat) : State :=
  { cs.foldl (fun s c => let x := s.core c; s.setCore c { x with lanes := f x.lanes }) s with ramping := false }

def clusterCores (cl : Nat) : List Nat := (List.range 8).map fun c => 8 * cl + c

/-- One temperature reading acts: in units of 0.1 degrees. A cluster that has passed 95 degrees stays hot until a reading below it. -/
def State.thermal (s : State) (cl reading : Nat) : State :=
  let hot := 950 < reading || (reading == 950 && s.hot.contains cl)
  let s := { s with temps := s.temps.put cl reading, hot := (s.hot.filter (· != cl)) ++ (if hot then [cl] else []) }
  let s := if hot then s.mapLanes (clusterCores cl) fun n => Nat.max 1 (n - 1) else s
  if 1050 < reading then
    (s.mapLanes (List.range 256) fun _ => 1).record ⟨8, 0, 0xFFFF, 0, 0, BitVec.ofNat 64 cl, reading⟩
  else s

/-- The readings of one recess (R400): all 32 temperatures, and in class 1 and 2 voltages and process; in A4 the sweep is of temperature only (R396).
A voltage is given where it is out of band; a temperature that is not given, and every other reading, is a free value (log 10). -/
def State.sweep (s : State) (readings : List Nat) (millivolts : List (Option Nat)) : State :=
  let (s, n) := s.draw
  let s := (List.range 32).foldl (fun s cl => s.thermal cl (readings.getD cl (Config.monitor n (cl + 64)))) s
  if s.recess.cls = 0 || s.devicePower = 4 then s
  else
    (List.range 32).foldl (fun s cl =>
      let s := { s with process := s.process.put cl (Config.monitor n (cl + 32)) }
      match millivolts.getD cl none with
      | some mv => { s with volts := s.volts.put cl mv }.record ⟨9, 0, 0xFFFF, 0, 0, BitVec.ofNat 64 cl, mv⟩
      | none => { s with volts := s.volts.put cl (Config.monitor n cl) }) s

/-- The uncorrectable soft errors that a recess sweep finds are recorded for the host (R372, R375). -/
def State.sweepErrors (s : State) : State :=
  s.soft.foldl (fun s a => s.record ⟨4, 0, 0xFFFF, tMachine, 0, BitVec.ofNat 64 a, 0⟩) s

/-! ## The recess (R389-R395) -/

/-- A class-2 recess starts: ports that asked for it train again (R407). -/
def State.retrainPorts (s : State) : State :=
  (List.range 16).foldl (fun s p =>
    let x := s.port p
    if !x.retrain then s
    else
      match x.state with
      | .up => s.movePort p .retraining
      | .down => s.movePort p .training
      | _ => s) s

/-- The next recess starts. In A4 it performs the temperature sweep alone (R396): no port trains again, and what asked for it asks on. -/
def State.startRecess (s : State) (readings : List Nat) (millivolts : List (Option Nat)) : State :=
  if s.recess.start.isSome then s
  else
    let t := recessStartAt s.recess.number
    let r := { s.recess with start := some t }
    let deep := s.devicePower = 4
    let r := if s.recess.cls = 2 then { r with lastClass2 := some s.recess.number, retrain := r.retrain && deep } else r
    let u := { s.reachBeacon t with recess := r }.sweep readings millivolts
    if deep then u
    else if s.recess.cls = 2 then u.sweepErrors.retrainPorts
    else u.sweepErrors

/-- `RECESS_START` (R389, R400, R407): the beacon reaches the start of the next recess. -/
def execRecessStart (readings : List Nat) (millivolts : List (Option Nat)) (s : State) : Host.Outcome State Fault Refusal :=
  .next (s.startRecess readings millivolts)

/-- `DRAIN_WINDOW_OPEN` (R394): the beacon reaches the count 2,048 cycles before the next recess. -/
def execDrainWindowOpen (s : State) : Host.Outcome State Fault Refusal :=
  .next (if s.draining then s else s.reachBeacon (recessStartAt s.recess.number - drainWindow))

/-- The class of the recess after the one that ends (R389, R391, R395). -/
def State.nextClass (s : State) (unfinished : Bool) : Nat :=
  let n := s.recess.number + 1
  let spaced := match s.recess.lastClass2 with | none => true | some m => m + 64 ≤ s.recess.number
  if unfinished || s.c2req || (s.recess.retrain && spaced) then 2 else if n % 16 = 15 then 1 else 0

/-- The timetable at the end of a recess. -/
def State.publish (s : State) (unfinished : Bool) : State :=
  { s with
    recess := { s.recess with number := s.recess.number + 1, cls := s.nextClass unfinished, start := none }
    c2req := false }

/-- Harts parked in `IDLE` or `RCWAIT` until the end of this recess continue (R104, R393), but for one that a pre-emption takes there (R366), or
that is frozen (R100). -/
def Hart.recessEnds (n : Nat) (h : Hart) : Hart :=
  match if h.run != .running || h.yields then none else h.wait with
  | some ⟨.idle t _, _, _, _⟩ => if t = n then h.endIdle else h
  | some ⟨.recessEnd t, _, _, _⟩ => if t = n then h.endIdle else h
  | _ => h

/-- The instruction of a wait is no access of its own: it only waits for others (R371). -/
def waitsOnly (i : Instr) : Bool :=
  match i with
  | .fenceHart | .fenceCore | .fenceCluster | .fenceQuarter | .fenceDevice | .fenceSystem | .fenceSv | .fenceVs | .fencep _ _
  | .asinv _ _ | .wmset _ _ | .hgive _ _ | .strpush _ _ _ | .strpop _ _ | .pgprobe _ _ => true
  | _ => false

/-- The access that a wait of the hart in slot `k` holds is stalled by the recess (R371, R394): a step of a `TGEMM` whose tile is ready, and a pair
of steps whose sides have both arrived, among them. -/
def State.stalledWait (s : State) (k : Nat) (h : Hart) (w : Wait) : Bool :=
  match w.why with
  | .recess | .walk _ => !waitsOnly w.instr
  | .tile d => h.velem = 0 || ((s.core (slotCore k)).tile (d.toNat % 64)).state == .ready
  | .pair _ (some _) => match (s.hart (twinOf k)).wait with | some ⟨.pair _ (some _), _, _, _⟩ => true | _ => false
  | _ => false

/-- A hart whose access stalled past the published end is to take cause 0x19 (R371), unless it is frozen (R100). -/
def State.overran (s : State) (c k : Nat) (h : Hart) : Hart :=
  if h.run != .running then h
  else if h.unitWait.any (s.stalledWait k h) then { h with overrun := some (c, true) }
  else if h.wait.any (s.stalledWait k h) then { h with overrun := some (c, false) }
  else h

/-- A recess ends; `past` is the count of cycles past its published length. -/
def State.endRecess (s : State) (past : Option Nat) (unfinished : Bool) : State :=
  let n := s.recess.number
  let s := (List.range 16).foldl (fun s p => if (s.port p).state = .retraining then s.portFailed p else s) s
  let s := match past with
    | some c => { s.record ⟨5, 0, 0xFFFF, 0, 0, BitVec.ofNat 64 c, 0⟩ with harts := s.harts.map fun (e : Nat × Hart) => (e.1, s.overran c e.1 e.2) }
    | none => s
  ({ s with harts := s.harts.map fun (e : Nat × Hart) => (e.1, e.2.recessEnds n) }).publish unfinished |>.heldWork

/-- The recess in progress ends at its published length. -/
def State.endOnTime (s : State) : State :=
  match s.recess.start with
  | none => s
  | some t => if s.overrunning.isSome then s else (s.reachBeacon (s.publishedEnd t)).endRecess none false

/-- `RECESS_END` (R390): not once the recess has outlasted its length. -/
def execRecessEnd (s : State) : Host.Outcome State Fault Refusal := .next s.endOnTime

/-- `MAINTENANCE_WORK_END` (R395): before four times the published length. -/
def execMaintenanceWorkEnd (s : State) : Host.Outcome State Fault Refusal :=
  .next (
    match s.overrunning with
    | some c => s.endRecess (some c) false
    | none => s)

/-- The recess in progress ends at four times its published length. -/
def State.endLate (s : State) : State :=
  match s.recess.start with
  | none => s
  | some t => (s.reachBeacon (s.latestEnd t)).endRecess (some (3 * recessLength s.recess.cls)) true

/-- `RECESS_OVERRUN_END` (R395): the rest of the work moves to the next recess. -/
def execRecessOverrunEnd (s : State) : Host.Outcome State Fault Refusal := .next s.endLate

/-- `GDDR7_RETRAINING_REQUEST` (R391). -/
def execGddr7RetrainingRequest (dev : Nat) (s : State) : Host.Outcome State Fault Refusal :=
  .next (if dev < 32 then { s with recess := { s.recess with retrain := true } } else s)

/-- `IDLE_TIME_BOUND` (R104). -/
def execIdleTimeBound (slot : Nat) (s : State) : Host.Outcome State Fault Refusal :=
  let h := s.hart slot
  .next (
    match h.wait with
    | some ⟨.idle _ since, _, _, _⟩ => if since + 65536 ≤ s.beacon && h.run = .running && !h.yields then s.setHart slot h.endIdle else s
    | _ => s)

/-! ## Power (R396-R399, R401) -/

/-- Exit latency of a state in µs (R396). -/
def exitLatency (level : Nat) : Nat :=
  match level with
  | 0 => 0 | 1 => 2 | 2 => 40 | 3 => 800 | _ => 20000

/-- No vector block runs or waits on a core. -/
def State.blockless (s : State) (c : Nat) : Bool := (coreSlots c).all fun k => (s.hart k).blk.isNone && (s.hart k).vq.isEmpty

/-- A port has accepted messages. -/
def Port.busy (x : Port) : Bool := !x.q0.isEmpty || !x.q1.isEmpty

/-- Every core of a quarter is in A2, and none of its engines, those of its links among them, has accepted work (R396). -/
def State.quarterIdle (s : State) (q : Nat) : Bool :=
  ((List.range 64).all fun c => (s.core (64 * q + c)).power == 2) && ((List.range 8).all fun cl => (s.cluster (8 * q + cl)).cmds.isEmpty)
    && (List.range 4).all fun p => !(s.port (4 * q + p)).busy

/-- `POWER_STATE_ENTRY` (R396): `part` is a core for A1 and A2, a quarter for A3. None while a ramp-down is in progress. -/
def execPowerStateEntry (level part : Nat) (s : State) : Host.Outcome State Fault Refusal :=
  .next (
    if s.tol < exitLatency level || s.rampDown then s
    else
      let x := s.core part
      match level with
      | 1 => if part < 256 && x.power = 0 && s.blockless part && x.lastBlock + 4096 ≤ s.beacon then s.setCore part { x with power := 1 } else s
      | 2 => if part < 256 && s.coreFree part && x.lastBusy + 65536 ≤ s.beacon then s.setCore part { x with power := 2 } else s
      | 3 => if part < 4 && s.quarterIdle part then { s with quarterPower := s.quarterPower.put part 3 } else s
      | 4 =>
        if (List.range 4).all (fun q => s.quarterPower.get 0 q == 3) && (List.range 16).all (fun p => !(s.port p).busy)
        then { s with devicePower := 4 } else s
      | _ => s)

/-- `POWER_WAKE` (R397): the part returns to A0. -/
def execPowerWake (level part : Nat) (s : State) : Host.Outcome State Fault Refusal :=
  .next (
    match level with
    | 1 | 2 => if part < 256 then s.setCore part { s.core part with power := 0 } else s
    | 3 => if part < 4 then { s with quarterPower := s.quarterPower.put part 0 } else s
    | 4 => { s with devicePower := 0 }
    | _ => s)

/-- The largest stagger offset still armed (R399). -/
def State.armed (s : State) : Option Nat :=
  (s.stagger.filter fun e => s.beacon < e.2 + hundredMs).foldl (fun (o : Option Nat) e =>
    match o with
    | none => some e.1
    | some x => some (Nat.max x e.1)) none

/-- A cap may rise on a core: no reading holds it down (R400). -/
def State.coolEnough (s : State) (c : Nat) : Bool := s.temps.get 0 (c / 8) < 950 && s.temps.all fun e => e.2 < 1050

/-- An upward ramp is held (R399). -/
def State.capHeld (s : State) : Bool :=
  match s.capHold with
  | some b => s.beacon < b
  | none => false

/-- The caps stand at 32: an upward ramp that has come there is over. -/
def State.settleRamp (s : State) : State := { s with ramping := !(List.range 256).all fun c => (s.core c).lanes == 32 }

/-- `LANE_CAP_CHANGE` (R398-R400): from 1 to 32 lanes. The rise that begins a ramp takes the armed stagger, which holds every cap; a message received in a hold or
a ramp is for the next one. A ramp lasts until every cap stands at 32 or a cap is lowered (DESIGN CHOICE, log 38). -/
def execLaneCapChange (core lanes : Nat) (s : State) : Host.Outcome State Fault Refusal :=
  let x := s.core core
  let t := s.setCore core { x with lanes := lanes }
  .next (
    if 256 ≤ core || lanes = 0 || 32 < lanes || lanes = x.lanes then s
    else if lanes < x.lanes then { t with ramping := false }
    else if !s.coolEnough core || s.capHeld then s
    else
      match if s.ramping then none else s.armed with
      | some o => { s with stagger := [], capHold := some (s.beacon + 3000 * o), ramping := true }
      | none => t.settleRamp)

/-- `STAGGER_LAPSE` (R399). -/
def execStaggerLapse (s : State) : Host.Outcome State Fault Refusal :=
  .next { s with stagger := s.stagger.filter fun e => s.beacon < e.2 + hundredMs }

/-- `PWRCTL_SLEW_WRITE` (R401). -/
def execPwrctlSlewWrite (val : Nat) (s : State) : Host.Outcome State Fault Refusal :=
  .next (if 2 ≤ val && val ≤ 40 then { s with slew := val } else s)

/-- `PWRCTL_TOL_WRITE` (R401): parts whose exit latency exceeds the tolerance wake. -/
def execPwrctlTolWrite (val : Nat) (s : State) : Host.Outcome State Fault Refusal :=
  let tol := val % 2 ^ 24
  let keep := fun (p : Nat) => if tol < exitLatency p then 0 else p
  .next { s with
    tol := tol
    cores := s.cores.map fun e => (e.1, { e.2 with power := keep e.2.power })
    quarterPower := s.quarterPower.map fun e => (e.1, keep e.2)
    devicePower := keep s.devicePower }

/-- `PWRCTL_C2REQ_WRITE` (R401). -/
def execPwrctlC2reqWrite (val : Bool) (s : State) : Host.Outcome State Fault Refusal := .next { s with c2req := val }

/-! ## Reset (R9, R239, R243, R413) -/

/-- Memory as a reset that keeps it finds it: every write issued is applied everywhere, and every path shows the same bytes. -/
def State.keptViews (s : State) : Tbl View :=
  let c := s.allIssued
  let t := s.settleAll c
  let t := [Path.x, Path.c, Path.l, Path.n].foldl (fun t p => t.cross c p .h) t
  let v : View := ⟨(t.view 0 .h).bytes, []⟩
  (List.range 20).map fun k => (k, v)

/-- `DEVICE_RESET` (R9, R243): the staged firmware takes effect; the side-band port, on its own rail, keeps its place in the
records. -/
def execDeviceReset (keepMemory : Bool) (s : State) : Host.Outcome State Fault Refusal :=
  .next { State.reset with
    schedule := s.schedule
    freeCtr := s.freeCtr
    boots := s.boots + 1
    views := if keepMemory then s.keptViews else []
    soft := if keepMemory then s.soft else []
    corrected := s.corrected
    records := s.records
    sideband := { s.sideband with staged := none, running := s.sideband.staged.getD s.sideband.running, mainUp := true } }

end Sys2Proof.Machine
end

