-- ==== Sys2Proof/Machine/Context.lean ====
section
/-! DEFINITION. The context's life, pre-emption requests, frozen harts, the runtime's handler, the host's answers, and compressed
regions (R241, R359, R366, R373, R385, R387, R414). -/

namespace Sys2Proof.Machine

/-! ## The context (R359) -/

/-- Slots that hold a hart of a context. -/
def State.ctxSlots (s : State) (asid : Nat) : List Nat := s.harts.filterMap fun e => if e.2.asid = asid && e.2.run ≠ .free then some e.1 else none

/-- Copy commands of a context. -/
def State.ctxCmds (s : State) (asid : Nat) : List (Nat × Nat) :=
  s.clusters.flatMap fun c => c.2.cmds.filterMap fun m => if m.asid = asid then some (c.1, m.seq) else none

/-- `CONTEXT_CREATE` (R359). -/
def execContextCreate (asid root : Nat) (stackBase : Word) (stackLen : Nat) (saveBase : Word) (saveLen : Nat) (tvec : Word) (s : State) :
    Host.Outcome State Fault Refusal :=
  .next (
    if 4096 ≤ asid || (s.ctx asid).state ≠ .free then s
    else s.setCtx asid { Ctx.free with
      state := .loaded, root := root, stackBase := stackBase, stackLen := stackLen, saveBase := saveBase, saveLen := saveLen
      ltvec := tvec >>> 11 <<< 11 })

/-- `CONTEXT_SAVE` (R359, R366): every hart of the context receives a pre-emption request. -/
def execContextSave (asid : Nat) (s : State) : Host.Outcome State Fault Refusal :=
  let c := s.ctx asid
  .next (if c.state ≠ .running then s else (s.ctxSlots asid).foldl (fun s k => s.request k (2 ^ 20)) (s.setCtx asid { c with state := .saving }))

/-- `SAVE_COMPLETE` (R359, R375). -/
def execSaveComplete (asid : Nat) (s : State) : Host.Outcome State Fault Refusal :=
  let c := s.ctx asid
  .next (
    if c.state ≠ .saving || !(s.ctxSlots asid).isEmpty || !(s.ctxCmds asid).isEmpty then s
    else (s.setCtx asid { c with state := .saved }).record ⟨1, asid, 0xFFFF, 0, 0, 0, 0⟩)

/-- `CONTEXT_RESTORE` (R359): the saved members' records may be granted again, and the queues are taken from again. -/
def execContextRestore (asid : Nat) (s : State) : Host.Outcome State Fault Refusal :=
  let c := s.ctx asid
  .next (if c.state ≠ .saved then s else s.setCtx asid { c with state := if s.ctxCounts asid then .running else .loaded })

/-- A frozen hart leaves its slot without a save. -/
def State.releaseFrozen (s : State) (k : Nat) : State :=
  let h := s.hart k
  if h.run = .free then s
  else
    match h.member with
    | some id => (s.returnArea id (slotQuarter k) h.saveArea).freeSlot k
    | none => s.freeSlot k

/-- A command stops with status 6 unless its bytes are all written: a running one after the block it has come to (R228), in a recess before any
that waits. -/
def State.stopCmd (s : State) (cl seq : Nat) : State :=
  match (s.cluster cl).cmd? seq with
  | none => s
  | some m =>
    match m.state with
    | .moved _ => s
    | .waiting | .faulted _ => if s.stalled then s.endCmd cl { m with held := [] } 6 else s.cutCmd cl m 6
    | _ => s.endCmd cl m 6

/-- The classes of a port wait no more for the answers to some records; a put that waited for one leaves its queue, as after a fatal answer (log 40). -/
def Port.unwait (x : Port) (ours : Nat → Bool) : Port :=
  { x with
    q0 := if x.fault0.any ours then x.q0.drop 1 else x.q0
    q1 := if x.fault1.any ours then x.q1.drop 1 else x.q1
    fault0 := x.fault0.filter fun n => !ours n
    fault1 := x.fault1.filter fun n => !ours n }

/-- `CONTEXT_TEAR_DOWN` (R228, R278, R285, R359, R385). -/
def execContextTearDown (asid : Nat) (s : State) : Host.Outcome State Fault Refusal :=
  let c := s.ctx asid
  .next (
    if c.state = .loaded || c.state = .running || c.state = .saving || c.state = .saved then
      let s := s.setCtx asid { c with state := .dying }
      let s := (s.groups.filter fun e => e.2.asid == asid).foldl (fun s e => s.failGroup e.1 none) s
      let s := ((s.ctxSlots asid).filter fun k => !(s.hart k).commits).foldl State.releaseFrozen s
      let s := (s.kernels.filter fun k => k.asid == asid && !k.retired).foldl (fun s k => s.setKernel { k.retire with groups := 0 }) s
      let s := (s.ctxCmds asid).foldl (fun s e => s.stopCmd e.1 e.2) s
      let ours := fun (n : Nat) => s.faults.any fun f => f.asid == asid && f.ticket == n
      { s with
        faults := s.faults.filter fun f => f.asid != asid
        ports := s.ports.map fun p => (p.1, p.2.unwait ours)
        walks := s.walks.filter fun w => w.asid != asid }
    else s)

/-- `CONTEXT_TORN` (R299, R359): its queues go off. -/
def execContextTorn (asid : Nat) (s : State) : Host.Outcome State Fault Refusal :=
  let c := s.ctx asid
  .next (
    if c.state ≠ .dying || !(s.ctxSlots asid).isEmpty || !(s.ctxCmds asid).isEmpty then s
    else
      let s := (List.range 64).foldl (fun s q =>
        if (s.queue q).state ≠ .off && (s.queue q).asid = asid then (s.unreserve q).setQueue q Queue.off else s) s
      s.setCtx asid { c with state := .torn })

/-- `CONTEXT_RELEASE` (R359): its translations are invalidated and its save areas unpinned. -/
def execContextRelease (asid : Nat) (s : State) : Host.Outcome State Fault Refusal :=
  .next (
    if (s.ctx asid).state ≠ .torn then s
    else
      let s := s.invalidate (BitVec.ofNat 64 (asid % 4096 + 4096)) 0
      { s with
        pins := s.pins.filter fun p => p.trans.asid != asid
        kernels := s.kernels.filter fun k => k.asid != asid
        owed := s.owed.filter fun w => w.1 != asid
        ctxs := s.ctxs.drop asid })

/-! ## Frozen harts and pre-emption (R366, R373) -/

/-- `HOST_RELEASE_HART` (R373): the member of a frozen hart fails, and the slot is free. -/
def execHostReleaseHart (slot : Nat) (s : State) : Host.Outcome State Fault Refusal :=
  let h := s.hart slot
  .next (
    match h.run with
    | .frozen | .saveFault _ _ _ _ =>
      let s := match h.member with
        | some id => s.failMember id
        | none => s
      s.releaseFrozen slot
    | _ => s)

/-- `PREEMPTION_REQUEST` (R366), with the bound of R306 or the ordinary one. -/
def execPreemptionRequest (slot bound : Nat) (s : State) : Host.Outcome State Fault Refusal :=
  .next (if bound = 2 ^ 16 || bound = 2 ^ 20 then s.request slot bound else s)

/-- A forced bound of a hart has passed; a task that is committing is not stopped (R354). -/
def State.forced (s : State) (h : Hart) : Bool := !h.arming && !h.task.committing && h.preempt.any fun p => p.bound.any fun b => p.at_ + b ≤ s.beacon

/-! ## The runtime's handler (R290, R414) and the host's answers (R385) -/

/-- The hart in a slot returns from its handler. -/
def State.returnFrom (s : State) (k : Nat) : State := s.asSlot k fun s => s.upd Hart.ret

/-- The member in a slot fails. -/
def State.failSlot (s : State) (k : Nat) : State :=
  match (s.hart k).member with
  | some id => s.failMember id
  | none => s

/-- The task in a slot ends, once its commit may be issued (R350, R394). -/
def State.tryEnd (s : State) (k : Nat) : State := if s.commitWaits k then s else s.endTask k

/-- The service of the cause that entered the handler of a hart (R414). -/
def State.serve (s : State) (k : Nat) : State :=
  let h := s.hart k
  let c := h.lcause.toNat % 256
  if h.run ≠ .running || !h.system then s
  else if c = tSoftware then
    if h.laddr.toNat < 0x8000 then s.returnFrom k
    else if h.laddr = 0x8000 then s.tryEnd k
    else s.failSlot k
  else if c = tOverrun then s.returnFrom k
  else if c = tFetch || c = tLoad || c = tStore then (if s.unanswered k then s else s.failSlot k)
  else s.failSlot k

/-- `LOCKET_COMMIT` (R290, R350): of a task that is committing. -/
def execLocketCommit (slot : Nat) (s : State) : Host.Outcome State Fault Refusal :=
  let h := s.hart slot
  .next (if h.run = .running && h.task.committing then s.tryEnd slot else s)

/-- The answer to a hart's record: the handler returns, or the member fails (R385, R414). -/
def State.answerHart (s : State) (r : FaultRecord) (retry : Bool) : State :=
  let h := s.hart r.source
  let c := h.lcause.toNat % 256
  if h.run = .running && h.system && h.lepc = r.where_ && (c = tFetch || c = tLoad || c = tStore) then
    if retry then s.returnFrom r.source else s.failSlot r.source
  else s

/-- The answer to an engine's record: the command goes on, or completes with status 1 (R237, R385). -/
def State.answerEngine (s : State) (r : FaultRecord) (retry : Bool) : State :=
  let cl := r.source - 0x8000
  match (s.cluster cl).cmds.find? fun m => tokenOf cl m.seq == r.where_ with
  | none => s
  | some m =>
    match m.state with
    | .faulted _ => if retry then s.setCmd cl { m with state := .waiting } else s.cutCmd cl m 1
    | _ => s

/-- The answer to a port's record: the put is tried again, or dropped (log 16). -/
def State.answerPort (s : State) (r : FaultRecord) (retry : Bool) : State :=
  let p := r.source - 0xC000
  let x := s.port p
  if x.fault0 = some r.ticket then (if retry then s.setPort p { x with fault0 := none } else s.popMsg p 0)
  else if x.fault1 = some r.ticket then (if retry then s.setPort p { x with fault1 := none } else s.popMsg p 1)
  else s

/-- `HOST_FAULT_ANSWER` (R385). A fatal answer to an engine waits out a recess, with the bytes that it lets the engine write (R237, R394). -/
def execHostFaultAnswer (ticket : Nat) (retry : Bool) (s : State) : Host.Outcome State Fault Refusal :=
  .next (
    match s.faults.find? fun r => r.ticket == ticket with
    | none => s
    | some r =>
      let u := s
      let s := { s with faults := s.faults.filter fun x => x.ticket != ticket }
      if r.source < 0x8000 then s.answerHart r retry
      else if r.source < 0xC000 && !retry && s.stalled then u
      else if r.source < 0xC000 then s.answerEngine r retry
      else s.answerPort r retry)

/-! ## Walks and invalidations (R384, R387) -/

/-- A walk is the one that a completion at an address names: of the page that the tables now give it, or of the address's own 4 KiB. -/
def State.walkAt (s : State) (q asid : Nat) (va : Word) (w : Walk) : Bool :=
  w.of q asid (s.walkPage q asid va) || w.of q asid (BitVec.ofNat 64 (va.toNat / 4096 * 4096))

/-- `PAGE_WALK_COMPLETE` (R384): of the page that holds an address. The translation is cached, if the walk finds one; the waiting accesses translate
when they execute again, and a walk that fails or finds a soft error does so for each of them. A walk that only `PGPROBE` wants caches nothing and sets no
bit (R388). -/
def execPageWalkComplete (quarter asid : Nat) (va : Word) (s : State) : Host.Outcome State Fault Refusal :=
  .next (
    if s.stalled then s
    else
      match s.walks.filter (s.walkAt quarter asid va) with
      | [] => s
      | ws =>
        let t := { s with walks := s.walks.filter fun w => !s.walkAt quarter asid va w }
        if ws.all (·.probe) || (t.cached quarter asid va).isSome then t
        else
          match t.walkFrom quarter va (t.ctx asid).root 4 with
          | .inl _ => t
          | .inr (e, at_, level) => t.fill quarter (transOf asid va e at_ level))

/-- `HOST_INVALIDATE` (R387): the host's earlier writes are applied in every view and shown to the walks, then the translations in
scope are dropped in every quarter, and the device's words that waited on a migration are written (R382). The invalidation is complete once no word keeps a
translation in its scope; until then it stands in `invals`. -/
def execHostInvalidate (a va : Word) (s : State) : Host.Outcome State Fault Refusal :=
  .next (
    if s.stalled then s
    else
      let c := s.allIssued
      let t := ((s.settleAll c).cross c .n .h).invalidate a va
      let t := if t.owed.isEmpty then t else t.payOwed
      { t with invals := (t.invals.filter (· != (a, va)) ++ [(a, va)]).filter fun i => t.keptBy (fun _ => true) i.1 i.2 })

/-! ## Compressed regions (R241) -/

/-- A page size (R380). -/
def pageSize (n : Nat) : Bool := (List.range 16).any fun c => n == 2 ^ sizeBits c

/-- Blocks of a region whose last word is the hallmark, by the latest write on any path. -/
def State.hallmarked (s : State) (base size : Nat) : List Nat :=
  ((List.range (size / 256)).map fun i => base + 256 * i).filter fun b =>
    (s.blockWords b).getD 63 0 == (Config.hallmark s.boots).toNat

/-- `REGION_DECLARE` (R241): a declaration scans the region; with more than 16 such blocks it fails. Clearing leaves it plain.
A declaration that overlaps a region declared with another base or size does nothing, a case on which the spec is silent (DESIGN CHOICE, log 37). -/
def execRegionDeclare (base size : Nat) (declare : Bool) (s : State) : Host.Outcome State Fault Refusal :=
  let others := s.regions.filter fun r => !(r.base == base && r.size == size)
  .next (
    if s.stalled || !pageSize size || base % size ≠ 0 || !inDram base || !inDram (base + size - 1)
        || others.any (fun r => overlaps base size r.base r.size) then s
    else if !declare then { s with regions := others }
    else
      match s.regions.find? fun r => r.base == base && r.size == size && r.compressing with
      | some _ => s
      | none =>
        let l := s.hallmarked base size
        if 16 < l.length then s else { s with regions := others ++ [⟨base, size, true, l, [], none⟩] })

/-! ## Writes (R255, R262) -/

/-- `WRITE_APPLY` (R251, R255, R262): view `5 r + p` is path `p` of quarter `r`. -/
def execWriteApply (index view : Nat) (s : State) : Host.Outcome State Fault Refusal :=
  .next (
    match s.writes[index]? with
    | some w => if view < 20 then s.apply w (view / 5) (Path.ofIndex (view % 5)) else s
    | none => s)

/-- `COPY_COMMAND_COMPLETE` (R237, R264): once its writes are applied in all views. -/
def execCopyCommandComplete (cluster seq : Nat) (s : State) : Host.Outcome State Fault Refusal :=
  .next (
    match (s.cluster cluster).cmd? seq with
    | none => s
    | some m =>
      match m.state with
      | .moved st => if s.stalled then s else (s.settleAll m.clock).finishCmd cluster m st
      | _ => s)

end Sys2Proof.Machine
end

