-- ==== Sys2Proof/Machine/Scalar.lean ====
section
/-! DEFINITION. Scalar integer instructions, address formation, loads, stores, branches and jumps (R91-R98). -/

namespace Sys2Proof.Machine

/-! ## Shared operations -/

/-- Write the result of a two-register form and go on (R91). -/
def State.int2 (s : State) (d a b : SReg) (f : Word → Word → Word) : State :=
  s.upd fun h => (h.sput d (f (h.sget a) (h.sget b))).next

/-- Write the result of a one-register form and go on (R91). -/
def State.int1 (s : State) (d a : SReg) (f : Word → Word) : State :=
  s.upd fun h => (h.sput d (f (h.sget a))).next

/-- A division: a zero divisor raises divide-by-zero (R92). -/
def State.intDivide (s : State) (d a b : SReg) (f : Word → Word → Word) : State :=
  s.upd fun h =>
    ((h.sput d (f (h.sget a) (h.sget b))).raise (if h.sget b = 0 then fDivZero else fNone)).next

/-- A compare-and-branch form (R97). -/
def State.branch (s : State) (a b : SReg) (off : BitVec 16) (c : Word → Word → Bool) : State :=
  s.upd fun h => if c (h.sget a) (h.sget b) then h.jump (h.pc + (off.signExtend 64 <<< 2)) else h.next

/-- Quotient and remainder with the cases of R92. -/
def divSigned (a b : Word) : Word := if b = 0 then BitVec.allOnes 64 else BitVec.ofInt 64 (a.toInt.tdiv b.toInt)
def divUnsigned (a b : Word) : Word := if b = 0 then BitVec.allOnes 64 else BitVec.ofNat 64 (a.toNat / b.toNat)
def remSigned (a b : Word) : Word := if b = 0 then a else BitVec.ofInt 64 (a.toInt.tmod b.toInt)
def remUnsigned (a b : Word) : Word := if b = 0 then a else BitVec.ofNat 64 (a.toNat % b.toNat)

/-- High 64 bits of the signed product (R91). -/
def mulHigh (a b : Word) : Word := BitVec.ofInt 64 ((a.toInt * b.toInt) / 2 ^ 64)

/-- Leading zeros, from bit `k - 1` down; trailing zeros, from bit `n` up; one bits (R91). -/
def leadingZeros (a : Word) (k : Nat) : Nat :=
  match k with
  | 0 => 0
  | k + 1 => if a.getLsbD k then 0 else 1 + leadingZeros a k
def trailingZeros (a : Word) (k : Nat) : Nat :=
  match k with
  | 0 => 0
  | k + 1 => if a.getLsbD (63 - k) then 0 else 1 + trailingZeros a k
def oneBits (x : Nat) (k : Nat) : Nat :=
  match k with
  | 0 => 0
  | k + 1 => x % 2 + oneBits (x / 2) k

/-- 1 or 0. -/
def flag (b : Bool) : Word := if b then 1 else 0

/-- Shift amounts are the low six bits (R91). -/
def shamt (b : Word) : Nat := b.toNat % 64

/-- Replace one halfword (R93). -/
def setHalf (x : Word) (imm : BitVec 16) (h : BitVec 2) : Word :=
  let k := 16 * h.toNat
  (x &&& ~~~(0xFFFF#64 <<< k)) ||| (imm.zeroExtend 64 <<< k)

/-! ## Integer forms -/

/-- `ADD` (R91). -/
def execAdd (d a b : SReg) (s : State) : Host.Outcome State Fault Refusal := .next (s.int2 d a b (· + ·))

/-- `SUB` (R91). -/
def execSub (d a b : SReg) (s : State) : Host.Outcome State Fault Refusal := .next (s.int2 d a b (· - ·))

/-- `MUL`: the low 64 bits of the product (R91). -/
def execMul (d a b : SReg) (s : State) : Host.Outcome State Fault Refusal := .next (s.int2 d a b (· * ·))

/-- `MULH` (R91). -/
def execMulh (d a b : SReg) (s : State) : Host.Outcome State Fault Refusal := .next (s.int2 d a b mulHigh)

/-- `DIV` (R91, R92). -/
def execDiv (d a b : SReg) (s : State) : Host.Outcome State Fault Refusal := .next (s.intDivide d a b divSigned)

/-- `DIVU` (R91, R92). -/
def execDivu (d a b : SReg) (s : State) : Host.Outcome State Fault Refusal := .next (s.intDivide d a b divUnsigned)

/-- `REM` (R91, R92). -/
def execRem (d a b : SReg) (s : State) : Host.Outcome State Fault Refusal := .next (s.intDivide d a b remSigned)

/-- `REMU` (R91, R92). -/
def execRemu (d a b : SReg) (s : State) : Host.Outcome State Fault Refusal := .next (s.intDivide d a b remUnsigned)

/-- `AND` (R91). -/
def execAnd (d a b : SReg) (s : State) : Host.Outcome State Fault Refusal := .next (s.int2 d a b (· &&& ·))

/-- `OR` (R91). -/
def execOr (d a b : SReg) (s : State) : Host.Outcome State Fault Refusal := .next (s.int2 d a b (· ||| ·))

/-- `XOR` (R91). -/
def execXor (d a b : SReg) (s : State) : Host.Outcome State Fault Refusal := .next (s.int2 d a b (· ^^^ ·))

/-- `SHL` (R91). -/
def execShl (d a b : SReg) (s : State) : Host.Outcome State Fault Refusal := .next (s.int2 d a b fun x y => x <<< shamt y)

/-- `SHR` (R91). -/
def execShr (d a b : SReg) (s : State) : Host.Outcome State Fault Refusal := .next (s.int2 d a b fun x y => x >>> shamt y)

/-- `SRA` (R91). -/
def execSra (d a b : SReg) (s : State) : Host.Outcome State Fault Refusal := .next (s.int2 d a b fun x y => x.sshiftRight (shamt y))

/-- `SLT` (R91). -/
def execSlt (d a b : SReg) (s : State) : Host.Outcome State Fault Refusal := .next (s.int2 d a b fun x y => flag (x.slt y))

/-- `SLTU` (R91). -/
def execSltu (d a b : SReg) (s : State) : Host.Outcome State Fault Refusal := .next (s.int2 d a b fun x y => flag (x.ult y))

/-- `MIN`, signed (R91). -/
def execMin (d a b : SReg) (s : State) : Host.Outcome State Fault Refusal := .next (s.int2 d a b fun x y => if y.slt x then y else x)

/-- `MINU` (R91). -/
def execMinu (d a b : SReg) (s : State) : Host.Outcome State Fault Refusal := .next (s.int2 d a b fun x y => if y.ult x then y else x)

/-- `MAX`, signed (R91). -/
def execMax (d a b : SReg) (s : State) : Host.Outcome State Fault Refusal := .next (s.int2 d a b fun x y => if x.slt y then y else x)

/-- `MAXU` (R91). -/
def execMaxu (d a b : SReg) (s : State) : Host.Outcome State Fault Refusal := .next (s.int2 d a b fun x y => if x.ult y then y else x)

/-- `CLZ` (R91). -/
def execClz (d a : SReg) (s : State) : Host.Outcome State Fault Refusal := .next (s.int1 d a (fun x => BitVec.ofNat 64 (leadingZeros x 64)))

/-- `CTZ` (R91). -/
def execCtz (d a : SReg) (s : State) : Host.Outcome State Fault Refusal := .next (s.int1 d a (fun x => BitVec.ofNat 64 (trailingZeros x 64)))

/-- `POPC` (R91). -/
def execPopc (d a : SReg) (s : State) : Host.Outcome State Fault Refusal := .next (s.int1 d a (fun x => BitVec.ofNat 64 (oneBits x.toNat 64)))

/-- `JALR`: read, link, then go; a target that is not a multiple of 4 takes the instruction-alignment trap before any fetch
(R98, R101). -/
def execJalr (d a : SReg) (s : State) : Host.Outcome State Fault Refusal :=
  let t := s.me.sget a
  let s := s.upd fun h => (h.sput d (h.pc + 4)).jump t
  .next (if t.toNat % 4 = 0 then s else s.trapAt tInstrAlign false t t)

/-- `SHLI` (R91). -/
def execShli (d a : SReg) (k : BitVec 6) (s : State) : Host.Outcome State Fault Refusal := .next (s.int1 d a (fun x => x <<< k.toNat))

/-- `SHRI` (R91). -/
def execShri (d a : SReg) (k : BitVec 6) (s : State) : Host.Outcome State Fault Refusal := .next (s.int1 d a (fun x => x >>> k.toNat))

/-- `SRAI` (R91). -/
def execSrai (d a : SReg) (k : BitVec 6) (s : State) : Host.Outcome State Fault Refusal := .next (s.int1 d a (fun x => x.sshiftRight k.toNat))

/-- `ADDI` (R91). -/
def execAddi (d a : SReg) (imm : BitVec 16) (s : State) : Host.Outcome State Fault Refusal := .next (s.int1 d a (fun x => x + imm.signExtend 64))

/-- `ANDI` (R91). -/
def execAndi (d a : SReg) (imm : BitVec 16) (s : State) : Host.Outcome State Fault Refusal := .next (s.int1 d a (fun x => x &&& imm.zeroExtend 64))

/-- `ORI` (R91). -/
def execOri (d a : SReg) (imm : BitVec 16) (s : State) : Host.Outcome State Fault Refusal := .next (s.int1 d a (fun x => x ||| imm.zeroExtend 64))

/-- `XORI` (R91). -/
def execXori (d a : SReg) (imm : BitVec 16) (s : State) : Host.Outcome State Fault Refusal := .next (s.int1 d a (fun x => x ^^^ imm.zeroExtend 64))

/-- `LIH` replaces bits [16h + 15 : 16h] (R93). -/
def execLih (d : SReg) (imm : BitVec 16) (h : BitVec 2) (s : State) : Host.Outcome State Fault Refusal :=
  .next (s.int1 d d fun x => setHalf x imm h)

/-- `ADDPC` (R93). -/
def execAddpc (d : SReg) (imm : BitVec 16) (s : State) : Host.Outcome State Fault Refusal :=
  .next (s.upd fun h => (h.sput d (h.pc + (imm.signExtend 64 <<< 2))).next)

/-! ## Loads and stores (R94-R96) -/

/-- The effective address of a scalar access (R94). -/
def State.ea (s : State) (b : SReg) (off : BitVec 13) : Word := s.me.sget b + off.signExtend 64

/-- `LB` (R94-R96). -/
def execLb (d b : SReg) (off : BitVec 13) (s : State) : Host.Outcome State Fault Refusal :=
  .next (s.scalarLoad (.lb d b off) d (s.ea b off) 1 true)

/-- `LH` (R94-R96). -/
def execLh (d b : SReg) (off : BitVec 13) (s : State) : Host.Outcome State Fault Refusal :=
  .next (s.scalarLoad (.lh d b off) d (s.ea b off) 2 true)

/-- `LW` (R94-R96). -/
def execLw (d b : SReg) (off : BitVec 13) (s : State) : Host.Outcome State Fault Refusal :=
  .next (s.scalarLoad (.lw d b off) d (s.ea b off) 4 true)

/-- `LD` (R94-R96). -/
def execLd (d b : SReg) (off : BitVec 13) (s : State) : Host.Outcome State Fault Refusal :=
  .next (s.scalarLoad (.ld d b off) d (s.ea b off) 8 false)

/-- `LBU` (R94-R96). -/
def execLbu (d b : SReg) (off : BitVec 13) (s : State) : Host.Outcome State Fault Refusal :=
  .next (s.scalarLoad (.lbu d b off) d (s.ea b off) 1 false)

/-- `LHU` (R94-R96). -/
def execLhu (d b : SReg) (off : BitVec 13) (s : State) : Host.Outcome State Fault Refusal :=
  .next (s.scalarLoad (.lhu d b off) d (s.ea b off) 2 false)

/-- `LWU` (R94-R96). -/
def execLwu (d b : SReg) (off : BitVec 13) (s : State) : Host.Outcome State Fault Refusal :=
  .next (s.scalarLoad (.lwu d b off) d (s.ea b off) 4 false)

/-- `SB` (R94-R96). -/
def execSb (x b : SReg) (off : BitVec 13) (s : State) : Host.Outcome State Fault Refusal :=
  .next (s.scalarStore (.sb x b off) (s.me.sget x) (s.ea b off) 1)

/-- `SH` (R94-R96). -/
def execSh (x b : SReg) (off : BitVec 13) (s : State) : Host.Outcome State Fault Refusal :=
  .next (s.scalarStore (.sh x b off) (s.me.sget x) (s.ea b off) 2)

/-- `SW` (R94-R96). -/
def execSw (x b : SReg) (off : BitVec 13) (s : State) : Host.Outcome State Fault Refusal :=
  .next (s.scalarStore (.sw x b off) (s.me.sget x) (s.ea b off) 4)

/-- `SD` (R94-R96). -/
def execSd (x b : SReg) (off : BitVec 13) (s : State) : Host.Outcome State Fault Refusal :=
  .next (s.scalarStore (.sd x b off) (s.me.sget x) (s.ea b off) 8)

/-! ## Branches and jumps (R97, R98) -/

/-- `BEQ` (R97). -/
def execBeq (a b : SReg) (off : BitVec 16) (s : State) : Host.Outcome State Fault Refusal := .next (s.branch a b off (fun x y => x == y))

/-- `BNE` (R97). -/
def execBne (a b : SReg) (off : BitVec 16) (s : State) : Host.Outcome State Fault Refusal := .next (s.branch a b off (fun x y => x != y))

/-- `BLT` (R97). -/
def execBlt (a b : SReg) (off : BitVec 16) (s : State) : Host.Outcome State Fault Refusal := .next (s.branch a b off (fun x y => x.slt y))

/-- `BGE` (R97). -/
def execBge (a b : SReg) (off : BitVec 16) (s : State) : Host.Outcome State Fault Refusal := .next (s.branch a b off (fun x y => !x.slt y))

/-- `BLTU` (R97). -/
def execBltu (a b : SReg) (off : BitVec 16) (s : State) : Host.Outcome State Fault Refusal := .next (s.branch a b off (fun x y => x.ult y))

/-- `BGEU` (R97). -/
def execBgeu (a b : SReg) (off : BitVec 16) (s : State) : Host.Outcome State Fault Refusal := .next (s.branch a b off (fun x y => !x.ult y))

/-- `JAL` (R98). -/
def execJal (d : SReg) (off : BitVec 21) (s : State) : Host.Outcome State Fault Refusal :=
  .next (s.upd fun h => (h.sput d (h.pc + 4)).jump (h.pc + (off.signExtend 64 <<< 2)))

end Sys2Proof.Machine
end

