-- ==== Sys2Proof/Machine/Uses.lean ====
section
/-! DEFINITION. The registers that an instruction reads and writes: for the soft errors of a register (R372), and for the interlock between
the scalar stream and the vector unit (R112). -/

namespace Sys2Proof.Machine

/-- The registers that a word reads and those that it writes. -/
structure Regs where
  reads : List BadPlace
  writes : List BadPlace
  deriving DecidableEq, Repr

/-- Control registers that an instruction reads by itself or by its number (R85, R86, R102, R108, R109): `fmode` what rounds, saturates or
accrues (R43), `velem` what resumes or restarts by it (R213, R370), `vlgrant` and the lane cap what the grant comes from (R108, R109), `lstat` what its mode
allows (R88), which words of the vector unit all do (`Hart.issueRegs`). -/
def ctlRegs (i : Instr) : List Nat :=
  match i with
  | .crr _ n => [0x104, n.toNat]
  | .crw _ _ n | .crs _ _ n | .crc _ _ n => 0x104 :: n.toNat :: if n = 0x001 then [0x002, 0x003] else []
  | .vcfg _ _ _ => [0x002, 0x003]
  | .rett => [0x100, 0x101, 0x102, 0x104, 0x106]
  | .savepin _ _ | .asinv _ _ | .pgprobe _ _ => [0x104]
  | .setvl _ _ => [0x001, 0x003]
  | .slate _ _ _ => [0x001]
  | .barrive _ _ => [0x002]
  | .smerge _ => [0x000]
  | .vblk _ | .vloop _ _ => [0x001, 0x002]
  | .mma _ _ _ _ _ => [0x000, 0x001, 0x002]
  | .mopa _ _ _ _ _ => [0x000, 0x002]
  | .psetd _ _ | .psetvl _ _ | .pld _ _ | .pst _ _ => [0x004]
  | .pevalb _ _ _ | .pevalx _ _ _ => [0x000, 0x001, 0x002, 0x004]
  | .tgemm _ _ _ _ | .padd _ _ _ _ | .psub _ _ _ _ | .pscal _ _ _ _ | .pmul _ _ _ _ | .pmulc _ _ _ _ | .pdiff _ _ _ _ | .pint _ _ _ _
  | .pfit _ _ _ | .pnode _ _ _ | .pproj _ _ _ _ | .plift _ _ _ _ | .pconv _ _ _ _ | .pfaceAvg _ _ _ _ | .pfaceJump _ _ _ _
  | .pfaceUp _ _ _ _ _ | .pintd _ _ _ | .ptrace _ _ _ _ _ | .peval _ _ _ => [0x000, 0x004]
  | .vadd _ _ _ _ _ _ | .vsub _ _ _ _ _ _ | .vmul _ _ _ _ _ _ | .vdiv _ _ _ _ _ _ | .vmin _ _ _ _ _ _ | .vmax _ _ _ _ _ _
  | .vscale _ _ _ _ _ _ | .vmadd _ _ _ _ _ _ | .vsqrt _ _ _ _ _ | .vabs _ _ _ _ | .vneg _ _ _ _ | .vcmpEq _ _ _ _ _ _ | .vcmpNe _ _ _ _ _ _
  | .vcmpLt _ _ _ _ _ _ | .vcmpLe _ _ _ _ _ _ | .vcmpGt _ _ _ _ _ _ | .vcmpGe _ _ _ _ _ _ | .vcmpLtu _ _ _ _ _ _ | .vcmpLeu _ _ _ _ _ _
  | .vcmpGtu _ _ _ _ _ _ | .vcmpGeu _ _ _ _ _ _ | .vredsum _ _ _ _ _ | .vredmin _ _ _ _ | .vredmax _ _ _ _ | .vredmini _ _ _ _ _
  | .vcvt _ _ _ _ _ _ _ | .sladd _ _ _ _ | .slmin _ _ _ _ | .slmax _ _ _ _ => [0x000]
  | .zcvt _ _ _ _ | .fadd _ _ _ _ _ | .fsub _ _ _ _ _ | .fmul _ _ _ _ _ | .fdiv _ _ _ _ _ | .fsqrt _ _ _ _
  | .fmin _ _ _ _ | .fmax _ _ _ _ | .feq _ _ _ _ | .flt _ _ _ _ | .fle _ _ _ _ | .fmadd _ _ _ _ _ | .fmsub _ _ _ _ _
  | .fcvt _ _ _ _ _ => [0x000]
  | _ => []

/-- Scalar, mask, vector-group and polynomial registers as places; S0 and M0 are constants (R83, R106). -/
def sPlaces (l : List SReg) : List BadPlace := (l.filter (· != 0)).map BadPlace.s
def mPlaces (l : List MReg) : List BadPlace := (l.filter (· != 0)).map BadPlace.m
def pPlaces (l : List PReg) : List BadPlace := l.flatMap fun r => [.p r, .d r]
/-- The group at `r` of elements of width `w` (R107), and `n` registers from `r`. -/
def vPlaces (r : VReg) (n : Nat) : List BadPlace := (List.range n).map fun i => .v (r.toNat + i)
def Hart.group (h : Hart) (r : VReg) (w : Nat) : List BadPlace := vPlaces r (groupSize (cfgVlmax h.cfg) w)
/-- The exception mask that a word names (R53). -/
def excPlaces (xm : BitVec 2) : List BadPlace := if xm = 0 then [] else mPlaces [BitVec.ofNat 4 (11 + xm.toNat)]

/-- Forms on scalar registers alone. -/
def sRegs (reads writes : List SReg) : Regs := ⟨sPlaces reads, sPlaces writes⟩
/-- Element-wise forms (R122): a masked destination. -/
def Hart.vRegs (h : Hart) (vd : VReg) (srcs : List VReg) (mk : MReg) (xm : BitVec 2) : Regs :=
  let w := (cfgFmt h.cfg).width
  ⟨srcs.flatMap (h.group · w) ++ mPlaces [mk], h.group vd w ++ excPlaces xm⟩
/-- Compares and mask operations: only bits of the mask below VL change. -/
def Hart.cmpRegs (h : Hart) (md : MReg) (va vb : VReg) (mk : MReg) (xm : BitVec 2) : Regs :=
  let w := (cfgFmt h.cfg).width
  ⟨h.group va w ++ h.group vb w ++ mPlaces [mk], mPlaces [md] ++ excPlaces xm⟩
/-- Reductions. -/
def Hart.redRegs (h : Hart) (ds : List SReg) (va : VReg) (mk : MReg) (xm : BitVec 2) : Regs :=
  ⟨h.group va (cfgFmt h.cfg).width ++ mPlaces [mk], sPlaces ds ++ excPlaces xm⟩
/-- Loads and stores of a group: base registers, index group, mask, and M15 where the form reports through it (R147, R148). -/
def Hart.loadRegs (h : Hart) (vd : VReg) (bs : List SReg) (vi : Option VReg) (mk : MReg) (m15 : Bool) : Regs :=
  let w := (cfgFmt h.cfg).width
  ⟨sPlaces bs ++ (match vi with | some r => h.group r (indexWidth w) | none => []) ++ mPlaces (mk :: if h.markedVelem then [15] else []),
    h.group vd w ++ if m15 then mPlaces [15] else []⟩
def Hart.storeRegs (h : Hart) (vs : VReg) (bs : List SReg) (vi : Option VReg) (mk : MReg) (m15 : Bool) : Regs :=
  let r := h.loadRegs vs bs vi mk m15
  ⟨r.reads ++ h.group vs (cfgFmt h.cfg).width, if m15 then mPlaces [15] else []⟩
def Hart.vamoRegs (h : Hart) (vd : VReg) (b : SReg) (vi : VReg) (mk : MReg) (cas : Bool) : Regs :=
  let w := (cfgFmt h.cfg).width
  let r := h.storeRegs vd [b] (some vi) mk true
  ⟨r.reads ++ (if cas then h.group (vd + 1) w else []), r.writes ++ h.group vd w⟩
/-- Polynomial forms: the destination's descriptor is read too. -/
def polyRegs (pd : PReg) (srcs : List PReg) (mk : MReg) : Regs := ⟨pPlaces srcs ++ [.d pd] ++ mPlaces [mk], pPlaces [pd]⟩
/-- Polynomial forms with a vector destination, and `n` vector registers that they read as well. -/
def polyVecRegs (vd : VReg) (pa : PReg) (mk : MReg) (n : Nat) : Regs := ⟨pPlaces [pa] ++ mPlaces [mk] ++ vPlaces vd n, .d pa :: vPlaces vd 1⟩

/-- The registers of an instruction word, for the hart that executes it. -/
def wordRegs (h : Hart) (i : Instr) : Regs :=
  match i with
  | .add d a b | .sub d a b | .mul d a b | .mulh d a b | .div d a b | .divu d a b | .rem d a b | .remu d a b | .and d a b | .or d a b
  | .xor d a b | .shl d a b | .shr d a b | .sra d a b | .slt d a b | .sltu d a b | .min d a b | .minu d a b | .max d a b
  | .maxu d a b => sRegs [a, b] [d]
  | .clz d a | .ctz d a | .popc d a | .jalr d a | .pgprobe d a | .bwait d a | .qstate d a | .gnode d a | .strpop d a | .setvl d a => sRegs [a] [d]
  | .shli d a _ | .shri d a _ | .srai d a _ => sRegs [a] [d]
  | .addi d a _ | .andi d a _ | .ori d a _ | .xori d a _ => sRegs [a] [d]
  | .lih d _ _ => sRegs [d] [d]
  | .addpc d _ => sRegs [] [d]
  | .lb d b _ | .lh d b _ | .lw d b _ | .ld d b _ | .lbu d b _ | .lhu d b _ | .lwu d b _ => sRegs [b] [d]
  | .sb x b _ | .sh x b _ | .sw x b _ | .sd x b _ => sRegs [x, b] []
  | .beq a b _ | .bne a b _ | .blt a b _ | .bge a b _ | .bltu a b _ | .bgeu a b _ => sRegs [a, b] []
  | .jal d _ => sRegs [] [d]
  | .fadd d a b _ _ | .fsub d a b _ _ | .fmul d a b _ _ | .fdiv d a b _ _ => sRegs [a, b] [d]
  | .fsqrt d a _ _ => sRegs [a] [d]
  | .fmin d a b _ | .fmax d a b _ | .feq d a b _ | .flt d a b _ | .fle d a b _ => sRegs [a, b] [d]
  | .fneg d a _ | .fabs d a _ => sRegs [a] [d]
  | .fmadd a b c _ _ | .fmsub a b c _ _ => sRegs [a, b, c] [a]
  | .fcvt d a _ _ _ => sRegs [a] [d]
  | .crr d _ => sRegs [] [d]
  | .crw d a _ | .crs d a _ | .crc d a _ => sRegs [a] [d]
  | .savepin b l => sRegs [b, l] []
  | .asinv a v => sRegs [a, v] []
  | .timetbl d | .lkstat d | .lksen d => sRegs [] [d]
  | .wmset n a => ⟨.w n.toNat :: sPlaces [a], [.w n.toNat]⟩
  | .amoAdd d a b _ _ | .amoMin d a b _ _ | .amoMax d a b _ _ | .amoAnd d a b _ _ | .amoOr d a b _ _ | .amoXor d a b _ _
  | .amoSwap d a b _ _ => sRegs [a, b] [d]
  | .cas d a b _ _ => sRegs [d, a, b] [d]
  | .binit a n => sRegs [a, n] []
  | .barrive a mk => ⟨sPlaces [a] ++ mPlaces [mk], []⟩
  | .slate i b l | .lkdecl i b l => sRegs [i, b, l] []
  | .smerge i => sRegs [i] []
  | .vamoAdd vd b vi mk _ _ | .vamoMin vd b vi mk _ _ | .vamoMax vd b vi mk _ _ | .vamoAnd vd b vi mk _ _ | .vamoOr vd b vi mk _ _
  | .vamoXor vd b vi mk _ _ | .vamoSwap vd b vi mk _ _ => h.vamoRegs vd b vi mk false
  | .vamoCas vd b vi mk _ _ => h.vamoRegs vd b vi mk true
  | .vwaitEq vs b vi mk | .vwaitNe vs b vi mk | .vwaitLt vs b vi mk | .vwaitGe vs b vi mk | .vwaitLtu vs b vi mk
  | .vwaitGeu vs b vi mk => h.storeRegs vs [b] (some vi) mk false
  | .sladd vs i vx mk | .slmin vs i vx mk | .slmax vs i vx mk => h.storeRegs vs [i] (some vx) mk false
  | .launch d a q => sRegs [a, q] [d]
  | .strpush d st x => sRegs [st, x] [d]
  | .hgive _ g => sRegs [g] []
  | .htake d _ => sRegs [] [d]
  | .cpy a b c | .pack a b c | .unpack a b c => sRegs [a, b, c] [a]
  | .cpyw a b c _ _ => sRegs [a, b, c] [a]
  | .cpwait a => sRegs [a] [a]
  | .vadd vd va vb mk _ xm | .vsub vd va vb mk _ xm | .vmul vd va vb mk _ xm | .vdiv vd va vb mk _ xm | .vmin vd va vb mk _ xm
  | .vmax vd va vb mk _ xm | .vscale vd va vb mk _ xm => h.vRegs vd [va, vb] mk xm
  | .vmadd vd va vb mk _ xm => h.vRegs vd [va, vb, vd] mk xm
  | .vand vd va vb mk _ | .vor vd va vb mk _ | .vxor vd va vb mk _ | .vshl vd va vb mk _ | .vshr vd va vb mk _
  | .vsra vd va vb mk _ => h.vRegs vd [va, vb] mk 0
  | .vsqrt vd va mk _ xm => h.vRegs vd [va] mk xm
  | .vabs vd va mk _ | .vneg vd va mk _ | .vpopc vd va mk _ | .vmv vd va mk _ => h.vRegs vd [va] mk 0
  | .vid vd mk _ => h.vRegs vd [] mk 0
  | .vcmpEq md va vb mk _ xm | .vcmpNe md va vb mk _ xm | .vcmpLt md va vb mk _ xm | .vcmpLe md va vb mk _ xm | .vcmpGt md va vb mk _ xm
  | .vcmpGe md va vb mk _ xm | .vcmpLtu md va vb mk _ xm | .vcmpLeu md va vb mk _ xm | .vcmpGtu md va vb mk _ xm
  | .vcmpGeu md va vb mk _ xm => h.cmpRegs md va vb mk xm
  | .mand md ma mb | .mor md ma mb | .mxor md ma mb => ⟨mPlaces [ma, mb], mPlaces [md]⟩
  | .mnot md ma => ⟨mPlaces [ma], mPlaces [md]⟩
  | .mpopc d ma | .mfirst d ma => ⟨mPlaces [ma], sPlaces [d]⟩
  | .vmerge vd va vb mk => h.vRegs vd [va, vb] mk 0
  | .vnzidx vd va c mk =>
    let r := h.vRegs vd [va] mk 0
    ⟨r.reads, r.writes ++ sPlaces [c]⟩
  | .vbcast vd a mk =>
    let r := h.vRegs vd [] mk 0
    ⟨r.reads ++ sPlaces [a], r.writes⟩
  | .vslide vd va o mk =>
    let r := h.vRegs vd [va] mk 0
    ⟨r.reads ++ sPlaces [o], r.writes⟩
  | .vperm vd va vi mk => h.vRegs vd [va, vi] mk 0
  | .vredsum d va mk _ xm => h.redRegs [d] va mk xm
  | .vredmin d va mk _ | .vredmax d va mk _ => h.redRegs [d] va mk 0
  | .vredmini d va i mk _ => h.redRegs [d, i] va mk 0
  | .vcvt vd va mk _ src _ xm =>
    let r := h.vRegs vd [] mk xm
    ⟨r.reads ++ h.group va ((Fmt.ofCode src).getD .fp32).width, r.writes⟩
  | .vld vd b mk => h.loadRegs vd [b] none mk false
  | .vlds vd b t mk => h.loadRegs vd [b, t] none mk false
  | .vldx vd b vi mk => h.loadRegs vd [b] (some vi) mk true
  | .vldff vd b mk => h.loadRegs vd [b] none mk true
  | .vst vs b mk => h.storeRegs vs [b] none mk false
  | .vsts vs b t mk => h.storeRegs vs [b, t] none mk false
  | .vstx vs b vi mk | .vstxu vs b vi mk => h.storeRegs vs [b] (some vi) mk true
  | .satld vd b vi mk => h.loadRegs vd [b] (some vi) mk false
  | .satst vs b vi mk => h.storeRegs vs [b] (some vi) mk false
  | .vspill vs b => ⟨sPlaces [b] ++ h.group vs (cfgFmt h.cfg).width, []⟩
  -- the frame names the group's size
  | .vfill vd b => ⟨sPlaces [b], vPlaces vd 32⟩
  | .vloop a _ => sRegs [a] []
  | .vb mk _ => ⟨mPlaces [mk], []⟩
  | .psetd dd a => ⟨.d dd :: sPlaces [a], [.d dd]⟩
  | .psetvl g dd => ⟨.d dd :: sPlaces [g], .d dd :: sPlaces [g]⟩
  | .pld pd b => ⟨sPlaces [b], pPlaces [pd]⟩
  | .pst pa b => ⟨pPlaces [pa] ++ sPlaces [b], []⟩
  | .padd pd pa pb mk | .psub pd pa pb mk | .pmul pd pa pb mk | .pmulc pd pa pb mk | .pfaceAvg pd pa pb mk
  | .pfaceJump pd pa pb mk => polyRegs pd [pa, pb] mk
  | .pfaceUp pd pa pb vu mk =>
    let r := polyRegs pd [pa, pb] mk
    ⟨r.reads ++ vPlaces vu 1, r.writes⟩
  | .pscal pd pa vs mk =>
    let r := polyRegs pd [pa] mk
    ⟨r.reads ++ vPlaces vs 1, r.writes⟩
  | .pdiff pd pa _ mk | .pint pd pa _ mk | .pproj pd pa _ mk | .plift pd pa _ mk | .pconv pd pa _ mk => polyRegs pd [pa] mk
  | .pfit pd pa mk | .pnode pd pa mk => polyRegs pd [pa] mk
  | .ptrace pd vd pa _ mk => if dDim (h.dget pa) = 2 then polyRegs pd [pa] mk else polyVecRegs vd pa mk 0
  | .pintd vd pa mk => polyVecRegs vd pa mk 0
  | .peval vd pa mk | .pevalb vd pa mk => polyVecRegs vd pa mk (if dDim (h.dget pa) = 2 then 2 else 1)
  | .pevalx vd pa mk => polyVecRegs vd pa mk 2
  | .mma zd vs mk _ _ => ⟨vPlaces vs ((h.mmaRows + 3) / 4) ++ mPlaces [mk] ++ [.z zd], [.z zd]⟩
  | .mopa zd va vb mk _ => ⟨vPlaces va 1 ++ vPlaces vb 1 ++ mPlaces [mk] ++ [.z zd], [.z zd]⟩
  | .zclr zd => ⟨[], [.z zd]⟩
  | .zrd vd zs r => ⟨.z zs :: sPlaces [r], vPlaces vd 1⟩
  | .zwr zd vs r => ⟨vPlaces vs 1 ++ sPlaces [r], [.z zd]⟩
  | .zcvt vd zs r afmt => ⟨.z zs :: sPlaces [r], vPlaces vd (if ((Fmt.ofCode afmt).getD .fp32).width = 64 then 2 else 1)⟩
  | .wload o sc afmt => sRegs (if weightScales afmt = 0 then [o] else [o, sc]) []
  | .tgemm zd dsc _ _ => ⟨.z zd :: sPlaces [dsc], [.z zd]⟩
  | .talloc d _ sz => sRegs [sz] [d]
  | .tstate d _ => sRegs [] [d]
  | .lsend d pt a _ => sRegs [pt, a] [d]
  | .lpoll d a _ => sRegs [a] [d]
  | _ => ⟨[], []⟩

/-- The code of a machine-check of a register (R372). -/
def BadPlace.code (p : BadPlace) : Nat :=
  match p with
  | .z _ => 4
  | .satchel _ => 2
  | .line _ => 3
  | _ => 1

/-- The control registers that every word of the vector unit reads: `velem`, and `vcfg` and `vlgrant` where it is issued alone; the words of a
longer block have those from its issue (R112, R113, R370). -/
def Hart.issueRegs (h : Hart) : List BadPlace :=
  match h.blk with
  | some b => .c 0x004 :: if b.implied then [.c 0x001, .c 0x002] else []
  | none => []

/-- The code of the first register with a soft error that an instruction reads (R372). -/
def Hart.badRead (h : Hart) (i : Instr) : Option Nat :=
  if h.bad.isEmpty then none
  else (((wordRegs h i).reads ++ (ctlRegs i).map BadPlace.c ++ h.issueRegs).find? fun p => h.bad.contains p).map BadPlace.code

end Sys2Proof.Machine
end

