-- ==== Sys2Proof/Machine/Resume.lean ====
section
/-! DEFINITION. What stands at the boundary before an instruction (R374), and the events by which a parked instruction goes on. -/

namespace Sys2Proof.Machine

/-- The meaning of a vector memory form that can park. -/
def resumeVector (i : Instr) (s : State) : Host.Outcome State Fault Refusal :=
  match i with
  | .vamoAdd vd b vi mk aq rl => execVamoAdd vd b vi mk aq rl s
  | .vamoMin vd b vi mk aq rl => execVamoMin vd b vi mk aq rl s
  | .vamoMax vd b vi mk aq rl => execVamoMax vd b vi mk aq rl s
  | .vamoAnd vd b vi mk aq rl => execVamoAnd vd b vi mk aq rl s
  | .vamoOr vd b vi mk aq rl => execVamoOr vd b vi mk aq rl s
  | .vamoXor vd b vi mk aq rl => execVamoXor vd b vi mk aq rl s
  | .vamoSwap vd b vi mk aq rl => execVamoSwap vd b vi mk aq rl s
  | .vamoCas vd b vi mk aq rl => execVamoCas vd b vi mk aq rl s
  | .vwaitEq vs b vi mk => execVwaitEq vs b vi mk s
  | .vwaitNe vs b vi mk => execVwaitNe vs b vi mk s
  | .vwaitLt vs b vi mk => execVwaitLt vs b vi mk s
  | .vwaitGe vs b vi mk => execVwaitGe vs b vi mk s
  | .vwaitLtu vs b vi mk => execVwaitLtu vs b vi mk s
  | .vwaitGeu vs b vi mk => execVwaitGeu vs b vi mk s
  | .vld vd b mk => execVld vd b mk s
  | .vlds vd b t mk => execVlds vd b t mk s
  | .vldx vd b vi mk => execVldx vd b vi mk s
  | .vldff vd b mk => execVldff vd b mk s
  | .vst vs b mk => execVst vs b mk s
  | .vsts vs b t mk => execVsts vs b t mk s
  | .vstx vs b vi mk => execVstx vs b vi mk s
  | .vstxu vs b vi mk => execVstxu vs b vi mk s
  | .vspill vs b => execVspill vs b s
  | .vfill vd b => execVfill vd b s
  | _ => .next s

/-- The meaning of an instruction that can park, for the event that lets it go on. -/
def resumeWord (i : Instr) (s : State) : Host.Outcome State Fault Refusal :=
  match i with
  | .lb d b off => execLb d b off s
  | .lh d b off => execLh d b off s
  | .lw d b off => execLw d b off s
  | .ld d b off => execLd d b off s
  | .lbu d b off => execLbu d b off s
  | .lhu d b off => execLhu d b off s
  | .lwu d b off => execLwu d b off s
  | .sb x b off => execSb x b off s
  | .sh x b off => execSh x b off s
  | .sw x b off => execSw x b off s
  | .sd x b off => execSd x b off s
  | .amoAdd d a b aq rl => execAmoAdd d a b aq rl s
  | .amoMin d a b aq rl => execAmoMin d a b aq rl s
  | .amoMax d a b aq rl => execAmoMax d a b aq rl s
  | .amoAnd d a b aq rl => execAmoAnd d a b aq rl s
  | .amoOr d a b aq rl => execAmoOr d a b aq rl s
  | .amoXor d a b aq rl => execAmoXor d a b aq rl s
  | .amoSwap d a b aq rl => execAmoSwap d a b aq rl s
  | .cas d a b aq rl => execCas d a b aq rl s
  | .savepin b l => execSavepin b l s
  | .asinv a v => execAsinv a v s
  | .pgprobe d a => execPgprobe d a s
  | .fenceHart => execFenceHart s
  | .fenceCore => execFenceCore s
  | .fenceCluster => execFenceCluster s
  | .fenceQuarter => execFenceQuarter s
  | .fenceDevice => execFenceDevice s
  | .fenceSystem => execFenceSystem s
  | .fencep p q => execFencep p q s
  | .wmset n a => execWmset n a s
  | .binit a n => execBinit a n s
  | .barrive a mk => execBarrive a mk s
  | .bwait d a => execBwait d a s
  | .smerge i => execSmerge i s
  | .launch d desc q => execLaunch d desc q s
  | .gnode d desc => execGnode d desc s
  | .strpush d st x => execStrpush d st x s
  | .strpop d st => execStrpop d st s
  | .hgive tb g => execHgive tb g s
  | .cpy a b c => execCpy a b c s
  | .cpyw a b c src dst => execCpyw a b c src dst s
  | .pack a b c => execPack a b c s
  | .unpack a b c => execUnpack a b c s
  | .cpwait a => execCpwait a s
  | .lsend d pt a cls => execLsend d pt a cls s
  | .lpoll d a cls => execLpoll d a cls s
  | .pld pd b => execPld pd b s
  | .pst pa b => execPst pa b s
  | .mma zd vs mk afmt twin => execMma zd vs mk afmt twin s
  | .mopa zd va vb mk afmt => execMopa zd va vb mk afmt s
  | .wload o sc afmt => execWload o sc afmt s
  | .wswap => execWswap s
  | .tgemm zd dsc afmt twin => execTgemm zd dsc afmt twin s
  | i => resumeVector i s

/-! ## The boundary before an instruction (R374) -/

/-- What stands before a meaning: the step is over, or an instruction runs in a state. -/
inductive Front where
  | done (t : State)
  | run (i : Instr) (t : State)

/-- The step that a front decides, `f` giving the meaning of the instruction that runs. -/
def Front.finish (x : Front) (f : Instr → State → Host.Outcome State Fault Refusal) : Host.Outcome State Fault Refusal :=
  match x with
  | .done t => .next t
  | .run i t => f i t

/-- An instruction of the executing hart, as its word stands next: a register with an uncorrectable soft error that it reads raises a
machine-check in its place (R372). -/
def State.execute (s : State) (i : Instr) : Front :=
  match s.me.badRead i with
  | some code => .done (s.machineCheck s.me.blk.isSome s.me.velem.toNat (codeAddr code))
  | none => .run i s

/-- The wait of a hart whose spilled lines find no free line of the buffer (R353); it stands before the next instruction. -/
def refillWait : Wait := ⟨.overflow, .nop, [], 0⟩

/-- The executing stream stays before its next instruction until its spilled lines are back. -/
def State.parkRefill (s : State) : State :=
  if s.me.blk.isSome then s.parkUnit refillWait else s.upd fun h => { h with wait := some refillWait }

/-- The executing hart waits at one of the points of R366: at a step of a `TGEMM` it does so only while its tile is not ready or a recess stalls its
reads (R221, R394), and at a full copy engine only in `CPWAIT`. A wait for the host link is none of them. -/
def State.atWait (s : State) (h : Hart) (w : Wait) : Bool :=
  match w.why with
  | .tile d => s.stalled || h.velem != 0 && (s.myCore.tile (d.toNat % 64)).state != .ready
  | .engine => (match w.instr with | .cpwait _ => true | _ => false)
  | .hostLink => false
  | _ => true

/-- A pre-emption is due at the boundary where the executing hart stands: it waits, or its forced bound has come (R366); what `laddr` holds
of it. -/
def State.preemptDue (s : State) (h : Hart) : Option Nat :=
  if h.yields && h.waits.any (s.atWait h) then some 2
  else if s.forced h then some 1
  else none

/-- A wait whose own access is complete: it is for a phase of a barrier or for a condition of `VWAIT`. -/
def Why.performed (w : Why) : Bool :=
  match w with
  | .barrier _ _ | .elements _ => true
  | _ => false

/-- A recess overrun is due: the access that stalled is complete, and so is the block before a scalar stream that takes it (R369, R371). -/
def Hart.overrunDue (h : Hart) : Option Nat :=
  match h.overrun with
  | some (c, unit) => if h.parked.all (·.why.performed) && (unit || h.blk.isNone) then some c else none
  | none => none

/-- Take a recess overrun at the boundary: in the vector unit while a block stands there (R369). A wait whose access is complete is left
there, and its instruction executes again (R325, R329). -/
def State.takeOverrun (s : State) (c : Nat) : State :=
  let t := s.upd fun h => { h with overrun := none }
  if s.me.blk.isSome then t.vtrap tOverrun s.me.velem.toNat (BitVec.ofNat 64 c) else t.trap tOverrun (BitVec.ofNat 64 c)

/-- What is taken at the boundary where the executing hart stands, before its next instruction (R374): a wound (R347); then, unless
the next instruction raises a trap of its own, a pre-emption at a wait or at the forced bound (R366), and last a recess overrun (R371). A
pre-emption saves the hart, which waits out a recess. Spilled lines that find no room hold the hart there (R353). -/
def State.boundary (s : State) (ownTrap : State → Bool) : Option State :=
  let h := s.me
  let held := !h.spill.isEmpty && !(s.refill s.cur).me.spill.isEmpty
  if h.woundReady then some (s.rollback s.cur)
  else if h.system && !h.atAsinv then none
  else
    match if !held && ownTrap s then none else s.preemptDue h with
    | some code => some (s.takePreempt s.cur code)
    | none =>
      if held then some (s.refill s.cur).parkRefill
      else
        match h.overrunDue with
        | some c => if h.system || ownTrap s then none else some (s.takeOverrun c)
        | none => none

/-- The executing hart as the boundary leaves it for its instruction: its spilled lines are back in the buffer. -/
def State.ready (s : State) : State := if s.me.spill.isEmpty || s.me.system then s else s.refill s.cur

/-- The scalar stream of the executing hart does something while its blocks run or wait (R112). A trap of it is taken only when they have
completed (R369), so an attempt that would raise one is no step. -/
def State.ahead (s : State) (f : State → Host.Outcome State Fault Refusal) : State :=
  let h := s.me
  match h.blk with
  | none => s
  | some b =>
    match f (s.setMe { h with blk := none, vq := [], velem := 0 }) with
    | .next u =>
      let g := u.me
      if g.system != h.system || g.run != .running || g.member != h.member then s
      else u.setMe { g with blk := some b, vq := h.vq ++ g.blk.toList ++ g.vq, velem := h.velem }
    | _ => s

/-- An instruction of the executing hart has raised a trap: from task mode it entered its handler, and in system mode, at an `ASINV`, the hart froze
(R373). -/
def State.trappedInto (s u : State) : Bool := if s.me.system then u.me.run != .running else u.me.system

/-- The instruction that a stream is parked at executes again, at the boundary where the stream stands. -/
def State.again (s : State) (w : Wait) : Host.Outcome State Fault Refusal :=
  let go := fun (t : State) => (t.ready.execute w.instr).finish resumeWord
  match s.boundary fun t => match go t with | .next u => t.trappedInto u | _ => false with
  | some u => .next u
  | none => go s

/-- A parked instruction of a hart executes again, if its wait is one that the event ends: the word in the vector unit, else the one of the
scalar stream, unless a wound takes the hart there (R347). -/
def State.wakeSlot (s : State) (k : Nat) (ends : Why → Instr → Bool) : Host.Outcome State Fault Refusal :=
  let h := s.hart k
  let t := { s with cur := k }
  let back := fun (t : State) => { t with cur := s.cur }
  if h.run ≠ .running then .next s
  else
    match h.parked.filter fun w => ends w.why w.instr with
    | some w =>
      match t.again w with
      | .next u => .next (back u)
      | o => o
    | none =>
      match h.wait.filter fun w => ends w.why w.instr with
      | some w =>
        if h.woundReady then .next (s.rollback k) else .next (back (t.ahead fun t => (t.execute w.instr).finish resumeWord))
      | none => .next s

/-- An instruction that loads. -/
def isLoad (i : Instr) : Bool :=
  match i with
  | .lb _ _ _ | .lh _ _ _ | .lw _ _ _ | .ld _ _ _ | .lbu _ _ _ | .lhu _ _ _ | .lwu _ _ _ | .vld _ _ _ | .vlds _ _ _ _ | .vldx _ _ _ _
  | .vldff _ _ _ | .vfill _ _ | .pld _ _ | .lsend _ _ _ _ | .launch _ _ _ | .gnode _ _ => true
  | _ => false

/-- An instruction performed at a home. -/
def isAtomic (i : Instr) : Bool :=
  match i with
  | .amoAdd _ _ _ _ _ | .amoMin _ _ _ _ _ | .amoMax _ _ _ _ _ | .amoAnd _ _ _ _ _ | .amoOr _ _ _ _ _ | .amoXor _ _ _ _ _
  | .amoSwap _ _ _ _ _ | .cas _ _ _ _ _ | .vamoAdd _ _ _ _ _ _ | .vamoMin _ _ _ _ _ _ | .vamoMax _ _ _ _ _ _ | .vamoAnd _ _ _ _ _ _
  | .vamoOr _ _ _ _ _ _ | .vamoXor _ _ _ _ _ _ | .vamoSwap _ _ _ _ _ _ | .vamoCas _ _ _ _ _ _ | .binit _ _ | .barrive _ _ | .bwait _ _
  | .smerge _ => true
  | _ => false

/-- A wait of an access for its translation, for a recess, at a touch, or for the host link. -/
def Why.access (w : Why) : Bool :=
  match w with
  | .recess | .walk _ | .migrating | .touch _ | .hostLink => true
  | _ => false

/-- `LOAD_PERFORMED` (R251): a load that waited is performed in its view and its value returns. -/
def execLoadPerformed (slot : Nat) (s : State) : Host.Outcome State Fault Refusal := s.wakeSlot slot fun w i => w.access && isLoad i
/-- `ATOMIC_AT_HOME` (R260). -/
def execAtomicAtHome (slot : Nat) (s : State) : Host.Outcome State Fault Refusal := s.wakeSlot slot fun w i => w.access && isAtomic i
/-- `WATERMARK_STALL_END` (R269, R270): the watermarks have grown in the view of the slot's quarter. -/
def execWatermarkStallEnd (slot : Nat) (s : State) : Host.Outcome State Fault Refusal :=
  let t := { s with harts := s.harts.map fun (e : Nat × Hart) => (e.1, e.2.showMarks [slotQuarter slot]) }
  t.wakeSlot slot fun w _ => w == .watermark
/-- `GUARD_WINDOW_RELEASE` (R302). -/
def execGuardWindowRelease (slot : Nat) (s : State) : Host.Outcome State Fault Refusal := s.wakeSlot slot fun w _ => w == .guard
/-- `STRAND_WAIT_END` (R293). -/
def execStrandWaitEnd (slot : Nat) (s : State) : Host.Outcome State Fault Refusal := s.wakeSlot slot fun w _ => w == .strand
/-- `ARRAY_ACQUIRE` (R200). -/
def execArrayAcquire (slot : Nat) (s : State) : Host.Outcome State Fault Refusal := s.wakeSlot slot fun w _ => w == .array
/-- `TGEMM_STEP` (R212, R213). -/
def execTgemmStep (slot : Nat) (s : State) : Host.Outcome State Fault Refusal :=
  s.wakeSlot slot fun w _ => match w with | .tile _ => true | _ => false

/-- `TWIN_PAIRING` (R214, R215): the two halves combine when both partners wait. A wound on its way takes its side from the paired-wait
first (R347). -/
def execTwinPairing (slot : Nat) (s : State) : Host.Outcome State Fault Refusal :=
  .next (
    if (s.hart slot).woundReady then s.rollback slot
    else if (s.hart (twinOf slot)).woundReady then s.rollback (twinOf slot)
    else s.combine slot)

/-- `PAIRING_TIMEOUT` (R215): 65,536 cycles of the first side's core, unless the other side has arrived. Its attempt stays for the
partner's next one to pair with, while the partner is in its slot. A wound on its way comes first (R347). -/
def execPairingTimeout (slot : Nat) (s : State) : Host.Outcome State Fault Refusal :=
  let h := s.hart slot
  let p := twinOf slot
  .next (
    match h.wait with
    | some ⟨.pair since _, _, _, _⟩ =>
      if h.woundReady then s.rollback slot
      else if since + pairBound ≤ s.beacon && h.run = .running && (s.hart p).attempt?.isNone then
        (if s.partnerHere slot then s.setHart p { s.hart p with missed := h.attempt? } else s).asSlot slot (·.pairTrap false)
      else s
    | _ => s)

/-- A task of the device is irrevocable. -/
def State.anyIrrevocable (s : State) : Bool :=
  (s.harts.any fun e => e.2.run != .free && e.2.task.irrevocable) ||
    s.groups.any fun g => g.2.members.any fun m => m.2.state == .saved && (match m.2.saved with | some h => h.task.irrevocable | none => false)

/-- The stalled write of a hart that has become irrevocable: a wait before its next instruction ends, since its lines are free. -/
def Hart.pastRefill (h : Hart) : Hart :=
  let past := fun (w : Option Wait) => w.filter fun w => w.instr != .nop
  { h with wait := past h.wait, blk := h.blk.map fun b => { b with wait := past b.wait } }

/-- `BECOME_IRREVOCABLE` (R351): the buffer commits, and the stalled write goes on as an ordinary write. A wound on its way comes first
(R354). -/
def execBecomeIrrevocable (slot : Nat) (s : State) : Host.Outcome State Fault Refusal :=
  let h := s.hart slot
  if !(h.waits.any fun w => w.why == .overflow) || h.run ≠ .running || h.wound || s.stalled || s.commitWaits slot || s.anyIrrevocable || !s.holdsLocket slot
      || !s.holderStamps.all (fun x => h.task.stamp ≤ x) then .next s
  else if h.badLine then .next (s.lineFails slot)
  else
    let s := s.commitLines slot
    let h := (s.hart slot).pastRefill
    (s.setHart slot { h with task := { h.task with irrevocable := true } }).wakeSlot slot fun w _ => w == .overflow

/-! ## Illegal words (R76, R81) -/

/-- Majors whose words the scalar stream issues as a block of one word (R113). -/
def issuedMajor (m : Nat) : Bool := m == 0x1A || m == 0x1B || (0x20 ≤ m && m ≤ 0x2B)

def majorOf (w : IWord) : Nat := w.toNat / 2 ^ 26

/-- Majors of the matrix and tile words (R78, R222). -/
def matrixMajor (m : Nat) : Bool := m == 0x32 || m == 0x33

/-- The trap of an illegal word where it stands. A word of the vector unit's that the scalar stream meets is issued, whatever else it
holds, and the vector unit refuses it: `lcause.vec` = 1 (R113, R136; DEDUCED, log 49). A polynomial or matrix word in a block leaves it 0 (R189, R222),
and a matrix word has `lvelem` 0. -/
def State.illegal (s : State) (w : IWord) : State :=
  let x : Word := w.zeroExtend 64
  let m := majorOf w
  if s.me.blk.isSome then (if m = 0x2E || matrixMajor m then s.polyTrapIn tIllegal x else s.vtrap tIllegal 0 x)
  else if issuedMajor m then s.vtrap tIllegal 0 x
  else if matrixMajor m then s.fresh.trap tIllegal x
  else s.trap tIllegal x

/-- `ILLEGAL_INSTRUCTION` (R81): a word that the decoder refuses traps, nothing changed. -/
def execIllegalInstruction (w : IWord) (s : State) : Host.Outcome State Fault Refusal :=
  .next (match decode w with | .ok _ => s | .error _ => s.illegal w)

end Sys2Proof.Machine
end

