-- ==== Sys2Proof/Machine/Words.lean ====
section
/-! DEFINITION. What the word that stands next would do, for the boundary before it (R374). -/

namespace Sys2Proof.Machine

/-- The meaning of an instruction word; a step that no word names changes nothing. -/
def runWord (i : Instr) (s : State) : Host.Outcome State Fault Refusal :=
  match i with
  | .add d a b => execAdd d a b s
  | .sub d a b => execSub d a b s
  | .mul d a b => execMul d a b s
  | .mulh d a b => execMulh d a b s
  | .div d a b => execDiv d a b s
  | .divu d a b => execDivu d a b s
  | .rem d a b => execRem d a b s
  | .remu d a b => execRemu d a b s
  | .and d a b => execAnd d a b s
  | .or d a b => execOr d a b s
  | .xor d a b => execXor d a b s
  | .shl d a b => execShl d a b s
  | .shr d a b => execShr d a b s
  | .sra d a b => execSra d a b s
  | .slt d a b => execSlt d a b s
  | .sltu d a b => execSltu d a b s
  | .min d a b => execMin d a b s
  | .minu d a b => execMinu d a b s
  | .max d a b => execMax d a b s
  | .maxu d a b => execMaxu d a b s
  | .clz d a => execClz d a s
  | .ctz d a => execCtz d a s
  | .popc d a => execPopc d a s
  | .jalr d a => execJalr d a s
  | .shli d a k => execShli d a k s
  | .shri d a k => execShri d a k s
  | .srai d a k => execSrai d a k s
  | .addi d a imm => execAddi d a imm s
  | .andi d a imm => execAndi d a imm s
  | .ori d a imm => execOri d a imm s
  | .xori d a imm => execXori d a imm s
  | .lih d imm h => execLih d imm h s
  | .addpc d imm => execAddpc d imm s
  | .beq a b off => execBeq a b off s
  | .bne a b off => execBne a b off s
  | .blt a b off => execBlt a b off s
  | .bge a b off => execBge a b off s
  | .bltu a b off => execBltu a b off s
  | .bgeu a b off => execBgeu a b off s
  | .jal d off => execJal d off s
  | .fadd d a b rm prec => execFadd d a b rm prec s
  | .fsub d a b rm prec => execFsub d a b rm prec s
  | .fmul d a b rm prec => execFmul d a b rm prec s
  | .fdiv d a b rm prec => execFdiv d a b rm prec s
  | .fsqrt d a rm prec => execFsqrt d a rm prec s
  | .fmin d a b prec => execFmin d a b prec s
  | .fmax d a b prec => execFmax d a b prec s
  | .fneg d a prec => execFneg d a prec s
  | .fabs d a prec => execFabs d a prec s
  | .feq d a b prec => execFeq d a b prec s
  | .flt d a b prec => execFlt d a b prec s
  | .fle d a b prec => execFle d a b prec s
  | .fmadd a b c rm prec => execFmadd a b c rm prec s
  | .fmsub a b c rm prec => execFmsub a b c rm prec s
  | .fcvt d a rm dst src => execFcvt d a rm dst src s
  | .crr d n => execCrr d n s
  | .crw d a n => execCrw d a n s
  | .crs d a n => execCrs d a n s
  | .crc d a n => execCrc d a n s
  | .rett => execRett s
  | .idle => execIdle s
  | .timetbl d => execTimetbl d s
  | .rcwait => execRcwait s
  | .trap code => execTrap code s
  | .fenceSv => execFenceSv s
  | .fenceVs => execFenceVs s
  | .slate ix b l => execSlate ix b l s
  | .lkdecl ix b l => execLkdecl ix b l s
  | .lkstat d => execLkstat d s
  | .lksen d => execLksen d s
  | .sladd vs ix vx mk => execSladd vs ix vx mk s
  | .slmin vs ix vx mk => execSlmin vs ix vx mk s
  | .slmax vs ix vx mk => execSlmax vs ix vx mk s
  | .qstate d q => execQstate d q s
  | .htake d tb => execHtake d tb s
  | .vadd vd va vb mk dt xm => execVadd vd va vb mk dt xm s
  | .vsub vd va vb mk dt xm => execVsub vd va vb mk dt xm s
  | .vmul vd va vb mk dt xm => execVmul vd va vb mk dt xm s
  | .vdiv vd va vb mk dt xm => execVdiv vd va vb mk dt xm s
  | .vmin vd va vb mk dt xm => execVmin vd va vb mk dt xm s
  | .vmax vd va vb mk dt xm => execVmax vd va vb mk dt xm s
  | .vand vd va vb mk dt => execVand vd va vb mk dt s
  | .vor vd va vb mk dt => execVor vd va vb mk dt s
  | .vxor vd va vb mk dt => execVxor vd va vb mk dt s
  | .vshl vd va vb mk dt => execVshl vd va vb mk dt s
  | .vshr vd va vb mk dt => execVshr vd va vb mk dt s
  | .vsra vd va vb mk dt => execVsra vd va vb mk dt s
  | .vmadd vd va vb mk dt xm => execVmadd vd va vb mk dt xm s
  | .vscale vd va vb mk dt xm => execVscale vd va vb mk dt xm s
  | .vsqrt vd va mk dt xm => execVsqrt vd va mk dt xm s
  | .vabs vd va mk dt => execVabs vd va mk dt s
  | .vneg vd va mk dt => execVneg vd va mk dt s
  | .vpopc vd va mk dt => execVpopc vd va mk dt s
  | .vmv vd va mk dt => execVmv vd va mk dt s
  | .vid vd mk dt => execVid vd mk dt s
  | .vcmpEq md va vb mk dt xm => execVcmpEq md va vb mk dt xm s
  | .vcmpNe md va vb mk dt xm => execVcmpNe md va vb mk dt xm s
  | .vcmpLt md va vb mk dt xm => execVcmpLt md va vb mk dt xm s
  | .vcmpLe md va vb mk dt xm => execVcmpLe md va vb mk dt xm s
  | .vcmpGt md va vb mk dt xm => execVcmpGt md va vb mk dt xm s
  | .vcmpGe md va vb mk dt xm => execVcmpGe md va vb mk dt xm s
  | .vcmpLtu md va vb mk dt xm => execVcmpLtu md va vb mk dt xm s
  | .vcmpLeu md va vb mk dt xm => execVcmpLeu md va vb mk dt xm s
  | .vcmpGtu md va vb mk dt xm => execVcmpGtu md va vb mk dt xm s
  | .vcmpGeu md va vb mk dt xm => execVcmpGeu md va vb mk dt xm s
  | .mand md ma mb => execMand md ma mb s
  | .mor md ma mb => execMor md ma mb s
  | .mxor md ma mb => execMxor md ma mb s
  | .mnot md ma => execMnot md ma s
  | .mpopc d ma => execMpopc d ma s
  | .mfirst d ma => execMfirst d ma s
  | .vmerge vd va vb mk => execVmerge vd va vb mk s
  | .vnzidx vd va c mk => execVnzidx vd va c mk s
  | .vbcast vd a mk => execVbcast vd a mk s
  | .vslide vd va o mk => execVslide vd va o mk s
  | .vperm vd va vi mk => execVperm vd va vi mk s
  | .vredsum d va mk dt xm => execVredsum d va mk dt xm s
  | .vredmin d va mk dt => execVredmin d va mk dt s
  | .vredmax d va mk dt => execVredmax d va mk dt s
  | .vredmini d va ix mk dt => execVredmini d va ix mk dt s
  | .vcvt vd va mk rm src dt xm => execVcvt vd va mk rm src dt xm s
  | .satld vd b vi mk => execSatld vd b vi mk s
  | .satst vs b vi mk => execSatst vs b vi mk s
  | .setvl d a => execSetvl d a s
  | .vcfg fmt span klen => execVcfg fmt span klen s
  | .vblk off => execVblk off s
  | .vloop a off => execVloop a off s
  | .vb mk off => execVb mk off s
  | .vstop => execVstop s
  | .psetd dd a => execPsetd dd a s
  | .psetvl g dd => execPsetvl g dd s
  | .padd pd pa pb mk => execPadd pd pa pb mk s
  | .psub pd pa pb mk => execPsub pd pa pb mk s
  | .pmul pd pa pb mk => execPmul pd pa pb mk s
  | .pmulc pd pa pb mk => execPmulc pd pa pb mk s
  | .pscal pd pa vs mk => execPscal pd pa vs mk s
  | .pdiff pd pa dir mk => execPdiff pd pa dir mk s
  | .pint pd pa dir mk => execPint pd pa dir mk s
  | .pintd vd pa mk => execPintd vd pa mk s
  | .pproj pd pa deg mk => execPproj pd pa deg mk s
  | .plift pd pa deg mk => execPlift pd pa deg mk s
  | .ptrace pd vd pa face mk => execPtrace pd vd pa face mk s
  | .pfaceAvg pd pa pb mk => execPfaceAvg pd pa pb mk s
  | .pfaceJump pd pa pb mk => execPfaceJump pd pa pb mk s
  | .pfaceUp pd pa pb vu mk => execPfaceUp pd pa pb vu mk s
  | .peval vd pa mk => execPeval vd pa mk s
  | .pevalb vd pa mk => execPevalb vd pa mk s
  | .pevalx vd pa mk => execPevalx vd pa mk s
  | .pfit pd pa mk => execPfit pd pa mk s
  | .pnode pd pa mk => execPnode pd pa mk s
  | .pconv pd pa basis mk => execPconv pd pa basis mk s
  | .zclr zd => execZclr zd s
  | .zrd vd zs r => execZrd vd zs r s
  | .zwr zd vs r => execZwr zd vs r s
  | .zcvt vd zs r afmt => execZcvt vd zs r afmt s
  | .talloc d tb sz => execTalloc d tb sz s
  | .tfree tb => execTfree tb s
  | .tstate d tb => execTstate d tb s
  | .nop => execNop s
  | .hint h => execHint h s
  | i => resumeWord i s

end Sys2Proof.Machine
end

