-- ==== Sys2Proof/Machine/Fetch.lean ====
section
/-! DEFINITION. Who moves next, the fetch of an instruction's bytes, and what is settled before its meaning (R76, R98, R101, R112, R113,
R115, R369, R374, R394). -/

namespace Sys2Proof.Machine

/-! ## Streams (R56, R76, R113, R369) -/

/-- Majors whose words the vector unit executes inside a block (R76). -/
def blockMajor (m : Nat) : Bool := m == 0x1A || m == 0x1B || (0x20 ≤ m && m ≤ 0x2B) || m == 0x2D || m == 0x3F

/-- Majors of vector, polynomial and matrix words (R369). -/
def unitMajor (m : Nat) : Bool := m == 0x1A || m == 0x1B || (0x20 ≤ m && m ≤ 0x2E) || m == 0x32

/-- The word stands past the 64th of a `VLOOP` body (R76). -/
def Block.pastBody (b : Block) : Bool :=
  match b.loop with
  | some l => 256 ≤ (b.pc - l).toNat
  | none => false

/-- A word of the running block that the vector unit refuses (R76). -/
def Hart.misplaced (h : Hart) (m : Nat) : Bool :=
  match h.blk with
  | some b => !blockMajor m || b.pastBody
  | none => false

/-- The vector queue is frozen: a handler's word for the vector unit while the resume state holds a block (R369). -/
def Hart.frozenQueue (h : Hart) (m : Nat) : Bool := h.system && h.vrs.isSome && unitMajor m

/-- A word of the vector unit runs on the core now, whose lanes it wakes (R396, R397). -/
def State.noteVector (s : State) (m : Nat) : State :=
  let c := s.myCore
  if (blockMajor m && m != 0x3F) && (c.lastBlock ≠ s.beacon || c.power = 1) then
    s.setCore (slotCore s.cur) { c with lastBlock := s.beacon, power := if c.power = 1 then 0 else c.power }
  else s

/-! ## Fetch (R98, R101, R250, R385) -/

/-- The word at a location, little-endian, in the view of its path (R18, R250). -/
def State.wordAt (s : State) (loc : Nat) : IWord := BitVec.ofNat 32 (s.viewNat (viewOf (slotQuarter s.cur) loc) .h loc 4)

/-- A fetched word: frozen, illegal, or an instruction, of which a word of the vector unit is issued (R76, R81, R113, R369). R112 leaves to the device
when an idle vector unit starts a block: an implied one starts in the step that issues it, so no later scalar access comes before its accesses
(DESIGN CHOICE, log 6). -/
def State.sortWord (s : State) (w : IWord) : Front :=
  let m := majorOf w
  if s.me.frozenQueue m then .done (s.doubleTrap tIllegal)
  else
    match decode w with
    | .error _ => .done (s.illegal w)
    | .ok i =>
      if s.me.misplaced m then .done (s.illegal w)
      else ((if issuedMajor m && s.me.blk.isNone then s.upd Hart.enterUnit else s).noteVector m).execute i

/-- The word of a block that was fetched before: by an earlier trip of a `VLOOP` (R115), or as it was issued (R113). -/
def Hart.buffered? (h : Hart) : Option IWord :=
  match h.blk with
  | some b => (b.buffer.find? fun e => e.1 == b.pc).map (·.2)
  | none => none

/-- A word of a `VLOOP` enters the loop buffer (R115). -/
def State.keepWord (s : State) (va : Word) (w : IWord) : State :=
  match s.me.blk with
  | some b => if b.loop.isSome then s.upd fun h => { h with blk := some { b with buffer := (va, w) :: b.buffer } } else s
  | none => s

/-- Fetch the word the executing hart stands at. A fetch does not wait out a recess; its walk does (R384, R394). R98 and R101 raise the
instruction-alignment trap for a `JALR` target only. An address that `RETT` leaves with bits [1:0] not zero takes it here, at the fetch, with that address in
`lepc` and `laddr` (DESIGN CHOICE, log 42). -/
def State.fetch (s : State) : Front :=
  let h := s.me
  let va := h.wordAddr
  let vec := h.blk.isSome
  if va.toNat % 4 ≠ 0 then .done (if vec then s.vtrap tInstrAlign h.velem.toNat va else s.trap tInstrAlign va)
  else
    match h.buffered? with
    | some w => s.sortWord w
    | none =>
      match s.translateMe .fetch va with
      | .fail f => .done (if vec then s.failVector .fetch f va false h.velem.toNat else s.failScalar .fetch f va)
      | .wait s w => .done (if vec then s.parkUnit ⟨w, .nop, [], 0⟩ else s.park w .nop)
      | .ok s loc =>
        if s.corrupt loc 4 then .done (s.machineCheck vec h.velem.toNat va)
        else
          let w := s.wordAt loc
          (s.keepWord va w).sortWord w

/-- Waits that only their own events end (R104, R214, R322, R393). -/
def Why.own (w : Why) : Bool :=
  match w with
  | .barrier _ _ | .idle _ _ | .recessEnd _ | .pair _ _ => true
  | _ => false

/-- The write of an instruction found no free line: no line that another task frees ends that wait, only its task's becoming irrevocable (R351, R354). -/
def Hart.overflows (h : Hart) (w : Wait) : Bool := w.why == .overflow && w.instr != .nop && !h.task.irrevocable

/-- The executing hart stands at the boundary before its next instruction, and the debugger session of its context is stopped (R336). -/
def State.stopsHere (s : State) : Bool := (s.ctx s.me.asid).held && s.me.parked.all fun w => w.instr == .nop

/-- The executing stream goes on: a parked instruction executes again, else the next word is fetched. -/
def State.goOn (s : State) : Front :=
  match s.me.parked with
  | none => s.fetch
  | some w => if w.why.own || s.me.overflows w then .done s else if w.instr = .nop then s.fetch else s.execute w.instr

/-- The next instruction of the executing hart raises a trap of its own (R374). -/
def State.ownTrap (s : State) : Bool :=
  match s.ready.goOn.finish runWord with
  | .next t => s.trappedInto t
  | _ => false

/-- One hart moves (R374): one whose save waited goes on with it, and one that has not begun takes its save area. A hart of a stopped debugger session stops
at its next instruction boundary (R336). -/
def State.hartFront (s : State) : Front :=
  match s.me.run with
  | .running =>
    if s.stopsHere then .done s
    else if s.me.arming then .done s.arm
    else
      match s.boundary State.ownTrap with
      | some t => .done t
      | none => s.ready.goOn
  | .saving _ _ _ _ => .done (s.goOnSave s.cur)
  | _ => .done s

/-- Steps that no instruction word names. -/
def isEvent (i : Instr) : Bool := (encode i).isNone

/-! ## The scalar stream ahead of its blocks (R89, R98, R112) -/

/-- Blocks that the queue of a hart holds (R112). -/
def queueSize : Nat := 16

/-- Words that execute while blocks run: neither an order of the vector unit's accesses nor a register of R89 is in them, and they raise no
wait that the vector unit's element index marks. A fence waits for the accesses of every block before it (R257, R258). -/
def aheadOk (i : Instr) : Bool :=
  match i with
  | .crr _ n | .crw _ _ n | .crs _ _ n | .crc _ _ n => !(n = 0x000 || n = 0x001 || n = 0x002 || n = 0x004)
  | .amoAdd _ _ _ aq rl | .amoMin _ _ _ aq rl | .amoMax _ _ _ aq rl | .amoAnd _ _ _ aq rl | .amoOr _ _ _ aq rl | .amoXor _ _ _ aq rl
  | .amoSwap _ _ _ aq rl | .cas _ _ _ aq rl => aq = 0 && rl = 0
  | .mma _ _ _ _ twin => twin = 0
  | .rett | .idle | .savepin _ _ | .asinv _ _ | .rcwait | .trap _ | .fenceHart | .fenceCore | .fenceCluster | .fenceQuarter | .fenceDevice
  | .fenceSystem | .fenceSv | .fenceVs | .fencep _ _ | .wmset _ _ | .binit _ _ | .barrive _ _ | .bwait _ _ | .slate _ _ _ | .smerge _
  | .lkdecl _ _ _ | .launch _ _ _ | .gnode _ _ | .strpush _ _ _ | .strpop _ _ | .hgive _ _ | .htake _ _ | .cpy _ _ _ | .cpyw _ _ _ _ _
  | .pack _ _ _ | .unpack _ _ _ | .cpwait _ | .tgemm _ _ _ _ | .talloc _ _ _ | .tfree _ | .lsend _ _ _ _ | .lpoll _ _ _ | .vb _ _
  | .vstop => false
  | i => !isEvent i

/-- A word of a block, as the executing hart's quarter shows it; none where its page does not translate. -/
def State.peekWord (s : State) (b : Block) (pc : Word) : Option IWord :=
  match b.buffer.find? fun e => e.1 == pc with
  | some e => some e.2
  | none =>
    match s.translateMe .fetch pc with
    | .ok t loc => some (t.wordAt loc)
    | _ => none

/-- Where a block goes on after a word of it. -/
def wordsAfter (b : Block) (pc : Word) (i : Instr) : List Word :=
  if b.implied then []
  else
    match i with
    | .vstop => []
    | .vb mk off => (pc + (off.signExtend 64 <<< 2)) :: if mk = 0 && b.vl ≠ 0 then [] else [pc + 4]
    | _ => [pc + 4]

/-- A vector form that ends with an acquire: the accesses after it wait for it (R261, R328, R329). -/
def acquires (i : Instr) : Bool :=
  match i with
  | .vamoAdd _ _ _ _ aq _ | .vamoMin _ _ _ _ aq _ | .vamoMax _ _ _ _ aq _ | .vamoAnd _ _ _ _ aq _ | .vamoOr _ _ _ _ aq _
  | .vamoXor _ _ _ _ aq _ | .vamoSwap _ _ _ _ aq _ | .vamoCas _ _ _ _ aq _ => aq = 1
  | .vwaitEq _ _ _ _ | .vwaitNe _ _ _ _ | .vwaitLt _ _ _ _ | .vwaitGe _ _ _ _ | .vwaitLtu _ _ _ _ | .vwaitGeu _ _ _ _ => true
  | _ => false

/-- An access on the H path by a word of the scalar stream (R254). -/
def scalarAccess (i : Instr) : Bool :=
  match i with
  | .sb _ _ _ | .sh _ _ _ | .sw _ _ _ | .sd _ _ _ | .pst _ _ | .lpoll _ _ _ | .tgemm _ _ _ _ => true
  | i => isLoad i || isAtomic i

/-- What the blocks of a hart have still to do: the registers they read and write; whether an acquire is among their words; whether they reach a
word that does not translate or that they refuse, of which nothing is known. -/
structure Ahead where
  regs : Regs
  acq : Bool
  unknown : Bool
  deriving DecidableEq, Repr

def Ahead.none : Ahead := ⟨⟨[], []⟩, false, false⟩

/-- Follow the words that a block can reach. A scalar register that a `VLOOP` reads it captured at its issue; a block of any other kind reads
it at its word (R112, R115). `fuel` is above twice the number of word addresses, so that it never ends the search. -/
def State.reach (s : State) (b : Block) (fuel : Nat) (work seen : List Word) (acc : Ahead) : Ahead :=
  match fuel, work with
  | _, [] => acc
  | 0, _ => { acc with unknown := true }
  | n + 1, pc :: r =>
    if seen.contains pc then s.reach b n r seen acc
    else
      match s.peekWord b pc with
      | none => s.reach b n r (pc :: seen) { acc with unknown := true }
      | some w =>
        match decode w with
        | .error _ => s.reach b n r (pc :: seen) { acc with unknown := true }
        | .ok i =>
          if !blockMajor (majorOf w) || { b with pc := pc }.pastBody then s.reach b n r (pc :: seen) { acc with unknown := true }
          else
            let x := wordRegs { s.me with blk := some b } i
            let reads := x.reads.filter fun p => match p with | .s _ => b.loop.isNone || b.captured.isNone | _ => true
            s.reach b n (wordsAfter b pc i ++ r) (pc :: seen)
              ⟨⟨reads ++ acc.regs.reads, x.writes ++ acc.regs.writes⟩, acc.acq || acquires i, acc.unknown⟩

/-- What the blocks of a hart have still to do: from the word where each stands, from its parked fragments, and from the first word of a
`VLOOP` that has a trip left after this one (R115, R117). -/
def State.pendingRegs (s : State) (bs : List Block) : Ahead :=
  bs.foldl (fun acc b =>
    let again := match b.loop with | some l => if 1 < b.trips then [l] else [] | none => []
    s.reach b (2 ^ 64) (b.pc :: again ++ b.pending.map (·.1)) [] acc) Ahead.none

/-- The interlock of R112: the scalar stream waits where it reads or writes what a block has still to write, or writes what one has still to
read; an access waits for an acquire (R261). A word that names no register, and makes no access, waits for none. -/
def State.interlocked (s : State) (i : Instr) : Bool :=
  let h := s.me
  let x := wordRegs { h with blk := none } i
  if x.reads.isEmpty && x.writes.isEmpty && !scalarAccess i then false
  else
    let p := s.pendingRegs (h.blk.toList ++ h.vq)
    p.unknown || (p.acq && scalarAccess i) || (x.reads ++ x.writes).any (p.regs.writes.contains ·)
      || x.writes.any (p.regs.reads.contains ·)

/-- `SETVL` is where a pre-emption or a donation is taken, after the blocks (R110, R280). -/
def State.aheadSetvl (s : State) (i : Instr) : Bool :=
  match i with
  | .setvl _ _ => s.me.preempt.isEmpty && s.donation.isNone
  | _ => true

/-- An instruction of the scalar stream executes while blocks run, if nothing holds it. -/
def State.executeAhead (s : State) (i : Instr) : State :=
  if !aheadOk i || !s.aheadSetvl i || s.interlocked i then s else s.ahead fun t => (t.execute i).finish runWord

/-- The scalar stream issues a word of the vector unit into the queue, if it has room (R112, R113). -/
def Hart.enqueue (h : Hart) (w : IWord) : Hart :=
  if queueSize ≤ h.vq.length then h
  else { h with pc := h.pc + 4, wait := none, vq := h.vq ++ [{ h.newBlock h.pc true none 1 with buffer := [(h.pc, w)] }] }

/-- Words that take an entry of the vector queue, beside the implied blocks (R112). -/
def takesEntry (i : Instr) : Bool :=
  match i with
  | .vblk _ | .vloop _ _ => true
  | _ => false

/-- The next word of the scalar stream, fetched while blocks run. What would trap waits for them. A full queue holds what takes an entry of
it, and nothing else (R109, R112). -/
def State.fetchAhead (s : State) : State :=
  let h := s.me
  if h.pc.toNat % 4 ≠ 0 then s
  else
    match s.translateMe .fetch h.pc with
    | .fail _ => s
    | .wait t w => t.park w .nop
    | .ok t loc =>
      if t.corrupt loc 4 then s
      else
        let w := t.wordAt loc
        if issuedMajor (majorOf w) then (if h.frozenQueue (majorOf w) then s else t.upd (·.enqueue w))
        else
          match decode w with
          | .error _ => s
          | .ok i => if takesEntry i && queueSize ≤ h.vq.length then s else t.executeAhead i

/-- The scalar stream moves while a block runs (R112): not past a boundary at which something is to be taken, nor at which a debugger session stops (R336). -/
def State.scalarMove (s : State) : State :=
  let h := s.me
  let stops := (s.ctx h.asid).held && h.wait.all fun w => w.instr == .nop
  let held := stops || h.wound || !h.spill.isEmpty || (!h.system && (h.overrun.isSome || (s.preemptDue h).isSome))
  if h.run ≠ .running || h.blk.isNone || held then s
  else
    match h.wait with
    | none => s.fetchAhead
    | some w => if w.why.own || h.overflows w then s else if w.instr = .nop then s.fetchAhead else s.executeAhead w.instr

/-- `FORCED_PREEMPTION` (R366): at the boundary the hart stands at, where a wound and a trap of its next instruction come first
(R374). -/
def execForcedPreemption (slot : Nat) (s : State) : Host.Outcome State Fault Refusal :=
  let h := s.hart slot
  .next (
    if h.run = .running && !h.system && s.forced h then
      if h.woundReady then s.rollback slot
      else if ({ s with cur := slot }).ownTrap then s
      else s.takePreempt slot 1
    else s)

/-! ## Placing a word where the next step fetches it (log 17) -/

/-- The address the next step fetches at: where the hart stands, if a word can be fetched there. -/
def fetchAddr (pc : Word) : Word :=
  if pc.toNat % 4 = 0 && canonical pc && !(Config.slabWindow ≤ pc.toNat && pc.toNat < Config.windowsEnd) then pc else 0

/-- The hart stands at an instruction, with nothing taken before it. -/
def Hart.atWord (h : Hart) : Hart :=
  { h with
    run := .running, pc := fetchAddr h.pc, blk := none, vq := [], vrs := none, wait := none, wound := false, preempt := [], overrun := none
    spill := [], bad := [] }

/-- The translation of the page fetched from: a leaf that allows every access, of a page at physical address 0. -/
def fetchTrans (asid : Nat) (pc : Word) : Trans := ⟨asid, pc.toNat / 4096 * 4096, 12, 0x11F, [], false⟩

/-- A word, placed where the next step fetches it. -/
def State.placeWord (s : State) (w : IWord) : State :=
  let h := s.me.atWord
  let q := slotQuarter s.cur
  let t := fetchTrans h.asid h.pc
  let loc := t.loc h.pc
  let v := s.view q .h
  let s := { s.setMe h with
    schedule := []
    ctxs := s.ctxs.map fun (e : Nat × Ctx) => (e.1, { e.2 with held := e.2.held && e.1 != h.asid })
    pins := s.pins.filter fun p => !p.trans.covers h.asid h.pc
    tlbs := s.tlbs.put q (t :: s.tlbs.get [] q)
    soft := s.soft.filter fun a => a / 256 != loc / 256
    sideband := { s.sideband with mainUp := true } }
  s.setView q .h { v with bytes := v.bytes.putAll (cellsAt loc (leBytes 4 w.toNat)) }

/-! ## Moves (log 1) -/

/-- Steps that the side-band port, on its own rail, and the power rail take with the main side down: its writes of the control word among
them (R401, R413). -/
def standby (i : Instr) : Bool :=
  match i with
  | .sidebandFirmwareUpdate _ _ | .sidebandMonitoring | .sidebandRecordRead | .spdmAttestation _ | .deviceReset _ | .mainSideDown
  | .pwrctlSlewWrite _ | .pwrctlTolWrite _ | .pwrctlC2reqWrite _ => true
  | _ => false

/-- Steps of the host alone, its driver stack or its debugger: they reach the device through the host port (R7). A pre-emption request may be the device's own
(R306), and `pwrctl` is written over the side-band port too (R401). -/
def hostStep (i : Instr) : Bool :=
  match i with
  | .hostFaultAnswer _ _ | .hostInvalidate _ _ | .hostMemAccess _ _ _ | .regionDeclare _ _ _ | .kernelLoad _ _ | .kernelRetire _ _
  | .queueEnable _ _ _ _ _ | .queueDisable _ | .queueReset _ | .queueResume _ | .hostRingSubmit _ _ | .contextCreate _ _ _ _ _ _ _
  | .contextSave _ | .contextRestore _ | .contextTearDown _ | .contextRelease _ | .resumeSave _ _ | .hostReleaseHart _ | .portEnable _ => true
  | _ => false

/-- What an event needs: the main side, but for those of the side-band port and the power rail (R413); the host link, for a step of the host (R7). -/
def State.admits (s : State) (i : Instr) : Bool := (s.sideband.mainUp || standby i) && (s.hostLink.isSome || !hostStep i)

/-- The host reaches the device: through the host port, whose link is up, with the main side up (R7). -/
def State.hostReaches (s : State) : Bool := s.sideband.mainUp && s.hostLink.isSome

/-- The debugger session of a context stops or continues (R336). -/
def State.session (s : State) (asid : Nat) (stop : Bool) : State :=
  if (s.ctx asid).state = .free then s else s.setCtx asid { s.ctx asid with held := stop }

/-- An uncorrectable soft error strikes a place of a hart: the next instruction that reads it takes the machine-check, and every later one
(R372). -/
def State.strike (s : State) (k : Nat) (p : BadPlace) : State :=
  let h := s.hart k
  s.setHart k { h with bad := if h.bad.contains p then h.bad else p :: h.bad }

/-- A channel of a port is bound to a sending context (R409). -/
def State.bindSend (s : State) (asid port channel : Nat) : State :=
  let c := s.ctx asid
  if !c.live || 16 ≤ port then s
  else
    let s := { s with ctxs := s.ctxs.map fun (e : Nat × Ctx) => (e.1, { e.2 with sends := e.2.sends.filter (· != (port, channel)) }) }
    s.setCtx asid { s.ctx asid with sends := (s.ctx asid).sends ++ [(port, channel)] }

/-- A channel of a port is bound to a receiving context and its put window (R409). -/
def State.bindReceive (s : State) (asid port channel : Nat) (base : Word) (len : Nat) : State :=
  let c := s.ctx asid
  if !c.live || 16 ≤ port then s
  else
    let s := { s with ctxs := s.ctxs.map fun (e : Nat × Ctx) => (e.1, { e.2 with receives := e.2.receives.filter (· != (port, channel)) }) }
    s.setCtx asid { s.ctx asid with receives := (s.ctx asid).receives ++ [(port, channel)], putBase := base, putLen := len }

/-- The watermarks of the hart in a slot reach the view of a quarter (R269). -/
def State.deliverMarks (s : State) (k q : Nat) : State := if 4 ≤ q then s else s.setHart k ((s.hart k).showMarks [q])

/-- With no move scheduled and no hart running, time passes: the calendar's own instants come by themselves. -/
def State.idleFront (s : State) : Front :=
  match s.recess.start with
  | none => if s.beacon < s.nextDue then .done (s.elapse 1) else .done (s.startRecess [] [])
  | some t =>
    if s.beacon = s.publishedEnd t then .done s.endOnTime
    else if s.beacon < s.nextDue then .done (s.elapse 1)
    else .done s.endLate

/-- One move of the schedule. What the host does to the device comes through the host port, and does nothing while its link or the main side is down (R7); its own
memory it changes alone (`hostStore`). With the main side down harts, the runtime and table events do nothing, but for those of the side-band port and the power
rail (R413; log 45). -/
def State.moveFront (s : State) (m : Move) : Front :=
  match m with
  | .hart k => if s.sideband.mainUp then ({ s with cur := k }).hartFront else .done s
  | .event i => if isEvent i && s.admits i then .run i s else .done s
  | .elapse n => .done (s.elapse n)
  | .runtime k => .done (if s.sideband.mainUp then s.serve k else s)
  | .softError loc => .done { s with soft := if s.soft.contains loc then s.soft else loc :: s.soft }
  | .corrected => .done { s with corrected := s.corrected + 1 }
  | .scalar k => if s.sideband.mainUp then .done ({ s with cur := k }).scalarMove else .done s
  | .strike k p => .done (s.strike k p)
  | .bindSend a p c => .done (if s.hostReaches then s.bindSend a p c else s)
  | .bindReceive a p c b n => .done (if s.hostReaches then s.bindReceive a p c b n else s)
  | .marks k q => .done (s.deliverMarks k q)
  | .hostStore loc bs => .done (s.hostStore loc bs)
  | .rampDown on => .done { s with rampDown := on }
  | .submit a d => .done (if s.hostReaches then (s.gnode a d).1 else s)
  | .session a stop => .done (if s.hostReaches then s.session a stop else s)

/-- What the next step is: the head of the schedule, else the hart `cur`, unless its debugger session is stopped (R336), else time. -/
def State.front (s : State) : Front :=
  match s.schedule with
  | m :: r => ({ s with schedule := r }).moveFront m
  | [] =>
    if !s.sideband.mainUp then .done s
    else
      match s.me.run with
      | .running => if s.stopsHere then s.idleFront else s.hartFront
      | .saving _ _ _ _ => s.hartFront
      | _ => s.idleFront

end Sys2Proof.Machine
end

