-- ==== Sys2Proof/Machine/Dispatch.lean ====
section
/-! DEFINITION. The meaning of every instruction and event, one arm each. -/

namespace Sys2Proof.Machine

/-- The meaning of each constructor of `Instr`. -/
def exec (i : Instr) (s : State) : Host.Outcome State Fault Refusal :=
  match i with
  | .add d a b => Sys2Proof.Machine.execAdd d a b s
  | .sub d a b => Sys2Proof.Machine.execSub d a b s
  | .mul d a b => Sys2Proof.Machine.execMul d a b s
  | .mulh d a b => Sys2Proof.Machine.execMulh d a b s
  | .div d a b => Sys2Proof.Machine.execDiv d a b s
  | .divu d a b => Sys2Proof.Machine.execDivu d a b s
  | .rem d a b => Sys2Proof.Machine.execRem d a b s
  | .remu d a b => Sys2Proof.Machine.execRemu d a b s
  | .and d a b => Sys2Proof.Machine.execAnd d a b s
  | .or d a b => Sys2Proof.Machine.execOr d a b s
  | .xor d a b => Sys2Proof.Machine.execXor d a b s
  | .shl d a b => Sys2Proof.Machine.execShl d a b s
  | .shr d a b => Sys2Proof.Machine.execShr d a b s
  | .sra d a b => Sys2Proof.Machine.execSra d a b s
  | .slt d a b => Sys2Proof.Machine.execSlt d a b s
  | .sltu d a b => Sys2Proof.Machine.execSltu d a b s
  | .min d a b => Sys2Proof.Machine.execMin d a b s
  | .minu d a b => Sys2Proof.Machine.execMinu d a b s
  | .max d a b => Sys2Proof.Machine.execMax d a b s
  | .maxu d a b => Sys2Proof.Machine.execMaxu d a b s
  | .clz d a => Sys2Proof.Machine.execClz d a s
  | .ctz d a => Sys2Proof.Machine.execCtz d a s
  | .popc d a => Sys2Proof.Machine.execPopc d a s
  | .jalr d a => Sys2Proof.Machine.execJalr d a s
  | .shli d a k => Sys2Proof.Machine.execShli d a k s
  | .shri d a k => Sys2Proof.Machine.execShri d a k s
  | .srai d a k => Sys2Proof.Machine.execSrai d a k s
  | .addi d a imm => Sys2Proof.Machine.execAddi d a imm s
  | .andi d a imm => Sys2Proof.Machine.execAndi d a imm s
  | .ori d a imm => Sys2Proof.Machine.execOri d a imm s
  | .xori d a imm => Sys2Proof.Machine.execXori d a imm s
  | .lih d imm h => Sys2Proof.Machine.execLih d imm h s
  | .addpc d imm => Sys2Proof.Machine.execAddpc d imm s
  | .lb d b off => Sys2Proof.Machine.execLb d b off s
  | .lh d b off => Sys2Proof.Machine.execLh d b off s
  | .lw d b off => Sys2Proof.Machine.execLw d b off s
  | .ld d b off => Sys2Proof.Machine.execLd d b off s
  | .lbu d b off => Sys2Proof.Machine.execLbu d b off s
  | .lhu d b off => Sys2Proof.Machine.execLhu d b off s
  | .lwu d b off => Sys2Proof.Machine.execLwu d b off s
  | .sb x b off => Sys2Proof.Machine.execSb x b off s
  | .sh x b off => Sys2Proof.Machine.execSh x b off s
  | .sw x b off => Sys2Proof.Machine.execSw x b off s
  | .sd x b off => Sys2Proof.Machine.execSd x b off s
  | .beq a b off => Sys2Proof.Machine.execBeq a b off s
  | .bne a b off => Sys2Proof.Machine.execBne a b off s
  | .blt a b off => Sys2Proof.Machine.execBlt a b off s
  | .bge a b off => Sys2Proof.Machine.execBge a b off s
  | .bltu a b off => Sys2Proof.Machine.execBltu a b off s
  | .bgeu a b off => Sys2Proof.Machine.execBgeu a b off s
  | .jal d off => Sys2Proof.Machine.execJal d off s
  | .fadd d a b rm prec => Sys2Proof.Machine.execFadd d a b rm prec s
  | .fsub d a b rm prec => Sys2Proof.Machine.execFsub d a b rm prec s
  | .fmul d a b rm prec => Sys2Proof.Machine.execFmul d a b rm prec s
  | .fdiv d a b rm prec => Sys2Proof.Machine.execFdiv d a b rm prec s
  | .fsqrt d a rm prec => Sys2Proof.Machine.execFsqrt d a rm prec s
  | .fmin d a b prec => Sys2Proof.Machine.execFmin d a b prec s
  | .fmax d a b prec => Sys2Proof.Machine.execFmax d a b prec s
  | .fneg d a prec => Sys2Proof.Machine.execFneg d a prec s
  | .fabs d a prec => Sys2Proof.Machine.execFabs d a prec s
  | .feq d a b prec => Sys2Proof.Machine.execFeq d a b prec s
  | .flt d a b prec => Sys2Proof.Machine.execFlt d a b prec s
  | .fle d a b prec => Sys2Proof.Machine.execFle d a b prec s
  | .fmadd a b c rm prec => Sys2Proof.Machine.execFmadd a b c rm prec s
  | .fmsub a b c rm prec => Sys2Proof.Machine.execFmsub a b c rm prec s
  | .fcvt d a rm dst src => Sys2Proof.Machine.execFcvt d a rm dst src s
  | .crr d n => Sys2Proof.Machine.execCrr d n s
  | .crw d a n => Sys2Proof.Machine.execCrw d a n s
  | .crs d a n => Sys2Proof.Machine.execCrs d a n s
  | .crc d a n => Sys2Proof.Machine.execCrc d a n s
  | .rett => Sys2Proof.Machine.execRett s
  | .idle => Sys2Proof.Machine.execIdle s
  | .savepin b l => Sys2Proof.Machine.execSavepin b l s
  | .asinv a v => Sys2Proof.Machine.execAsinv a v s
  | .pgprobe d a => Sys2Proof.Machine.execPgprobe d a s
  | .timetbl d => Sys2Proof.Machine.execTimetbl d s
  | .rcwait => Sys2Proof.Machine.execRcwait s
  | .trap code => Sys2Proof.Machine.execTrap code s
  | .fenceHart => Sys2Proof.Machine.execFenceHart s
  | .fenceCore => Sys2Proof.Machine.execFenceCore s
  | .fenceCluster => Sys2Proof.Machine.execFenceCluster s
  | .fenceQuarter => Sys2Proof.Machine.execFenceQuarter s
  | .fenceDevice => Sys2Proof.Machine.execFenceDevice s
  | .fenceSystem => Sys2Proof.Machine.execFenceSystem s
  | .fenceSv => Sys2Proof.Machine.execFenceSv s
  | .fenceVs => Sys2Proof.Machine.execFenceVs s
  | .fencep p q => Sys2Proof.Machine.execFencep p q s
  | .wmset n a => Sys2Proof.Machine.execWmset n a s
  | .amoAdd d a b aq rl => Sys2Proof.Machine.execAmoAdd d a b aq rl s
  | .amoMin d a b aq rl => Sys2Proof.Machine.execAmoMin d a b aq rl s
  | .amoMax d a b aq rl => Sys2Proof.Machine.execAmoMax d a b aq rl s
  | .amoAnd d a b aq rl => Sys2Proof.Machine.execAmoAnd d a b aq rl s
  | .amoOr d a b aq rl => Sys2Proof.Machine.execAmoOr d a b aq rl s
  | .amoXor d a b aq rl => Sys2Proof.Machine.execAmoXor d a b aq rl s
  | .amoSwap d a b aq rl => Sys2Proof.Machine.execAmoSwap d a b aq rl s
  | .cas d a b aq rl => Sys2Proof.Machine.execCas d a b aq rl s
  | .binit a n => Sys2Proof.Machine.execBinit a n s
  | .barrive a mk => Sys2Proof.Machine.execBarrive a mk s
  | .bwait d a => Sys2Proof.Machine.execBwait d a s
  | .slate ix b l => Sys2Proof.Machine.execSlate ix b l s
  | .smerge ix => Sys2Proof.Machine.execSmerge ix s
  | .lkdecl ix b l => Sys2Proof.Machine.execLkdecl ix b l s
  | .lkstat d => Sys2Proof.Machine.execLkstat d s
  | .lksen d => Sys2Proof.Machine.execLksen d s
  | .vamoAdd vd b vi mk aq rl => Sys2Proof.Machine.execVamoAdd vd b vi mk aq rl s
  | .vamoMin vd b vi mk aq rl => Sys2Proof.Machine.execVamoMin vd b vi mk aq rl s
  | .vamoMax vd b vi mk aq rl => Sys2Proof.Machine.execVamoMax vd b vi mk aq rl s
  | .vamoAnd vd b vi mk aq rl => Sys2Proof.Machine.execVamoAnd vd b vi mk aq rl s
  | .vamoOr vd b vi mk aq rl => Sys2Proof.Machine.execVamoOr vd b vi mk aq rl s
  | .vamoXor vd b vi mk aq rl => Sys2Proof.Machine.execVamoXor vd b vi mk aq rl s
  | .vamoSwap vd b vi mk aq rl => Sys2Proof.Machine.execVamoSwap vd b vi mk aq rl s
  | .vamoCas vd b vi mk aq rl => Sys2Proof.Machine.execVamoCas vd b vi mk aq rl s
  | .vwaitEq vs b vi mk => Sys2Proof.Machine.execVwaitEq vs b vi mk s
  | .vwaitNe vs b vi mk => Sys2Proof.Machine.execVwaitNe vs b vi mk s
  | .vwaitLt vs b vi mk => Sys2Proof.Machine.execVwaitLt vs b vi mk s
  | .vwaitGe vs b vi mk => Sys2Proof.Machine.execVwaitGe vs b vi mk s
  | .vwaitLtu vs b vi mk => Sys2Proof.Machine.execVwaitLtu vs b vi mk s
  | .vwaitGeu vs b vi mk => Sys2Proof.Machine.execVwaitGeu vs b vi mk s
  | .sladd vs ix vx mk => Sys2Proof.Machine.execSladd vs ix vx mk s
  | .slmin vs ix vx mk => Sys2Proof.Machine.execSlmin vs ix vx mk s
  | .slmax vs ix vx mk => Sys2Proof.Machine.execSlmax vs ix vx mk s
  | .launch d desc q => Sys2Proof.Machine.execLaunch d desc q s
  | .gnode d desc => Sys2Proof.Machine.execGnode d desc s
  | .qstate d q => Sys2Proof.Machine.execQstate d q s
  | .strpush d st x => Sys2Proof.Machine.execStrpush d st x s
  | .strpop d st => Sys2Proof.Machine.execStrpop d st s
  | .hgive tb g => Sys2Proof.Machine.execHgive tb g s
  | .htake d tb => Sys2Proof.Machine.execHtake d tb s
  | .cpy a b c => Sys2Proof.Machine.execCpy a b c s
  | .cpyw a b c src dst => Sys2Proof.Machine.execCpyw a b c src dst s
  | .pack a b c => Sys2Proof.Machine.execPack a b c s
  | .unpack a b c => Sys2Proof.Machine.execUnpack a b c s
  | .cpwait a => Sys2Proof.Machine.execCpwait a s
  | .vadd vd va vb mk dt xm => Sys2Proof.Machine.execVadd vd va vb mk dt xm s
  | .vsub vd va vb mk dt xm => Sys2Proof.Machine.execVsub vd va vb mk dt xm s
  | .vmul vd va vb mk dt xm => Sys2Proof.Machine.execVmul vd va vb mk dt xm s
  | .vdiv vd va vb mk dt xm => Sys2Proof.Machine.execVdiv vd va vb mk dt xm s
  | .vmin vd va vb mk dt xm => Sys2Proof.Machine.execVmin vd va vb mk dt xm s
  | .vmax vd va vb mk dt xm => Sys2Proof.Machine.execVmax vd va vb mk dt xm s
  | .vand vd va vb mk dt => Sys2Proof.Machine.execVand vd va vb mk dt s
  | .vor vd va vb mk dt => Sys2Proof.Machine.execVor vd va vb mk dt s
  | .vxor vd va vb mk dt => Sys2Proof.Machine.execVxor vd va vb mk dt s
  | .vshl vd va vb mk dt => Sys2Proof.Machine.execVshl vd va vb mk dt s
  | .vshr vd va vb mk dt => Sys2Proof.Machine.execVshr vd va vb mk dt s
  | .vsra vd va vb mk dt => Sys2Proof.Machine.execVsra vd va vb mk dt s
  | .vmadd vd va vb mk dt xm => Sys2Proof.Machine.execVmadd vd va vb mk dt xm s
  | .vscale vd va vb mk dt xm => Sys2Proof.Machine.execVscale vd va vb mk dt xm s
  | .vsqrt vd va mk dt xm => Sys2Proof.Machine.execVsqrt vd va mk dt xm s
  | .vabs vd va mk dt => Sys2Proof.Machine.execVabs vd va mk dt s
  | .vneg vd va mk dt => Sys2Proof.Machine.execVneg vd va mk dt s
  | .vpopc vd va mk dt => Sys2Proof.Machine.execVpopc vd va mk dt s
  | .vmv vd va mk dt => Sys2Proof.Machine.execVmv vd va mk dt s
  | .vid vd mk dt => Sys2Proof.Machine.execVid vd mk dt s
  | .vcmpEq md va vb mk dt xm => Sys2Proof.Machine.execVcmpEq md va vb mk dt xm s
  | .vcmpNe md va vb mk dt xm => Sys2Proof.Machine.execVcmpNe md va vb mk dt xm s
  | .vcmpLt md va vb mk dt xm => Sys2Proof.Machine.execVcmpLt md va vb mk dt xm s
  | .vcmpLe md va vb mk dt xm => Sys2Proof.Machine.execVcmpLe md va vb mk dt xm s
  | .vcmpGt md va vb mk dt xm => Sys2Proof.Machine.execVcmpGt md va vb mk dt xm s
  | .vcmpGe md va vb mk dt xm => Sys2Proof.Machine.execVcmpGe md va vb mk dt xm s
  | .vcmpLtu md va vb mk dt xm => Sys2Proof.Machine.execVcmpLtu md va vb mk dt xm s
  | .vcmpLeu md va vb mk dt xm => Sys2Proof.Machine.execVcmpLeu md va vb mk dt xm s
  | .vcmpGtu md va vb mk dt xm => Sys2Proof.Machine.execVcmpGtu md va vb mk dt xm s
  | .vcmpGeu md va vb mk dt xm => Sys2Proof.Machine.execVcmpGeu md va vb mk dt xm s
  | .mand md ma mb => Sys2Proof.Machine.execMand md ma mb s
  | .mor md ma mb => Sys2Proof.Machine.execMor md ma mb s
  | .mxor md ma mb => Sys2Proof.Machine.execMxor md ma mb s
  | .mnot md ma => Sys2Proof.Machine.execMnot md ma s
  | .mpopc d ma => Sys2Proof.Machine.execMpopc d ma s
  | .mfirst d ma => Sys2Proof.Machine.execMfirst d ma s
  | .vmerge vd va vb mk => Sys2Proof.Machine.execVmerge vd va vb mk s
  | .vnzidx vd va c mk => Sys2Proof.Machine.execVnzidx vd va c mk s
  | .vbcast vd a mk => Sys2Proof.Machine.execVbcast vd a mk s
  | .vslide vd va o mk => Sys2Proof.Machine.execVslide vd va o mk s
  | .vperm vd va vi mk => Sys2Proof.Machine.execVperm vd va vi mk s
  | .vredsum d va mk dt xm => Sys2Proof.Machine.execVredsum d va mk dt xm s
  | .vredmin d va mk dt => Sys2Proof.Machine.execVredmin d va mk dt s
  | .vredmax d va mk dt => Sys2Proof.Machine.execVredmax d va mk dt s
  | .vredmini d va ix mk dt => Sys2Proof.Machine.execVredmini d va ix mk dt s
  | .vcvt vd va mk rm src dt xm => Sys2Proof.Machine.execVcvt vd va mk rm src dt xm s
  | .vld vd b mk => Sys2Proof.Machine.execVld vd b mk s
  | .vlds vd b t mk => Sys2Proof.Machine.execVlds vd b t mk s
  | .vldx vd b vi mk => Sys2Proof.Machine.execVldx vd b vi mk s
  | .vldff vd b mk => Sys2Proof.Machine.execVldff vd b mk s
  | .vst vs b mk => Sys2Proof.Machine.execVst vs b mk s
  | .vsts vs b t mk => Sys2Proof.Machine.execVsts vs b t mk s
  | .vstx vs b vi mk => Sys2Proof.Machine.execVstx vs b vi mk s
  | .vstxu vs b vi mk => Sys2Proof.Machine.execVstxu vs b vi mk s
  | .satld vd b vi mk => Sys2Proof.Machine.execSatld vd b vi mk s
  | .satst vs b vi mk => Sys2Proof.Machine.execSatst vs b vi mk s
  | .vspill vs b => Sys2Proof.Machine.execVspill vs b s
  | .vfill vd b => Sys2Proof.Machine.execVfill vd b s
  | .setvl d a => Sys2Proof.Machine.execSetvl d a s
  | .vcfg fmt span klen => Sys2Proof.Machine.execVcfg fmt span klen s
  | .vblk off => Sys2Proof.Machine.execVblk off s
  | .vloop a off => Sys2Proof.Machine.execVloop a off s
  | .vb mk off => Sys2Proof.Machine.execVb mk off s
  | .vstop => Sys2Proof.Machine.execVstop s
  | .psetd dd a => Sys2Proof.Machine.execPsetd dd a s
  | .psetvl g dd => Sys2Proof.Machine.execPsetvl g dd s
  | .pld pd b => Sys2Proof.Machine.execPld pd b s
  | .pst pa b => Sys2Proof.Machine.execPst pa b s
  | .padd pd pa pb mk => Sys2Proof.Machine.execPadd pd pa pb mk s
  | .psub pd pa pb mk => Sys2Proof.Machine.execPsub pd pa pb mk s
  | .pmul pd pa pb mk => Sys2Proof.Machine.execPmul pd pa pb mk s
  | .pmulc pd pa pb mk => Sys2Proof.Machine.execPmulc pd pa pb mk s
  | .pscal pd pa vs mk => Sys2Proof.Machine.execPscal pd pa vs mk s
  | .pdiff pd pa dir mk => Sys2Proof.Machine.execPdiff pd pa dir mk s
  | .pint pd pa dir mk => Sys2Proof.Machine.execPint pd pa dir mk s
  | .pintd vd pa mk => Sys2Proof.Machine.execPintd vd pa mk s
  | .pproj pd pa deg mk => Sys2Proof.Machine.execPproj pd pa deg mk s
  | .plift pd pa deg mk => Sys2Proof.Machine.execPlift pd pa deg mk s
  | .ptrace pd vd pa face mk => Sys2Proof.Machine.execPtrace pd vd pa face mk s
  | .pfaceAvg pd pa pb mk => Sys2Proof.Machine.execPfaceAvg pd pa pb mk s
  | .pfaceJump pd pa pb mk => Sys2Proof.Machine.execPfaceJump pd pa pb mk s
  | .pfaceUp pd pa pb vu mk => Sys2Proof.Machine.execPfaceUp pd pa pb vu mk s
  | .peval vd pa mk => Sys2Proof.Machine.execPeval vd pa mk s
  | .pevalb vd pa mk => Sys2Proof.Machine.execPevalb vd pa mk s
  | .pevalx vd pa mk => Sys2Proof.Machine.execPevalx vd pa mk s
  | .pfit pd pa mk => Sys2Proof.Machine.execPfit pd pa mk s
  | .pnode pd pa mk => Sys2Proof.Machine.execPnode pd pa mk s
  | .pconv pd pa basis mk => Sys2Proof.Machine.execPconv pd pa basis mk s
  | .mma zd vs mk afmt twin => Sys2Proof.Machine.execMma zd vs mk afmt twin s
  | .mopa zd va vb mk afmt => Sys2Proof.Machine.execMopa zd va vb mk afmt s
  | .zclr zd => Sys2Proof.Machine.execZclr zd s
  | .zrd vd zs r => Sys2Proof.Machine.execZrd vd zs r s
  | .zwr zd vs r => Sys2Proof.Machine.execZwr zd vs r s
  | .zcvt vd zs r afmt => Sys2Proof.Machine.execZcvt vd zs r afmt s
  | .wload o sc afmt => Sys2Proof.Machine.execWload o sc afmt s
  | .wswap => Sys2Proof.Machine.execWswap s
  | .tgemm zd dsc afmt twin => Sys2Proof.Machine.execTgemm zd dsc afmt twin s
  | .talloc d tb sz => Sys2Proof.Machine.execTalloc d tb sz s
  | .tfree tb => Sys2Proof.Machine.execTfree tb s
  | .tstate d tb => Sys2Proof.Machine.execTstate d tb s
  | .lsend d pt a cls => Sys2Proof.Machine.execLsend d pt a cls s
  | .lpoll d a cls => Sys2Proof.Machine.execLpoll d a cls s
  | .nop => Sys2Proof.Machine.execNop s
  | .hint h => Sys2Proof.Machine.execHint h s
  | .hostFaultAnswer ticket retry => Sys2Proof.Machine.execHostFaultAnswer ticket retry s
  | .pageWalkComplete quarter asid va => Sys2Proof.Machine.execPageWalkComplete quarter asid va s
  | .hostInvalidate a va => Sys2Proof.Machine.execHostInvalidate a va s
  | .hostMemAccess offset len data => Sys2Proof.Machine.execHostMemAccess offset len data s
  | .regionDeclare base size declare => Sys2Proof.Machine.execRegionDeclare base size declare s
  | .writeApply index view => Sys2Proof.Machine.execWriteApply index view s
  | .loadPerformed slot => Sys2Proof.Machine.execLoadPerformed slot s
  | .atomicAtHome slot => Sys2Proof.Machine.execAtomicAtHome slot s
  | .watermarkStallEnd slot => Sys2Proof.Machine.execWatermarkStallEnd slot s
  | .guardWindowRelease slot => Sys2Proof.Machine.execGuardWindowRelease slot s
  | .copyCommandStart cluster seq => Sys2Proof.Machine.execCopyCommandStart cluster seq s
  | .copyCommandComplete cluster seq => Sys2Proof.Machine.execCopyCommandComplete cluster seq s
  | .tileWriterAccept cluster seq => Sys2Proof.Machine.execTileWriterAccept cluster seq s
  | .tgemmStep slot => Sys2Proof.Machine.execTgemmStep slot s
  | .arrayAcquire slot => Sys2Proof.Machine.execArrayAcquire slot s
  | .twinPairing slot => Sys2Proof.Machine.execTwinPairing slot s
  | .pairingTimeout slot => Sys2Proof.Machine.execPairingTimeout slot s
  | .decodeTableReload cluster seq => Sys2Proof.Machine.execDecodeTableReload cluster seq s
  | .strandWaitEnd slot => Sys2Proof.Machine.execStrandWaitEnd slot s
  | .woundDelivery slot => Sys2Proof.Machine.execWoundDelivery slot s
  | .locketCommit slot => Sys2Proof.Machine.execLocketCommit slot s
  | .becomeIrrevocable slot => Sys2Proof.Machine.execBecomeIrrevocable slot s
  | .teamStart group place => Sys2Proof.Machine.execTeamStart group place s
  | .kernelLoad asid rec => Sys2Proof.Machine.execKernelLoad asid rec s
  | .kernelRetire asid rec => Sys2Proof.Machine.execKernelRetire asid rec s
  | .queueEnable q asid prio guarded cap => Sys2Proof.Machine.execQueueEnable q asid prio guarded cap s
  | .queueDisable q => Sys2Proof.Machine.execQueueDisable q s
  | .queueReset q => Sys2Proof.Machine.execQueueReset q s
  | .queueResume q => Sys2Proof.Machine.execQueueResume q s
  | .hostRingSubmit q desc => Sys2Proof.Machine.execHostRingSubmit q desc s
  | .ringEntryTake q => Sys2Proof.Machine.execRingEntryTake q s
  | .dispatcherGrant => Sys2Proof.Machine.execDispatcherGrant s
  | .nodeComplete q nodes => Sys2Proof.Machine.execNodeComplete q nodes s
  | .clusterSlotGrant cluster => Sys2Proof.Machine.execClusterSlotGrant cluster s
  | .stealMessage thief => Sys2Proof.Machine.execStealMessage thief s
  | .stealDelivery index thiefDown victimDown => Sys2Proof.Machine.execStealDelivery index thiefDown victimDown s
  | .contextCreate asid root stackBase stackLen saveBase saveLen tvec => Sys2Proof.Machine.execContextCreate asid root stackBase stackLen saveBase saveLen tvec s
  | .contextSave asid => Sys2Proof.Machine.execContextSave asid s
  | .saveComplete asid => Sys2Proof.Machine.execSaveComplete asid s
  | .contextRestore asid => Sys2Proof.Machine.execContextRestore asid s
  | .contextTearDown asid => Sys2Proof.Machine.execContextTearDown asid s
  | .contextTorn asid => Sys2Proof.Machine.execContextTorn asid s
  | .contextRelease asid => Sys2Proof.Machine.execContextRelease asid s
  | .resumeSave slot unit => Sys2Proof.Machine.execResumeSave slot unit s
  | .hostReleaseHart slot => Sys2Proof.Machine.execHostReleaseHart slot s
  | .preemptionRequest slot bound => Sys2Proof.Machine.execPreemptionRequest slot bound s
  | .forcedPreemption slot => Sys2Proof.Machine.execForcedPreemption slot s
  | .idleTimeBound slot => Sys2Proof.Machine.execIdleTimeBound slot s
  | .recessStart readings millivolts => Sys2Proof.Machine.execRecessStart readings millivolts s
  | .drainWindowOpen => Sys2Proof.Machine.execDrainWindowOpen s
  | .recessEnd => Sys2Proof.Machine.execRecessEnd s
  | .recessOverrunEnd => Sys2Proof.Machine.execRecessOverrunEnd s
  | .powerStateEntry level part => Sys2Proof.Machine.execPowerStateEntry level part s
  | .powerWake level part => Sys2Proof.Machine.execPowerWake level part s
  | .laneCapChange core lanes => Sys2Proof.Machine.execLaneCapChange core lanes s
  | .staggerLapse => Sys2Proof.Machine.execStaggerLapse s
  | .pwrctlSlewWrite val => Sys2Proof.Machine.execPwrctlSlewWrite val s
  | .pwrctlTolWrite val => Sys2Proof.Machine.execPwrctlTolWrite val s
  | .pwrctlC2reqWrite val => Sys2Proof.Machine.execPwrctlC2reqWrite val s
  | .deviceReset keepMemory => Sys2Proof.Machine.execDeviceReset keepMemory s
  | .hostLinkTraining deviceType flit256 rate asks => Sys2Proof.Machine.execHostLinkTraining deviceType flit256 rate asks s
  | .portEnable port => Sys2Proof.Machine.execPortEnable port s
  | .portTrained port peerHallmark => Sys2Proof.Machine.execPortTrained port peerHallmark s
  | .portTrainingTimeout port => Sys2Proof.Machine.execPortTrainingTimeout port s
  | .portErrorThreshold port => Sys2Proof.Machine.execPortErrorThreshold port s
  | .partnerLost port => Sys2Proof.Machine.execPartnerLost port s
  | .portQueueDiscard port => Sys2Proof.Machine.execPortQueueDiscard port s
  | .messageTransmit port cls => Sys2Proof.Machine.execMessageTransmit port cls s
  | .messageReceive port cls msg => Sys2Proof.Machine.execMessageReceive port cls msg s
  | .putExecute port cls msg blocks => Sys2Proof.Machine.execPutExecute port cls msg blocks s
  | .sidebandFirmwareUpdate image signatureOk => Sys2Proof.Machine.execSidebandFirmwareUpdate image signatureOk s
  | .sidebandMonitoring => Sys2Proof.Machine.execSidebandMonitoring s
  | .sidebandRecordRead => Sys2Proof.Machine.execSidebandRecordRead s
  | .spdmAttestation request => Sys2Proof.Machine.execSpdmAttestation request s
  | .illegalInstruction w => Sys2Proof.Machine.execIllegalInstruction w s
  | .maintenanceWorkEnd => Sys2Proof.Machine.execMaintenanceWorkEnd s
  | .gddr7RetrainingRequest dev => Sys2Proof.Machine.execGddr7RetrainingRequest dev s
  | .mainSideDown => Sys2Proof.Machine.execMainSideDown s

end Sys2Proof.Machine
end

