-- ==== Sys2Proof/Machine/Step.lean ====
section
/-! DEFINITION. One step of the device. -/

namespace Sys2Proof.Machine

/-- One step: what the front decides, or the meaning of the instruction or event that stands there. -/
def step (s : State) : Host.Outcome State Fault Refusal :=
  match s.front with
  | .done t => .next t
  | .run i t => exec i t

/-- The state with an instruction word where the next step fetches (log 17). -/
def State.withFetchWord (s : State) (nbits w : Nat) : State := s.placeWord (BitVec.ofNat 32 (w % 2 ^ nbits))

end Sys2Proof.Machine
end

