-- ==== Sys2Proof/Safety.lean ====
section
/-! DEFINITION. What the statements call a well-formed state, and the words they say an outcome in: what an instruction leaves
alone, how one completes, how one traps. -/

namespace Sys2Proof.Machine

/-- Every memory of a state keeps the canonical form: the views, the satchels of the slots, those of the members kept out of a
slot. -/
def State.memoryOk (s : State) : Prop :=
  (∀ v ∈ s.views, v.2.bytes.wf = true) ∧ (∀ h ∈ s.harts, h.2.satchel.wf = true) ∧
  ∀ g ∈ s.groups, ∀ m ∈ g.2.members, ∀ h, m.2.saved = some h → h.satchel.wf = true

/-- A table lists its keys in rising order, each once. -/
def rises {α : Type} (t : Tbl α) : Prop := t.Pairwise fun a b => a.1 < b.1

/-- The tables of a state list their keys in rising order: slots, contexts, tile entries, and the lockets, below 64, and the strands of
each group. -/
def State.keysOk (s : State) : Prop :=
  rises s.harts ∧ rises s.ctxs ∧ (∀ c ∈ s.cores, rises c.2.tiles) ∧
  ∀ g ∈ s.groups, rises g.2.lockets ∧ rises g.2.items ∧ ∀ l ∈ g.2.lockets, l.1 < 64

end Sys2Proof.Machine

namespace Sys2Proof.Claim

open Sys2Proof.Machine

/-! ## What an instruction leaves alone -/

/-- Every byte reads as before, on every path of every view. -/
def SameMemory (s t : State) : Prop := ∀ r p a, t.viewByte r p a = s.viewByte r p a

/-- Nothing of the device but the executing hart has changed. -/
def OnlyMe (s t : State) : Prop := t = s.setMe t.me ∧ SameMemory s t

/-- The scalar registers but `d` are as before; S0 reads 0 (R83). -/
def SameScalar (g h : Hart) (d : SReg) : Prop := ∀ r, r ≠ d ∨ r = 0 → h.sget r = g.sget r

/-- What `velem` holds after a scalar-stream instruction (R370). -/
def velemAfter (g : Hart) : Word := if g.system then g.velem else 0

/-- A scalar-stream instruction completes: it writes `x` to S[d] and raises `flags`; the hart goes on at `pc`. Every other
register of the hart, the rest of the device and every byte of memory are unchanged. -/
def ScalarDone (o : Host.Outcome State Fault Refusal) (s : State) (d : SReg) (x : Word) (flags : FlagSet) (pc : Word) : Prop :=
  ∃ t, o = .next t ∧ OnlyMe s t ∧
    t.me = { s.me with s := t.me.s, pc := pc, velem := velemAfter s.me, fmode := s.me.fmode ||| (flags.zeroExtend 64 <<< 5), wait := none } ∧
    SameScalar s.me t.me d ∧ t.me.sget d = if d = 0 then 0 else x

/-- A scalar-stream instruction that writes no scalar register completes: the executing hart becomes `h`, gone on to the next
word; the rest of the device and every byte of memory are unchanged. -/
def HartDone (o : Host.Outcome State Fault Refusal) (s : State) (h : Hart) : Prop :=
  ∃ t, o = .next t ∧ OnlyMe s t ∧ t.me = { h with pc := s.me.pc + 4, velem := velemAfter s.me, wait := none }

/-- The trap entry of R100, taken in task mode from the scalar stream with the cause `code`: the saved registers, S29 and
`lhold` exchanged, system mode, the handler's slot. Nothing else changes. -/
def TrapTaken (o : Host.Outcome State Fault Refusal) (s : State) (code : Nat) (lepc laddr : Word) : Prop :=
  ∃ t, o = .next t ∧ OnlyMe s t ∧
    t.me = { s.me with
      s := t.me.s
      lepc := lepc
      lvelem := s.me.velem
      lcause := BitVec.ofNat 64 code
      laddr := laddr
      lhold := s.me.sget 29
      system := true
      pc := s.me.ltvec + BitVec.ofNat 64 (64 * code)
      wait := none } ∧
    SameScalar s.me t.me 29 ∧ t.me.sget 29 = s.me.lhold

/-- A trap raised in system mode: the hart freezes as it stands, and the host is told (R100, R373). -/
def DoubleTrap (o : Host.Outcome State Fault Refusal) (s : State) (code : Nat) : Prop :=
  ∃ t, o = .next t ∧ SameMemory s t ∧ t.me = { s.me with run := .frozen } ∧
    t = { s.setMe t.me with records := s.records ++ [⟨3, s.me.asid, s.cur, code, s.me.lepc, s.me.laddr, s.me.lvelem.toNat % 65536⟩] }

/-- One or zero. -/
def bit (p : Prop) [Decidable p] : Word := if p then 1 else 0

end Sys2Proof.Claim

namespace Sys2Proof.Claim

open Sys2Proof.Machine

/-! ## Writes at a home -/

/-- Nothing is outstanding at the home quarter `q`: no write waits to be applied, the quarter has issued what it has applied, the
executing hart has seen nothing beyond, and no byte of the home view is newer. The memories are canonical. -/
def QuietHome (s : State) (q : Nat) : Prop :=
  s.memoryOk ∧ s.writes = [] ∧ quarterClock s.issued q = quarterClock s.applied q ∧
    Clock.le s.me.clock (quarterClock s.applied q) = true ∧
    ∀ a, Clock.le ((s.view q .h).stamps.get ⟨Clock.zero, 0⟩ a).clk (quarterClock s.applied q) = true

/-- Byte `k` of a number stored least significant first (R18). -/
def byteOf (x k : Nat) : Byte := BitVec.ofNat 8 (x / 2 ^ (8 * k))

/-- Path H of view `q` shows `x` in the `n` bytes from `loc`; every other byte, on every path of every view, reads as before. -/
def HomeBytes (s t : State) (q loc n x : Nat) : Prop :=
  (∀ k, k < n → t.viewByte q .h (loc + k) = byteOf x k) ∧
  ∀ r p a, ¬(r = q ∧ p = .h ∧ loc ≤ a ∧ a < loc + n) → t.viewByte r p a = s.viewByte r p a

/-- The state in which the d bit of the page of an address is set, as an ordinary write of the executing hart there leaves it (R383). -/
def dirtied (u : State) (va : Word) : State := u.markMine va

/-- The hart reaches the page of an address through no translation, as in a window, or through one that is known to be dirty: a write sets
no d bit. -/
def KnownDirty (u : State) (va : Word) : Prop := ∀ e, u.myTrans va = some e → e.dirty = true

/-- No byte of `n` from `o` of the satchel windows holds an uncorrectable soft error (R372). -/
def SoundSatchel (h : Hart) (o n : Nat) : Prop := ∀ k, k < n → BadPlace.satchel (o + k) ∉ h.bad

/-- No other hart changes. -/
def SameOthers (s t : State) : Prop := ∀ k, k ≠ s.cur → t.hart k = s.hart k

/-- The executing hart goes on to the next word and S[d] receives `x`; besides, only its causal history (R255) and the fields
`f` sets may differ. -/
def MovesOn (s t : State) (d : SReg) (x : Word) (f : Hart → Hart) : Prop :=
  t.me = { f s.me with
    s := t.me.s
    pc := s.me.pc + 4
    velem := velemAfter s.me
    wait := none
    clock := t.me.clock
    seen := t.me.seen
    seenV := t.me.seenV } ∧
  SameScalar s.me t.me d ∧ t.me.sget d = if d = 0 then 0 else x

end Sys2Proof.Claim

namespace Sys2Proof.Claim

open Sys2Proof.Machine

/-! ## Vector words -/

/-- Where a hart stands after a vector word: an implied block of one word has ended, and the next queued block starts or the scalar
stream goes on; in a block the next word is four bytes on; without a block the word stood in the scalar stream (R112, R113). -/
def Advanced (g h : Hart) : Prop :=
  match g.blk with
  | none => h.pc = g.pc + 4 ∧ h.blk = none ∧ h.vq = g.vq
  | some b =>
    h.pc = g.pc ∧
    if b.implied then
      match g.vq with
      | c :: r => h.blk = some c ∧ h.vq = r
      | [] => h.blk = none ∧ h.vq = []
    else h.blk = some { b with pc := b.pc + 4, noted := 0, failed := none, wait := none } ∧ h.vq = g.vq

/-- The executing hart becomes `h` but for where it stands, a word further on; `velem` is 0 again (R370). -/
def VectorOn (t : State) (h : Hart) : Prop :=
  Advanced h t.me ∧ t.me = { h with pc := t.me.pc, blk := t.me.blk, vq := t.me.vq, velem := 0 }

/-- A scalar register that a vector word writes is the one that the words behind it read, in its own block, unless that is a
`VLOOP`, and in the blocks issued after it (R112, R115). -/
def fed (h : Hart) (r : SReg) (x : Word) : Hart :=
  match h.blk with
  | some b => { h with blk := some (if b.loop.isSome then b else b.feed r x), vq := h.vq.map (·.feed r x) }
  | none => h

/-- A vector word that touches nothing but the executing hart completes. -/
def VectorDone (o : Host.Outcome State Fault Refusal) (s : State) (h : State → Hart) : Prop :=
  ∃ t, o = .next t ∧ OnlyMe s t ∧ VectorOn t (h t)

/-- A group of container width `w` at register `r` fits the register file at the configuration in force, and `velem` does not ask
for a resumption under M15 (R107, R136, R370). -/
def Fits (h : Hart) (gs : List (VReg × Nat)) : Prop := h.velem.getLsbD 15 = false ∧ ∀ g, g ∈ gs → h.groupBad g.1 g.2 = false

/-- Element `j` is active: below VL, its bit set in the mask and in the fragment mask (R19, R116). -/
def Active (h : Hart) (mk : MReg) (j : Nat) : Prop := j < h.vl ∧ (h.mget mk).getLsbD j = true ∧ h.frag.getLsbD j = true

/-- The elements of the group at `vd` that `p` picks take the values `f` gives; every other element of the group and every register
outside it is as before. -/
def ElementsSet (g h : Hart) (vd : VReg) (w : Nat) (p : Nat → Prop) (f : Nat → Elem) : Prop :=
  (∀ j, p j → vd.toNat + w * j / 2048 < 32 → h.elem vd.toNat w j = f j) ∧
  (∀ j, ¬p j → vd.toNat + w * j / 2048 < 32 → h.elem vd.toNat w j = g.elem vd.toNat w j) ∧
  ∀ r, r < 32 → (∀ j, p j → r ≠ vd.toNat + w * j / 2048) → h.vget r = g.vget r

/-- `fmode` with the flags that the picked elements raise (R52). -/
def FlagsOf (g h : Hart) (p : Nat → Prop) (fl : Nat → FlagSet) : Prop :=
  ∀ k, h.fmode.getLsbD k = true ↔ g.fmode.getLsbD k = true ∨ (5 ≤ k ∧ k < 10 ∧ ∃ j, p j ∧ (fl j).getLsbD (k - 5) = true)

/-- The exception mask M12, M13 or M14 that a word names holds exactly the marked elements; every other mask is as before (R53). -/
def MarksOf (g h : Hart) (xm : BitVec 2) (p : Nat → Prop) : Prop :=
  ∀ r : MReg, if xm ≠ 0 ∧ r.toNat = 11 + xm.toNat then ∀ j, j < 256 → ((h.mget r).getLsbD j = true ↔ p j) else h.mget r = g.mget r

/-- An element marks the exception mask: it raised invalid, divide-by-zero or overflow, or it is a NaN none of whose value operands
was one (R53). -/
def Marked (f : Fmt) (r : Elem × FlagSet) (nanIn : Bool) : Prop :=
  r.2.getLsbD 0 = true ∨ r.2.getLsbD 1 = true ∨ r.2.getLsbD 2 = true ∨ (isNaNElem f r.1 = true ∧ nanIn = false)

/-- An element-wise form completes (R122): `res` gives the value, the flags and whether a value operand was NaN. -/
def Elementwise (o : Host.Outcome State Fault Refusal) (s : State) (vd : VReg) (mk : MReg) (xm : BitVec 2) (f : Fmt)
    (res : Nat → Elem × FlagSet) (nanIn : Nat → Bool) : Prop :=
  ∃ t, o = .next t ∧ OnlyMe s t ∧ VectorOn t { s.me with v := t.me.v, m := t.me.m, fmode := t.me.fmode } ∧
    ElementsSet s.me t.me vd f.width (Active s.me mk) (fun j => (res j).1) ∧
    FlagsOf s.me t.me (Active s.me mk) (fun j => (res j).2) ∧
    MarksOf s.me t.me xm (fun j => Active s.me mk j ∧ Marked f (res j) (nanIn j))

end Sys2Proof.Claim
end

