-- ==== Sys2Proof/Certificates/Slice0/Obligations.lean ====
section
/-! DEFINITION. The statements for the provers. -/

open Sys2Proof Sys2Proof.Machine Sys2Proof.Claim

/-! ## Scalar integer instructions (04_scalar) -/

/-- R91, R92: the value of each integer form, exactly computed and wrapped; `SHL`, `SHR` and `SRA` ignore
b[63:6]; `CLZ` and `CTZ` give the number of leading and trailing zero bits, 64 for 0, `POPC` the number of one bits; `ADDI` adds
the sign-extended immediate, `ANDI`, `ORI` and `XORI` use the zero-extended one, the immediate shifts take their amount from
the word. A quotient is rounded toward zero and a remainder has the sign of a; the borderline cases are those of R92, a zero
divisor sets `fmode.dz`, and nothing traps. The PC moves to the next word and nothing else changes.
It rests on the model's own choice of log 41. -/
def Obligations.IntegerForms : Prop :=
  ∀ (s : State) (d a b : SReg) (imm : BitVec 16) (sh : BitVec 6),
    let x := s.me.sget a
    let y := s.me.sget b
    let k := y.toNat % 64
    let done := fun (i : Instr) (v : Word) => ScalarDone (exec i s) s d v 0 (s.me.pc + 4)
    let quot := fun (i : Instr) (v : Word) => ScalarDone (exec i s) s d v (if y = 0 then 0b00010#5 else 0) (s.me.pc + 4)
    done (.add d a b) (BitVec.ofNat 64 (x.toNat + y.toNat)) ∧
    done (.sub d a b) (BitVec.ofInt 64 (x.toInt - y.toInt)) ∧
    done (.mul d a b) (BitVec.ofNat 64 (x.toNat * y.toNat)) ∧
    done (.mulh d a b) (BitVec.ofInt 64 (x.toInt * y.toInt / 2 ^ 64)) ∧
    done (.and d a b) (x &&& y) ∧ done (.or d a b) (x ||| y) ∧ done (.xor d a b) (x ^^^ y) ∧
    done (.shl d a b) (BitVec.ofNat 64 (x.toNat * 2 ^ k)) ∧
    done (.shr d a b) (BitVec.ofNat 64 (x.toNat / 2 ^ k)) ∧
    done (.sra d a b) (BitVec.ofInt 64 (x.toInt / 2 ^ k)) ∧
    done (.slt d a b) (bit (x.toInt < y.toInt)) ∧ done (.sltu d a b) (bit (x.toNat < y.toNat)) ∧
    done (.min d a b) (BitVec.ofInt 64 (min x.toInt y.toInt)) ∧ done (.minu d a b) (BitVec.ofNat 64 (min x.toNat y.toNat)) ∧
    done (.max d a b) (BitVec.ofInt 64 (max x.toInt y.toInt)) ∧ done (.maxu d a b) (BitVec.ofNat 64 (max x.toNat y.toNat)) ∧
    (∃ n, done (.clz d a) (BitVec.ofNat 64 n) ∧ n ≤ 64 ∧ (x = 0 → n = 64) ∧
      (∀ i, i < n → x.getLsbD (63 - i) = false) ∧ (x ≠ 0 → x.getLsbD (63 - n) = true)) ∧
    (∃ n, done (.ctz d a) (BitVec.ofNat 64 n) ∧ n ≤ 64 ∧ (x = 0 → n = 64) ∧
      (∀ i, i < n → x.getLsbD i = false) ∧ (x ≠ 0 → x.getLsbD n = true)) ∧
    done (.popc d a) (BitVec.ofNat 64 ((List.range 64).countP fun i => x.getLsbD i)) ∧
    done (.addi d a imm) (BitVec.ofInt 64 (x.toInt + imm.toInt)) ∧
    done (.andi d a imm) (BitVec.ofNat 64 (x.toNat &&& imm.toNat)) ∧
    done (.ori d a imm) (BitVec.ofNat 64 (x.toNat ||| imm.toNat)) ∧
    done (.xori d a imm) (BitVec.ofNat 64 (x.toNat ^^^ imm.toNat)) ∧
    done (.shli d a sh) (BitVec.ofNat 64 (x.toNat * 2 ^ sh.toNat)) ∧
    done (.shri d a sh) (BitVec.ofNat 64 (x.toNat / 2 ^ sh.toNat)) ∧
    done (.srai d a sh) (BitVec.ofInt 64 (x.toInt / 2 ^ sh.toNat)) ∧
    quot (.div d a b) (if y = 0 then -1 else if x.toInt = -2 ^ 63 ∧ y = -1 then BitVec.ofInt 64 (-2 ^ 63)
      else BitVec.ofInt 64 (x.toInt.tdiv y.toInt)) ∧
    quot (.divu d a b) (if y = 0 then BitVec.ofNat 64 (2 ^ 64 - 1) else BitVec.ofNat 64 (x.toNat / y.toNat)) ∧
    quot (.rem d a b) (if y = 0 then x else if x.toInt = -2 ^ 63 ∧ y = -1 then 0 else BitVec.ofInt 64 (x.toInt.tmod y.toInt)) ∧
    quot (.remu d a b) (if y = 0 then x else BitVec.ofNat 64 (x.toNat % y.toNat))

/-- R93: `LIH` replaces bits [16h + 15 : 16h] of the register with imm16 and keeps the other 48; `ADDPC` writes the address of
its own word plus 4 × sext(imm16, 64).
It rests on the model's own choice of log 41. -/
def Obligations.AddressFormation : Prop :=
  ∀ (s : State) (d : SReg) (imm : BitVec 16) (h : BitVec 2),
    (∃ v : Word, ScalarDone (exec (.lih d imm h) s) s d v 0 (s.me.pc + 4) ∧
      v.extractLsb' (16 * h.toNat) 16 = imm ∧
      ∀ i, i < 16 * h.toNat ∨ 16 * h.toNat + 16 ≤ i → v.getLsbD i = (s.me.sget d).getLsbD i) ∧
    ScalarDone (exec (.addpc d imm) s) s d (s.me.pc + BitVec.ofInt 64 (4 * imm.toInt)) 0 (s.me.pc + 4)

/-! ## Branches and jumps -/

/-- R97, R98: a true condition moves the PC to the branch word's own address plus 4 × sext(offset16, 64), a false one to the next
word; no branch writes a register or a flag. `JAL` links and goes to its 21-bit word offset; `JALR` reads S[sT] before it links,
so both may name one register. A `JALR` target whose bits [1:0] are not zero completes the `JALR`, its link included, and then
raises the instruction-alignment trap with `lepc` and `laddr` holding the target; R100 takes it in task mode.
It rests on the model's own choices of logs 27 and 41. -/
def Obligations.BranchesAndJumps : Prop :=
  ∀ (s : State) (a b : SReg) (off : BitVec 16) (far : BitVec 21),
    let x := s.me.sget a
    let y := s.me.sget b
    let target := s.me.pc + BitVec.ofInt 64 (4 * off.toInt)
    let goes := fun (i : Instr) (c : Prop) => (c → ScalarDone (exec i s) s 0 0 0 target) ∧ (¬c → ScalarDone (exec i s) s 0 0 0 (s.me.pc + 4))
    goes (.beq a b off) (x = y) ∧ goes (.bne a b off) (x ≠ y) ∧
    goes (.blt a b off) (x.toInt < y.toInt) ∧ goes (.bge a b off) (y.toInt ≤ x.toInt) ∧
    goes (.bltu a b off) (x.toNat < y.toNat) ∧ goes (.bgeu a b off) (y.toNat ≤ x.toNat) ∧
    ScalarDone (exec (.jal a far) s) s a (s.me.pc + 4) 0 (s.me.pc + BitVec.ofInt 64 (4 * far.toInt)) ∧
    (y.toNat % 4 = 0 → ScalarDone (exec (.jalr a b) s) s a (s.me.pc + 4) 0 y) ∧
    (y.toNat % 4 ≠ 0 → s.me.system = false →
      ∃ linked, ScalarDone (.next linked) s a (s.me.pc + 4) 0 y ∧ TrapTaken (exec (.jalr a b) s) linked 0x03 y y)

/-! ## Loads and stores -/

namespace Sys2Proof.Claim

/-- The effective address S[src1] + d (R94). -/
def address (s : State) (b : SReg) (off : BitVec 13) : Word := s.me.sget b + BitVec.ofInt 64 off.toInt

/-- The loads with their width in bytes and whether they sign-extend (R94). -/
def loadForms (d b : SReg) (off : BitVec 13) : List (Instr × Nat × Bool) :=
  [(.lb d b off, 1, true), (.lh d b off, 2, true), (.lw d b off, 4, true), (.ld d b off, 8, false),
   (.lbu d b off, 1, false), (.lhu d b off, 2, false), (.lwu d b off, 4, false)]

/-- The stores with their width in bytes (R94). -/
def storeForms (x b : SReg) (off : BitVec 13) : List (Instr × Nat) :=
  [(.sb x b off, 1), (.sh x b off, 2), (.sw x b off, 4), (.sd x b off, 8)]

/-- What the executing hart's scalar load of one byte returns in a state: its task's buffered byte, its own latest scalar store
to it that its view does not show yet, else the byte its view shows, which for host memory is that of Q0 (R96, R250, R349). -/
def loadByte (s : State) (a : Nat) : Byte :=
  match s.me.buffered a with
  | some b => b
  | none =>
    let r := viewOf (slotQuarter s.cur) a
    (ownByte s.writes s.cur r .scalar a).getD (s.viewByte r .h a)

/-- The bytes of a load as a register value. -/
def extend (signed : Bool) (n : Nat) (bs : List Byte) : Word :=
  if signed then BitVec.ofInt 64 (BitVec.ofNat (8 * n) (leNat bs)).toInt else BitVec.ofNat 64 (leNat bs)

end Sys2Proof.Claim

/-- R94 to R96: an aligned, permitted load of n bytes writes the bytes it reads, sign- or zero-extended, to S[dst]. `u` is the
state that the access finds once it is translated and gated, `v` that state with the writes applied that the load must follow
(it is `u` when none is pending). Beyond S[dst], the PC, `velem` and the hart's history nothing changes: every byte reads as in `v`. The hart's
later scalar accesses, those to host memory in the view of Q0 among them, follow the writes whose bytes it read (R250, R256).
It rests on the model's own choices of logs 22 and 41. -/
def Obligations.ScalarLoads : Prop :=
  ∀ (s : State) (d b : SReg) (off : BitVec 13) (i : Instr) (n : Nat) (signed : Bool), (i, n, signed) ∈ loadForms d b off →
    ∀ (u : State) (loc : Nat), (address s b off).toNat % n = 0 → s.access .scalar .load (address s b off) n = .ok u loc →
      let v := u.settleView u.me.seen (viewOf (slotQuarter u.cur) loc)
      (u.writes = [] → v = u) ∧
      ∃ t, exec i s = .next t ∧ OnlyMe v t ∧
        t.me = { u.me with s := t.me.s, pc := u.me.pc + 4, velem := velemAfter u.me, clock := t.me.clock, seen := t.me.seen, wait := none } ∧
        (∀ k, k < n → u.me.buffered (loc + k) = none → ownByte v.writes u.cur (viewOf (slotQuarter u.cur) (loc + k)) .scalar (loc + k) = none →
          Clock.le (v.byteClock (viewOf (slotQuarter u.cur) (loc + k)) .h (loc + k)) t.me.seen = true) ∧
        SameScalar u.me t.me d ∧
        t.me.sget d = if d = 0 then 0 else extend signed n ((List.range n).map fun k => loadByte v (loc + k))

/-- R94 to R96, R383: an aligned, permitted store of n bytes by a task that buffers nothing issues one write of the low n bytes of
S[dst], least significant first, at the n locations from where the address translates. `u` is the state that the access finds once
it is translated and gated, `v` that state with the d bit of the page set, which is `u` where the page is a window or known to be
dirty. No view shows the write yet; the hart's own later scalar loads return it (R96), and every other byte of memory reads as in
`v`, to the hart and in every view.
It rests on the model's own choices of logs 22 and 41. -/
def Obligations.ScalarStores : Prop :=
  ∀ (s : State) (x b : SReg) (off : BitVec 13) (i : Instr) (n : Nat), (i, n) ∈ storeForms x b off →
    ∀ (u : State) (loc : Nat), (address s b off).toNat % n = 0 → s.access .scalar .write (address s b off) n = .ok u loc →
      u.buffering u.cur = false →
      let v := dirtied u (address s b off)
      (KnownDirty u (address s b off) → v = u) ∧
      ∃ t w, exec i s = .next t ∧
        t = { v.setMe t.me with writes := v.writes ++ [w], issued := t.issued, slabForms := t.slabForms } ∧
        SameMemory v t ∧
        (∀ k, k < n → w.bytes[k]? = some (loc + k, BitVec.ofNat 8 ((s.me.sget x).toNat / 2 ^ (8 * k)))) ∧ w.bytes.length = n ∧
        w.path = .h ∧ w.cls = .scalar ∧ w.slot = some u.cur ∧ w.quarter = slotQuarter u.cur ∧ w.applied = 0 ∧
        t.me = { u.me with pc := u.me.pc + 4, velem := velemAfter u.me, clock := t.me.clock, wait := none } ∧
        (∀ k, k < n → u.me.buffered (loc + k) = none → loadByte t (loc + k) = BitVec.ofNat 8 ((s.me.sget x).toNat / 2 ^ (8 * k))) ∧
        (∀ a, a < loc ∨ loc + n ≤ a → loadByte t a = loadByte v a)

/-- R95, R101, R385, R100, R373: a misaligned scalar access takes the data-alignment trap with `laddr` the effective address, first
of all checks, and reads and writes nothing; in system mode it is a double trap. An aligned one whose translation fails takes,
in task mode, the load or store translation trap with `laddr` the effective address, and sends its fault record first unless
the reason is 4 or 6, in the place of one that its slot still has outstanding (log 40).
It rests on the model's own choices of logs 27 and 40. -/
def Obligations.ScalarAccessTraps : Prop :=
  ∀ (s : State) (d b : SReg) (off : BitVec 13) (i : Instr) (n : Nat) (k : Kind),
    ((k = .write ∧ (i, n) ∈ storeForms d b off) ∨ (k = .load ∧ ∃ signed, (i, n, signed) ∈ loadForms d b off)) →
    ((address s b off).toNat % n ≠ 0 →
      (s.me.system = false → TrapTaken (exec i s) s 0x04 s.me.pc (address s b off)) ∧
      (s.me.system = true → DoubleTrap (exec i s) s 0x04)) ∧
    ∀ f, (address s b off).toNat % n = 0 → s.access .scalar k (address s b off) n = .fail f → s.me.system = false →
      ∃ u : State, SameMemory s u ∧ u.me = { s.me with faultSeq := u.me.faultSeq } ∧
        (if f.reason = 4 ∨ f.reason = 6 then u = s
         else u = { s.setMe u.me with faults := u.faults, nextTicket := s.nextTicket + 1 } ∧
           ∃ r, u.faults = (s.faults.filter fun x => x.source != s.cur) ++ [r] ∧ r.ticket = s.nextTicket ∧ r.asid = s.me.asid ∧ r.source = s.cur ∧ r.reason = f.reason ∧
             r.access = (if k = .load then 0 else 1) ∧ r.va = address s b off ∧ r.where_ = s.me.pc) ∧
        TrapTaken (exec i s) u (if k = .load then 0x06 else 0x07) s.me.pc (address s b off)

/-! ## Scalar floating point -/

namespace Sys2Proof.Claim

/-- FP32 or FP64 by the precision bit (R63). -/
def floatFmt (prec : BitVec 1) : Fmt := if prec = 0 then .fp32 else .fp64

/-- What rounding reads: the code of the word, 0 for `fmode.rm`; `fmode.sat`; `fmode.nanp` (R43, R44, R58). -/
def rounding (rm : BitVec 3) (fmode : Word) : Env :=
  let m : BitVec 3 := if rm = 0 then BitVec.ofNat 3 (fmode.toNat % 4 + 1) else rm
  ⟨if m = 1 then .rne else if m = 2 then .rtz else if m = 3 then .rdn else if m = 4 then .rup else .rto,
   fmode.getLsbD 2, fmode.getLsbD 3⟩

/-- The bits of R30's fields of FP32 and FP64: the exponent is all ones, the fraction is zero, its top bit is set. -/
def expOnes (prec : BitVec 1) (x : Word) : Prop := if prec = 0 then x.extractLsb' 23 8 = 0xFF else x.extractLsb' 52 11 = 0x7FF
def fracZero (prec : BitVec 1) (x : Word) : Prop := if prec = 0 then x.extractLsb' 0 23 = 0 else x.extractLsb' 0 52 = 0
def fracTop (prec : BitVec 1) (x : Word) : Prop := if prec = 0 then x.getLsbD 22 = true else x.getLsbD 51 = true
def isNaNBits (prec : BitVec 1) (x : Word) : Prop := expOnes prec x ∧ ¬fracZero prec x
def isSignalBits (prec : BitVec 1) (x : Word) : Prop := isNaNBits prec x ∧ ¬fracTop prec x
def isInfBits (prec : BitVec 1) (x : Word) : Prop := expOnes prec x ∧ fracZero prec x
def signBit (prec : BitVec 1) (x : Word) : Bool := if prec = 0 then x.getLsbD 31 else x.getLsbD 63
def magZero (prec : BitVec 1) (x : Word) : Prop := if prec = 0 then x.extractLsb' 0 31 = 0 else x.extractLsb' 0 63 = 0

/-- The canonical NaN of R29. -/
def quietNaN (prec : BitVec 1) : Word := if prec = 0 then 0x7FC00000 else 0x7FF8000000000000

/-- A NaN operand with its quiet bit set, its sign and payload kept (R47). -/
def quieted (prec : BitVec 1) (x : Word) : Word := if prec = 0 then (x &&& 0xFFFFFFFF) ||| 0x400000 else x ||| 0x8000000000000

/-- The flag of R52 that invalid raises. -/
def invalid : FlagSet := 0b00001

end Sys2Proof.Claim

/-- R99: every floating form completes: it writes its result to S[dst] (`FMADD` and `FMSUB` to the addend's register), ors its
flags into `fmode`, and changes nothing else. The results are those of the arithmetic of R44 to R52 in the model's exact
fractions, under the rounding that R43, R44 and R58 name. `FCVT` converts between the formats of codes 3 to 8 (R50), an INT32
result sign-extended; a NaN converted to INT32 or INT64 gives 0 and invalid.
It rests on the model's own choices of logs 19, 41 and 54. -/
def Obligations.FloatForms : Prop :=
  ∀ (s : State) (d a b c : SReg) (rm : BitVec 3) (prec : BitVec 1),
    let f := floatFmt prec
    let e := rounding rm s.me.fmode
    let m := rounding 0 s.me.fmode
    let x := s.me.sget a
    let y := s.me.sget b
    let z := s.me.sget c
    let done := fun (i : Instr) (d : SReg) (r : Word × FlagSet) => ScalarDone (exec i s) s d r.1 r.2 (s.me.pc + 4)
    (rm.toNat ≤ 5 →
      done (.fadd d a b rm prec) d (fpArith .add f e x y) ∧ done (.fsub d a b rm prec) d (fpArith .sub f e x y) ∧
      done (.fmul d a b rm prec) d (fpArith .mul f e x y) ∧ done (.fdiv d a b rm prec) d (fpArith .div f e x y) ∧
      done (.fsqrt d a rm prec) d (fpSqrt f e x) ∧
      done (.fmadd a b c rm prec) a (fpFma f e false y z x) ∧ done (.fmsub a b c rm prec) a (fpFma f e true y z x)) ∧
    done (.fmin d a b prec) d (fpMinMax false f m x y) ∧ done (.fmax d a b prec) d (fpMinMax true f m x y) ∧
    ∀ (dst src : BitVec 4) (t g : Fmt),
      rm.toNat ≤ 5 → 3 ≤ dst.toNat → dst.toNat ≤ 8 → 3 ≤ src.toNat → src.toNat ≤ 8 → Fmt.ofCode dst = some t → Fmt.ofCode src = some g →
        let r := convert g t e (BitVec.ofNat 64 (x.toNat % 2 ^ g.width))
        done (.fcvt d a rm dst src) d (if t = .int32 then BitVec.ofInt 64 (BitVec.ofNat 32 r.1.toNat).toInt else r.1, r.2) ∧
        (src = 7 → isNaNBits 0 x → dst.toNat ≤ 4 → done (.fcvt d a rm dst src) d (0, invalid))

/-- R46, R47, R30, R99: a NaN operand of a two-operand or square-root form gives NaN, the canonical one while `fmode.nanp` is 0 and the
first NaN operand with its quiet bit set while it is 1, and invalid only for a signalling NaN; ∞ − ∞, 0 × ∞, 0 ÷ 0, ∞ ÷ ∞ and the root of a number below −0 give the canonical NaN and
invalid. `FNEG` and `FABS` invert or clear the sign bit, of a NaN too, and raise nothing; `FEQ`, `FLT` and `FLE` give 0 for a NaN, with
invalid for a signalling NaN and, of `FLT` and `FLE`, for every NaN; else the truth of the comparison of the exact values, −0
equal to +0, infinities ordered as numbers.
It rests on the model's own choice of log 41. -/
def Obligations.FloatSpecialCases : Prop :=
  ∀ (s : State) (d a b : SReg) (rm : BitVec 3) (prec : BitVec 1),
    let w := if prec = 0 then 32 else 64
    let x := s.me.sget a
    let y := s.me.sget b
    let p := decodeNum (floatFmt prec) x
    let q := decodeNum (floatFmt prec) y
    let done := fun (i : Instr) (v : Word) (fl : FlagSet) => ScalarDone (exec i s) s d v fl (s.me.pc + 4)
    let nan := isNaNBits prec x ∨ isNaNBits prec y
    let loud := isSignalBits prec x ∨ isSignalBits prec y
    (∀ i, i ∈ [Instr.fadd d a b rm prec, .fsub d a b rm prec, .fmul d a b rm prec, .fdiv d a b rm prec, .fmin d a b prec, .fmax d a b prec] →
      nan → ∃ v, (s.me.fmode.getLsbD 3 = false → v = quietNaN prec) ∧
        (s.me.fmode.getLsbD 3 = true → (isNaNBits prec x → v = quieted prec x) ∧ (¬isNaNBits prec x → v = quieted prec y)) ∧
        (loud → done i v invalid) ∧ (¬loud → done i v 0)) ∧
    (isNaNBits prec x →
      let v := if s.me.fmode.getLsbD 3 then quieted prec x else quietNaN prec
      (isSignalBits prec x → done (.fsqrt d a rm prec) v invalid) ∧ (¬isSignalBits prec x → done (.fsqrt d a rm prec) v 0)) ∧
    (isInfBits prec x → isInfBits prec y →
      (signBit prec x ≠ signBit prec y → done (.fadd d a b rm prec) (quietNaN prec) invalid) ∧
      (signBit prec x = signBit prec y → done (.fsub d a b rm prec) (quietNaN prec) invalid) ∧
      done (.fdiv d a b rm prec) (quietNaN prec) invalid) ∧
    (isInfBits prec x → magZero prec y → done (.fmul d a b rm prec) (quietNaN prec) invalid) ∧
    (magZero prec x → isInfBits prec y → done (.fmul d a b rm prec) (quietNaN prec) invalid) ∧
    (magZero prec x → magZero prec y → done (.fdiv d a b rm prec) (quietNaN prec) invalid) ∧
    (¬isNaNBits prec x → ¬magZero prec x → signBit prec x = true → done (.fsqrt d a rm prec) (quietNaN prec) invalid) ∧
    (∃ v, done (.fneg d a prec) v 0 ∧ ∀ k, v.getLsbD k = if k = w - 1 then !x.getLsbD k else decide (k < w) && x.getLsbD k) ∧
    (∃ v, done (.fabs d a prec) v 0 ∧ ∀ k, v.getLsbD k = (decide (k < w - 1) && x.getLsbD k)) ∧
    (loud → done (.feq d a b prec) 0 invalid) ∧ (nan → ¬loud → done (.feq d a b prec) 0 0) ∧
    (nan → done (.flt d a b prec) 0 invalid ∧ done (.fle d a b prec) 0 invalid) ∧
    (¬nan → ¬isInfBits prec x → ¬isInfBits prec y →
      done (.feq d a b prec) (bit (p.q.num * q.q.den = q.q.num * p.q.den)) 0 ∧
      done (.flt d a b prec) (bit (p.q.num * q.q.den < q.q.num * p.q.den)) 0 ∧
      done (.fle d a b prec) (bit (p.q.num * q.q.den ≤ q.q.num * p.q.den)) 0) ∧
    (¬nan → isInfBits prec x → ¬isInfBits prec y →
      done (.feq d a b prec) 0 0 ∧ done (.flt d a b prec) (bit (signBit prec x = true)) 0 ∧ done (.fle d a b prec) (bit (signBit prec x = true)) 0) ∧
    (¬nan → ¬isInfBits prec x → isInfBits prec y →
      done (.feq d a b prec) 0 0 ∧ done (.flt d a b prec) (bit (signBit prec y = false)) 0 ∧ done (.fle d a b prec) (bit (signBit prec y = false)) 0) ∧
    (¬nan → isInfBits prec x → isInfBits prec y →
      done (.feq d a b prec) (bit (signBit prec x = signBit prec y)) 0 ∧
      done (.flt d a b prec) (bit (signBit prec x = true ∧ signBit prec y = false)) 0 ∧
      done (.fle d a b prec) (bit (signBit prec x = true ∨ signBit prec y = false)) 0)

/-! ## Control registers and system instructions -/

namespace Sys2Proof.Claim

/-- What the registers of R86 read as whose value the state holds plainly. -/
def crValues (s : State) : List (BitVec 12 × Word) :=
  let h := s.me
  [(0x000, h.fmode), (0x001, h.vcfg), (0x002, h.vlgrant), (0x003, BitVec.ofNat 64 (s.core (s.cur / 4)).lanes), (0x004, h.velem), (0x005, 256),
   (0x010, BitVec.ofNat 64 s.cur), (0x011, h.grpcoord), (0x012, h.seniority), (0x013, BitVec.ofNat 64 h.asid),
   (0x100, h.lcause), (0x101, h.lepc), (0x102, h.lvelem), (0x103, h.laddr),
   (0x104, BitVec.ofNat 64 ((if h.system then 1 else 0) + if h.vrs.isSome then 2 else 0)), (0x105, h.ltvec), (0x106, h.lhold)]

/-- The hart after a write of `x` to control register `n`: its RW fields take `x`, the ST fields of `fmode` keep a 1 only where
`x` has one, RO and RES fields keep their value (R86, R88). -/
def crAfter (h : Hart) (lanes : Nat) (n : BitVec 12) (x : Word) : Hart :=
  if n = 0x000 then { h with fmode := (x &&& 0x1F) ||| (h.fmode &&& x &&& 0x3E0) }
  else if n = 0x001 then
    { h with
      vcfg := x &&& 0x1FFF
      vlgrant := BitVec.ofNat 64 (min (min h.vlgrant.toNat (cfgVlmax (x &&& 0x1FFF))) (capElems lanes (x &&& 0x1FFF))) }
  else if n = 0x100 then { h with lcause := x &&& 0x1FF }
  else if n = 0x101 then { h with lepc := x }
  else if n = 0x102 then { h with lvelem := x &&& 0xFFFF }
  else if n = 0x103 then { h with laddr := x }
  else if n = 0x105 then { h with ltvec := BitVec.ofNat 64 (x.toNat / 2048 * 2048) }
  else if n = 0x106 then { h with lhold := x }
  else h

end Sys2Proof.Claim

/-- R86, R88: `CRR` reads the register into S[dst]; `CRW`, `CRS` and `CRC` write S[src1], old or S[src1], old and not S[src1]; `old`
is read first and goes to S[dst]; RO and RES fields keep their value; in task mode a write to `velem` changes nothing. A write
that would give `vcfg` format 15 or a K length above 64 takes the illegal-instruction trap and leaves `vcfg` (R26).
It rests on the model's own choice of log 41. -/
def Obligations.ControlRegisters : Prop :=
  ∀ (s : State) (d a : SReg) (n : BitVec 12),
    ((n.toNat < 0x100 ∨ s.me.system = true) →
      ScalarDone (exec (.crr d n) s) s d (s.crRead n) 0 (s.me.pc + 4) ∧ ∀ v, (n, v) ∈ crValues s → s.crRead n = v) ∧
    ∀ (i : Instr) (x : Word),
      (i, x) ∈ [(Instr.crw d a n, s.me.sget a), (.crs d a n, s.crRead n ||| s.me.sget a), (.crc d a n, s.crRead n &&& ~~~s.me.sget a)] →
      let bad := n = 0x001 ∧ (x.extractLsb' 0 4 = 15 ∨ 64 < (x.extractLsb' 6 7).toNat)
      ((n.toNat < 0x100 ∨ s.me.system = true) → ¬bad →
        ∃ t, exec i s = .next t ∧ OnlyMe s t ∧
          t.me = { crAfter s.me (s.core (s.cur / 4)).lanes n x with
            s := t.me.s
            pc := s.me.pc + 4
            velem := if n = 0x004 ∧ s.me.system = true then x &&& 0xFFFF else velemAfter s.me
            wait := none } ∧
          SameScalar s.me t.me d ∧ t.me.sget d = if d = 0 then 0 else s.crRead n) ∧
      (bad → s.me.system = false → ∃ w, encode i = some w ∧ TrapTaken (exec i s) s 0x01 s.me.pc (BitVec.ofNat 64 w.toNat))

/-- R85, R88, R102, R361, R387: in task mode an access to a register 0x100 to 0x106, `RETT`, `SAVEPIN` and `ASINV` take the
privilege trap, with `laddr` the word, and change nothing else. -/
def Sys2Proof.Claim.PrivilegeTraps : Prop :=
  ∀ (s : State) (d a : SReg) (n : BitVec 12) (i : Instr) (w : IWord), s.me.system = false → encode i = some w →
    ((0x100 ≤ n.toNat ∧ i ∈ [Instr.crr d n, .crw d a n, .crs d a n, .crc d a n]) ∨ i ∈ [Instr.rett, .savepin d a, .asinv d a]) →
      TrapTaken (exec i s) s 0x02 s.me.pc (BitVec.ofNat 64 w.toNat)

/-- R102: in task mode `RETT` takes the privilege trap, with `laddr` the word. In system mode it goes on at `lepc` in task mode with
`velem` = `lvelem`, S29 and `lhold` exchanged back; with `lcause.vec` set and a vector resume state held, the trapped block resumes
at `lepc`, its queue behind it, and the scalar stream at its resume point; otherwise the vector resume state is discarded (R369). -/
def Obligations.ReturnFromTrap : Prop :=
  ∀ (s : State),
    (s.me.system = false → ∀ w : IWord, encode .rett = some w → TrapTaken (exec .rett s) s 0x02 s.me.pc (BitVec.ofNat 64 w.toNat)) ∧
    (s.me.system = true →
      ∃ t, exec .rett s = .next t ∧ OnlyMe s t ∧ SameScalar s.me t.me 29 ∧ t.me.sget 29 = s.me.lhold ∧
        let base := { s.me with
          s := t.me.s
          lhold := s.me.sget 29
          pc := s.me.lepc
          velem := s.me.lvelem
          system := false
          vrs := none
          wait := none }
        t.me = match s.me.lcause.getLsbD 8, s.me.vrs with
          | true, some r => { base with pc := r.resume, blk := some (if r.trapped.pc = s.me.lepc then r.trapped else r.trapped.goto s.me.lepc), vq := r.queued }
          | _, _ => base)

/-- R103, R101: `TRAP` takes the software trap in task mode, with `lepc` the next word's address and `laddr` the code; code 0x8000
ends the task, whose commit begins there (R350). In system mode it is a double trap: the hart freezes with its state intact and
the host receives the record (R100, R373).
It rests on the model's own choice of log 27. -/
def Sys2Proof.Claim.SoftwareTrap : Prop :=
  ∀ (s : State) (code : BitVec 16),
    (s.me.system = true → DoubleTrap (exec (.trap code) s) s 0x10) ∧
    (s.me.system = false → code ≠ 0x8000 → TrapTaken (exec (.trap code) s) s 0x10 (s.me.pc + 4) (BitVec.ofNat 64 code.toNat)) ∧
    (s.me.system = false → code = 0x8000 → TrapTaken (exec (.trap code) s) (s.setMe { s.me with task := { s.me.task with committing := true } }) 0x10
      (s.me.pc + 4) (BitVec.ofNat 64 0x8000))

/-- R85, R88, R100 to R103, R361, R373, R387: the privilege trap and the software trap, taken in task mode; in system mode the latter is a
double trap.
It rests on the model's own choice of log 27. -/
def Obligations.TrapsTaken : Prop := PrivilegeTraps ∧ SoftwareTrap

/-- R104, R393: `IDLE` and `RCWAIT` park the hart, until the end of the recess in progress or of the next one; they change no
register, and a parked one stays as it is. `NOP` and `HINT` only go on, in the scalar stream and in a vector block (R80, R105).
`TIMETBL` writes the map of the timetable (R392): cycles, within 16 as the core's clock sees them (R389), until the next recess starts
or the one in progress has its published end, 0 once that has passed; its class, whether it is in progress, whether
engines drain, its number; the reserved bits are zero.
It rests on the model's own choices of logs 8 and 41. -/
def Obligations.WaitsAndTimetable : Prop :=
  ∀ (s : State) (d : SReg) (hint : BitVec 26),
    let until_ := match s.recess.start with
      | some t => t + [12000, 36000, 120000].getD s.recess.cls 120000 - s.beacon
      | none => (s.recess.number + 1) * 2 ^ 23 - s.beacon
    (exec .idle s = .next (match s.me.wait with
      | some ⟨.idle _ _, _, _, _⟩ => s
      | _ => s.setMe { s.me with wait := some ⟨.idle s.recess.number s.beacon, .idle, [], 0⟩ })) ∧
    (exec .rcwait s = .next (match s.me.wait with
      | some ⟨.recessEnd _, _, _, _⟩ => s
      | _ => s.setMe { s.me with wait := some ⟨.recessEnd s.recess.number, .rcwait, [], 0⟩ })) ∧
    (∀ i, i ∈ [Instr.nop, .hint hint] →
      (s.me.blk = none → HartDone (exec i s) s s.me) ∧ (s.me.blk ≠ none → VectorDone (exec i s) s fun _ => s.me)) ∧
    ∃ (v : Word) (seen : Nat), ScalarDone (exec (.timetbl d) s) s d v 0 (s.me.pc + 4) ∧
      (if s.recess.start.isSome = true ∧ until_ = 0 then seen = 0 else seen ≤ until_ + 16 ∧ until_ ≤ seen + 16) ∧
      v.extractLsb' 0 32 = BitVec.ofNat 32 seen ∧ v.extractLsb' 32 2 = BitVec.ofNat 2 s.recess.cls ∧
      v.getLsbD 34 = s.recess.start.isSome ∧ v.getLsbD 35 = (s.recess.start.isNone && decide (seen ≤ 2048)) ∧
      v.extractLsb' 36 4 = 0 ∧ v.extractLsb' 40 16 = BitVec.ofNat 16 s.recess.number ∧ v.extractLsb' 56 8 = 0

/-! ## Fences and watermarks (13_ordering) -/

namespace Sys2Proof.Claim

/-- The scoped fences with the views they wait for (R257). -/
def fenceForms (s : State) : List (Instr × List Nat) :=
  let own := slotQuarter s.cur
  [(.fenceHart, []), (.fenceCore, [own]), (.fenceCluster, [own]), (.fenceQuarter, [own]), (.fenceDevice, [0, 1, 2, 3]), (.fenceSystem, [0, 1, 2, 3])]

end Sys2Proof.Claim

/-- R257, R258, R261, R263: outside a recess every fence completes: it moves the hart on and changes no register, no other hart and
nothing issued. Where the hart's history holds one write that is still to be applied and may be applied now, a scoped fence
applies it in each view of its scope and in no other; `FENCE.HART`, `FENCE.SV` and `FENCE.VS` wait for no visibility: memory reads
as before. `FENCE.SV` puts the hart's earlier scalar stores before its later vector accesses and `FENCE.VS` its earlier vector
stores before its later scalar accesses: a later load of the other class returns the latest of them. After `FENCEP` all four
views show such a write, made on path p or q, on both paths: the crossing is safe.
It rests on the model's own choices of logs 11, 22 and 41. -/
def Obligations.Fences : Prop :=
  ∀ (s : State) (p q : BitVec 3), s.recess.start = none →
    let own := slotQuarter s.cur
    let completes := fun (i : Instr) (f : State → Prop) => ∃ t, exec i s = .next t ∧ MovesOn s t 0 0 id ∧ SameOthers s t ∧ t.issued = s.issued ∧ f t
    (∀ i rs, (i, rs) ∈ fenceForms s → completes i fun t => (rs = [] → SameMemory s t) ∧
      ∀ w, s.writes = [w] → w.seq ≤ s.me.clock.get w.quarter → (∀ r, r ∈ rs → s.canApply w r w.path = true) →
        ∀ r, r < 4 → t.view r w.path = if r ∈ rs then (s.view r w.path).apply w else s.view r w.path) ∧
    (∀ i from_ into, (i, from_, into) ∈ [(Instr.fenceSv, Cls.scalar, Cls.vector), (.fenceVs, .vector, .scalar)] →
      completes i fun t => SameMemory s t ∧
        ∀ w a b, s.writes = [w] → w.slot = some s.cur → w.path = .h → w.shown own .h = false → w.cls = from_ →
          w.bytes.find? (fun c => c.1 == a) = some (a, b) → ownByte t.writes t.cur own into a = some b) ∧
    (p.toNat < q.toNat → q.toNat ≤ 4 → completes (.fencep p q) fun t =>
      ∀ w, s.writes = [w] → w.seq ≤ s.me.clock.get w.quarter → w.applied = 0 → (∀ r, r < 4 → s.canApply w r w.path = true) →
        w.path ∈ [Path.ofIndex p.toNat, Path.ofIndex q.toNat] →
          ∀ r, r < 4 → ∀ pt, pt ∈ [Path.ofIndex p.toNat, Path.ofIndex q.toNat] → t.view r pt = (s.view r pt).apply w)

/-- R267: outside a recess `WMSET` of a task that buffers nothing and that no guard window holds raises W[N] to the value of
S[src1], and never lowers it; the other watermarks, what their readers follow, and the registers keep their values. With a locket held and the task not
irrevocable it takes the irrevocable-action trap.
It rests on the model's own choices of logs 11 and 41. -/
def Obligations.WatermarkSet : Prop :=
  ∀ (s : State) (n : BitVec 3) (a : SReg),
    (s.recess.start = none → s.buffering s.cur = false → (n = 0 → s.guardHolds (s.me.sget a).toNat = false) →
      ∃ t, exec (.wmset n a) s = .next t ∧ SameOthers s t ∧
        MovesOn s t 0 0 (fun h => { h with w := t.me.w, wclk := t.me.wclk }) ∧
        (∀ k, k < 8 → (t.me.w.getD k 0).toNat =
          if k = n.toNat then max (s.me.w.getD k 0).toNat (s.me.sget a).toNat else (s.me.w.getD k 0).toNat) ∧
        ∀ k, k ≠ n.toNat → t.me.wclk.getD k Clock.zero = s.me.wclk.getD k Clock.zero) ∧
    (s.buffering s.cur = true → s.me.system = false → ∃ w, encode (.wmset n a) = some w ∧
      TrapTaken (exec (.wmset n a) s) s 0x12 s.me.pc (BitVec.ofNat 64 w.toNat))

/-! ## Save areas, invalidation, probes (20_context, 21_page) -/

/-- R361, R382: in system mode `SAVEPIN` completes with S[sL] = 0, leaving the member without a save area and dropping a pin of each
page of the one it had. It completes with an acceptable
range that shares no byte with another member's area and whose pages are all at hand, in state 0 or 3 with bit w: it changes no
memory, pins each page once more and registers S[sB], and then drops the pins of an area registered before. So it does for pages that
pin once they are walked. It changes no register. In the order of its checks, a base that is
not a multiple of 4096 takes the data-alignment trap and a length below 0x3F000 the save-area trap, each of which freezes the
hart there (R100).
It rests on the model's own choices of logs 24, 27 and 41. -/
def Obligations.SaveArea : Prop :=
  ∀ (s : State) (b l : SReg), s.me.system = true →
    let dropped := fun (u : State) => match s.me.saveArea with
      | some a => (u.areaPages (slotQuarter s.cur) s.me.asid a).foldl (fun ps tr => dropPin ps s.me.asid tr.base) u.pins
      | none => u.pins
    let pinned := fun (u : State) => { u with pins := (u.areaPages (slotQuarter s.cur) s.me.asid (s.me.sget b)).foldl addPin u.pins }
    (s.me.sget l = 0 → ∃ t, exec (.savepin b l) s = .next t ∧ t = { s.setMe t.me with pins := dropped s } ∧ SameMemory s t ∧
      MovesOn s t 0 0 (fun h => { h with saveArea := none })) ∧
    (s.me.wait = none → s.me.blk = none → 0x3F000 ≤ (s.me.sget l).toNat → (s.me.sget b).toNat % 4096 = 0 →
      (∀ a, a ∈ s.otherAreas s.me.asid → (s.me.sget b).toNat + 0x3F000 ≤ a.toNat ∨ a.toNat + 0x3F000 ≤ (s.me.sget b).toNat) →
      (∀ k, k < 0x3F → ∃ tr,
        let va := s.me.sget b + BitVec.ofNat 64 (4096 * k)
        canonical va = true ∧ inWindow va = false ∧ s.cached (slotQuarter s.cur) s.me.asid va = some tr ∧
          tr.leaf.extractLsb' 5 3 ∈ [0#3, 3#3] ∧ tr.leaf.getLsbD 3 = true) →
        ∃ t, exec (.savepin b l) s = .next t ∧ t = { s.setMe t.me with pins := dropped (pinned s) } ∧ SameMemory s t ∧
          MovesOn s t 0 0 (fun h => { h with saveArea := some (s.me.sget b) })) ∧
    (∀ u, 0x3F000 ≤ (s.me.sget l).toNat → (s.me.sget b).toNat % 4096 = 0 →
      (∀ a, a ∈ s.otherAreas s.me.asid → (s.me.sget b).toNat + 0x3F000 ≤ a.toNat ∨ a.toNat + 0x3F000 ≤ (s.me.sget b).toNat) →
      s.translateAll .pin (pagesOf (s.me.sget b) 0x3F000) = .ok u →
        ∃ t, exec (.savepin b l) s = .next t ∧ t = { u.setMe t.me with pins := dropped (pinned u) } ∧ SameMemory u t ∧
          MovesOn u t 0 0 (fun h => { h with saveArea := some (s.me.sget b) })) ∧
    (s.me.sget l ≠ 0 → (s.me.sget b).toNat % 4096 ≠ 0 → DoubleTrap (exec (.savepin b l) s) s 0x04) ∧
    (s.me.sget l ≠ 0 → (s.me.sget b).toNat % 4096 = 0 → (s.me.sget l).toNat < 0x3F000 → DoubleTrap (exec (.savepin b l) s) s 0x1B)

/-- R387, R388: in system mode and outside a recess `ASINV` drops every cached translation in its scope in every quarter: all with bit
13, one ASID with bit 12, else the page of the ASID that holds S[sV]; it keeps the others, and pinned pages stay. Stated for a hart
that need not wait for a word which still keeps such a translation. `PGPROBE` of
an address that is not canonical, lies in a window or is mapped by a pinned or cached leaf completes at once in both modes:
S[dst] receives reason 4 or 6, or the leaf's map, whose frame only system mode sees; it changes nothing else.
It rests on the model's own choices of logs 23 and 41. -/
def Obligations.TranslationForms : Prop :=
  ∀ (s : State) (d a v : SReg),
    let x := s.me.sget a
    let asid := x.toNat % 4096
    let window := decide (0x00FFFE0000000000 ≤ x.toNat ∧ x.toNat < 0x0100000000000000)
    (s.me.system = true → s.recess.start = none → s.keepsInScope x (s.me.sget v) = false →
      ∃ t, exec (.asinv a v) s = .next t ∧ MovesOn s t 0 0 id ∧ SameOthers s t ∧ t.pins = s.pins ∧
        ∀ q e, e ∈ t.tlbs.get [] q ↔ e ∈ s.tlbs.get [] q ∧
          if x.getLsbD 13 then False
          else if x.getLsbD 12 then e.asid ≠ asid
          else ¬(canonical (s.me.sget v) = true ∧ e.covers asid (s.me.sget v) = true)) ∧
    (canonical x = false → ScalarDone (exec (.pgprobe d a) s) s d 0x400 0 (s.me.pc + 4)) ∧
    (canonical x = true → window = true → ScalarDone (exec (.pgprobe d a) s) s d 0x600 0 (s.me.pc + 4)) ∧
    ∀ tr, canonical x = true → window = false → s.cached (slotQuarter s.cur) s.me.asid x = some tr →
      ∃ v, ScalarDone (exec (.pgprobe d a) s) s d v 0 (s.me.pc + 4) ∧
        v.getLsbD 0 = true ∧ v.getLsbD 1 = tr.leaf.getLsbD 2 ∧ v.getLsbD 2 = tr.leaf.getLsbD 3 ∧ v.getLsbD 3 = tr.leaf.getLsbD 4 ∧
        v.extractLsb' 4 3 = tr.leaf.extractLsb' 5 3 ∧
        v.getLsbD 7 = s.pins.any (fun p => p.trans.covers s.me.asid x && decide (0 < p.count)) ∧
        v.extractLsb' 8 4 = tr.leaf.extractLsb' 48 4 ∧
        v.extractLsb' 12 36 = (if s.me.system then tr.leaf.extractLsb' 12 36 else 0) ∧ v.extractLsb' 48 16 = 0

/-! ## Atomics, barriers, slates, lockets (17_barrier, 19_locket) -/

namespace Sys2Proof.Claim

/-- The scalar atomics with the value each writes for the old value of memory, S[d] and S[src2]; none where it writes nothing
(R326). -/
def atomicForms (d a b : SReg) (aq rl : BitVec 1) : List (Instr × (Word → Word → Word → Option Word)) :=
  [(.amoAdd d a b aq rl, fun old _ x => some (old + x)),
   (.amoMin d a b aq rl, fun old _ x => some (if x.toInt < old.toInt then x else old)),
   (.amoMax d a b aq rl, fun old _ x => some (if old.toInt < x.toInt then x else old)),
   (.amoAnd d a b aq rl, fun old _ x => some (old &&& x)), (.amoOr d a b aq rl, fun old _ x => some (old ||| x)),
   (.amoXor d a b aq rl, fun old _ x => some (old ^^^ x)), (.amoSwap d a b aq rl, fun _ _ x => some x),
   (.cas d a b aq rl, fun old c x => if old = c then some x else none)]

end Sys2Proof.Claim

/-- R326, R260: an aligned, permitted scalar atomic of a task that buffers nothing reads the 8 bytes at the home and writes the new
value there as one step; S[dst] receives the old value; a `CAS` whose comparison fails writes nothing. Every other byte reads as
before, everywhere, but that a write sets the d bit of its page first (R383). `u` is the state the access finds; nothing is
outstanding at the home.
It rests on the model's own choices of logs 11 and 41. -/
def Obligations.ScalarAtomics : Prop :=
  ∀ (s : State) (d a b : SReg) (aq rl : BitVec 1) (i : Instr) (f : Word → Word → Word → Option Word), (i, f) ∈ atomicForms d a b aq rl →
    ∀ (u : State) (loc : Nat), (s.me.sget a).toNat % 8 = 0 → s.access .scalar .atomic (s.me.sget a) 8 = .ok u loc →
      u.buffering u.cur = false → QuietHome u (homeOf loc) →
      let old := BitVec.ofNat 64 (u.viewNat (homeOf loc) .h loc 8)
      ∃ t, exec i s = .next t ∧ SameOthers u t ∧ MovesOn u t d old id ∧
        match f old (s.me.sget d) (s.me.sget b) with
        | some x => HomeBytes (dirtied u (s.me.sget a)) t (homeOf loc) loc 8 x.toNat
        | none => SameMemory u t

/-- R323, R320, R322: `BINIT` with 1 ≤ E < 2^32 opens the barrier: its 32 bytes at the home hold E, A = 0, phase 0, state 1 and the
hart's group, zero elsewhere; every hart parked on it, a frozen one apart, goes on with status 1. No slot is listed twice. That a touch of this access has
acquired a locket changes nothing of it (log 42).
It rests on the model's own choices of logs 11 and 41. -/
def Sys2Proof.Claim.BarrierInit : Prop :=
  ∀ (s : State) (a n : SReg) (u : State) (loc : Nat),
    let e := (s.me.sget n).toNat
    s.buffering s.cur = false → (s.me.sget a).toNat % 32 = 0 → s.access .scalar .write (s.me.sget a) 32 = .ok u loc →
    QuietHome u (homeOf loc) → u.me.wait = none → u.keysOk → 1 ≤ e → e < 2 ^ 32 →
      ∃ t, exec (.binit a n) s = .next t ∧ MovesOn u t 0 0 id ∧
        HomeBytes (dirtied u (s.me.sget a)) t (homeOf loc) loc 32 (e + 2 ^ 96 + (match u.me.member with | some id => id.group | none => 0) * 2 ^ 128) ∧
        ∀ k, k ≠ u.cur →
          match (u.hart k).wait with
          | some ⟨.barrier l d, _, _, _⟩ =>
            if l = loc ∧ (u.hart k).run = .running then (t.hart k).wait = none ∧ (t.hart k).pc = (u.hart k).pc + 4 ∧ (t.hart k).sget d = if d = 0 then 0 else 1
            else t.hart k = u.hart k
          | _ => t.hart k = u.hart k

/-- R322, R323: `BARRIVE` on an open barrier whose group has not failed records the arrival with the phase it read; k arrivals (the
set mask bits below VL) add to A, or, completing the phase, set A to 0 and release the waiters with status 0; with k = 0 only the
arrival record changes; more than E break the barrier and release the waiters with status 1.
It rests on the model's own choices of logs 11 and 41. -/
def Sys2Proof.Claim.BarrierArrive : Prop :=
  ∀ (s : State) (a : SReg) (mk : MReg) (u : State) (loc : Nat),
    let q := homeOf loc
    let b := Bar.of (u.viewNat q .h loc 32)
    let v := dirtied u (s.me.sget a)
    let k := (List.range (u.me.vlgrant.toNat % 512)).countP fun j => (u.me.mget mk).getLsbD j
    s.buffering s.cur = false → (s.me.sget a).toNat % 32 = 0 → s.access .scalar .atomic (s.me.sget a) 32 = .ok u loc →
    QuietHome u q → u.me.wait = none → u.keysOk → b.state = 1 → b.clean = true → (∀ g, u.group? b.group = some g → g.state ≠ .failed) →
      ∃ t, exec (.barrive a mk) s = .next t ∧
        MovesOn u t 0 0 (fun h => { h with arrival := ⟨s.me.sget a, BitVec.ofNat 32 b.phase, true⟩ }) ∧
        (k = 0 → SameMemory v t) ∧
        (k ≠ 0 → b.arrived + k < b.expected → HomeBytes v t q loc 32 { b with arrived := b.arrived + k }.toNat) ∧
        (k ≠ 0 → b.arrived + k = b.expected → HomeBytes v t q loc 32 { b with arrived := 0, phase := (b.phase + 1) % 2 ^ 32 }.toNat) ∧
        (k ≠ 0 → b.expected < b.arrived + k → HomeBytes v t q loc 32 { b with state := 2 }.toNat) ∧
        ∀ j, j ≠ u.cur →
          match (u.hart j).wait with
          | some ⟨.barrier l d, _, _, _⟩ =>
            if l = loc ∧ (u.hart j).run = .running ∧ k ≠ 0 ∧ b.expected ≤ b.arrived + k then
              (t.hart j).wait = none ∧ (t.hart j).pc = (u.hart j).pc + 4 ∧
                (t.hart j).sget d = if d = 0 then 0 else if b.arrived + k = b.expected then 0 else 1
            else t.hart j = u.hart j
          | _ => t.hart j = u.hart j

/-- R323, R322: `BWAIT` answers 3 on bytes that are no initialised barrier, 1 on a broken one, 2 without an arrival there, 0 once the
phase has moved on; on an open barrier still in the recorded phase the hart parks.
It rests on the model's own choices of logs 11 and 41. -/
def Sys2Proof.Claim.BarrierWait : Prop :=
  ∀ (s : State) (d a : SReg) (u : State) (loc : Nat),
    let va := s.me.sget a
    let q := homeOf loc
    let b := Bar.of (u.viewNat q .h loc 32)
    let open_ := (b.state = 1 ∨ b.state = 2) ∧ b.clean = true
    s.buffering s.cur = false → va.toNat % 32 = 0 → s.access .scalar .load va 32 = .ok u loc → QuietHome u q → u.me.wait = none →
    (∀ g, u.group? b.group = some g → g.state ≠ .failed) →
      let answers := fun (x : Word) => ∃ t, exec (.bwait d a) s = .next t ∧ SameOthers u t ∧ SameMemory u t ∧ MovesOn u t d x id
      (¬open_ → answers 3) ∧
      (open_ → b.state = 2 → answers 1) ∧
      (open_ → b.state = 1 → (u.me.arrival.valid = false ∨ u.me.arrival.addr ≠ va) → answers 2) ∧
      (open_ → b.state = 1 → u.me.arrival.valid = true → u.me.arrival.addr = va → BitVec.ofNat 32 b.phase ≠ u.me.arrival.phase → answers 0) ∧
      (open_ → b.state = 1 → u.me.arrival.valid = true → u.me.arrival.addr = va → BitVec.ofNat 32 b.phase = u.me.arrival.phase →
        ∃ t, exec (.bwait d a) s = .next t ∧ SameOthers u t ∧ SameMemory u t ∧
          t.me = { u.me with wait := some ⟨.barrier loc d, .bwait d a, [], 0⟩, clock := t.me.clock, seen := t.me.seen, seenV := t.me.seenV })

/-- R320 to R323: what the three barrier forms do.
It rests on the model's own choices of logs 11 and 41. -/
def Obligations.Barriers : Prop := BarrierInit ∧ BarrierArrive ∧ BarrierWait

namespace Sys2Proof.Claim

/-- The identity of a slate's operation in its format (R331). -/
def identity (op : Nat) (f : Fmt) : Nat :=
  match op, f with
  | 1, .int32 => 0x7FFFFFFF | 1, .int64 => 0x7FFFFFFFFFFFFFFF | 1, .fp32 => 0x7F800000 | 1, _ => 0x7FF0000000000000
  | 2, .int32 => 0x80000000 | 2, .int64 => 0x8000000000000000 | 2, .fp32 => 0xFF800000 | 2, _ => 0xFFF0000000000000
  | _, _ => 0

/-- The formats of slates. -/
def slateFmts : List Fmt := [.int32, .int64, .fp32, .fp64]

/-- The slate updates with their operation. -/
def slateForms (vs : VReg) (i : SReg) (vx : VReg) (mk : MReg) : List (Instr × Nat) :=
  [(.sladd vs i vx mk, 0), (.slmin vs i vx mk, 1), (.slmax vs i vx mk, 2)]

end Sys2Proof.Claim

/-- R331: `SLATE` with every check passed writes entry S[sI] and fills every lane's copy with the identity; the other entries and
every other satchel byte stay. A bad entry number takes the slate trap in task mode, with `laddr` = S[sL].
It rests on the model's own choice of log 41. -/
def Sys2Proof.Claim.SlateDeclared : Prop :=
  ∀ (s : State) (i b l : SReg),
    let f := cfgFmt s.me.vcfg
    let m := f.width / 8
    let x := (s.me.sget l).toNat
    let len := x % 65536
    let off := x / 65536 % 1024
    let op := x / 2 ^ 26 % 4
    let id := (s.me.sget i).toNat
    (31 < id → s.me.system = false → TrapTaken (exec (.slate i b l) s) s 0x14 s.me.pc (s.me.sget l)) ∧
    (f ∈ slateFmts → id ≤ 31 → (s.me.sget b).toNat % m = 0 → len % m = 0 → off % m = 0 → 1 ≤ len → len ≤ 1024 → off + len ≤ 1024 → op ≠ 3 →
    x / 2 ^ 28 = 0 → (∀ k e, (k, e) ∈ s.me.slates → k ≠ id → off + len ≤ e.offset ∨ e.offset + e.length ≤ off) →
    s.me.satchel.wf = true →
      ∃ t, exec (.slate i b l) s = .next t ∧ OnlyMe s t ∧
        MovesOn s t 0 0 (fun h => { h with slates := t.me.slates, satchel := t.me.satchel }) ∧
        Tbl.find t.me.slates id = some ⟨s.me.sget b, len, off, op, cfgCode s.me.vcfg⟩ ∧
        (∀ k, k ≠ id → Tbl.find t.me.slates k = Tbl.find s.me.slates k) ∧
        (∀ lane j, lane < 32 → j < len / m → satGet t.me.satchel lane (off + j * m) m = identity op f) ∧
        ∀ lane o, lane < 32 → o < 1024 → (o < off ∨ off + len ≤ o) → t.me.satchel.get (1024 * lane + o) = s.me.satchel.get (1024 * lane + o))

/-- R332: a slate update of a declared entry of its operation and format, every index inside the window, completes. With one active
element the copy in that element's lane takes the operation's result and its flags accrue; no other satchel byte, no register
and no memory byte changes. -/
def Sys2Proof.Claim.SlateUpdates : Prop :=
  ∀ (s : State) (vs : VReg) (ri : SReg) (vx : VReg) (mk : MReg) (i : Instr) (op : Nat) (e : Slate), (i, op) ∈ slateForms vs ri vx mk →
    let f := cfgFmt s.me.cfg
    let m := f.width / 8
    let id := (s.me.operand ri).toNat
    let idx := fun j => (s.me.elem vx.toNat (max 32 f.width) j).toNat
    Fits s.me [(vs, f.width), (vx, max 32 f.width)] → id < 32 → Tbl.find s.me.slates id = some e → e.op = op → e.fmt = cfgCode s.me.cfg →
    f ∈ slateFmts → (∀ j, Active s.me mk j → idx j < e.length / m) →
    (∀ j, Active s.me mk j → SoundSatchel s.me (1024 * (j % (2048 / f.width) * f.width / 64) + e.offset + idx j * m) m) →
      ∃ t, exec i s = .next t ∧ OnlyMe s t ∧ VectorOn t { s.me with satchel := t.me.satchel, fmode := t.me.fmode } ∧
        ∀ j, (∀ k, Active s.me mk k ↔ k = j) → s.me.satchel.wf = true →
          let lane := j % (2048 / f.width) * f.width / 64
          let o := e.offset + idx j * m
          let r := slateOp op f (modeEnv s.me.fmode) (BitVec.ofNat 64 (satGet s.me.satchel lane o m)) (s.me.elem vs.toNat f.width j)
          satGet t.me.satchel lane o m = r.1.toNat % 2 ^ f.width ∧ t.me.fmode = s.me.fmode ||| (r.2.zeroExtend 64 <<< 5) ∧
            ∀ a, (a < 1024 * lane + o ∨ 1024 * lane + o + m ≤ a) → t.me.satchel.get a = s.me.satchel.get a

/-- R333: `SMERGE` of an entry whose copies all hold the identity changes no memory; where one copy, of some element in some lane, holds
another value, it folds that value into the element's memory at the home as one atomic, leaves the identity in every copy and accrues
the flags. `u` is the state once every page translates, `v` the one where the element's gates are passed as well. An entry that is not declared takes the
slate trap in task mode, with `laddr` = S[sI].
It rests on the model's own choices of logs 11, 25 and 41. -/
def Sys2Proof.Claim.SlateMerge : Prop :=
  ∀ (s : State) (i : SReg),
    let id := (s.me.sget i).toNat
    s.buffering s.cur = false →
    ((32 ≤ id ∨ Tbl.find s.me.slates id = none) → s.me.system = false → TrapTaken (exec (.smerge i) s) s 0x14 s.me.pc (s.me.sget i)) ∧
    ∀ (e : Slate) (f : Fmt) (u : State),
      let m := f.width / 8
      let copy := fun lane x => satGet s.me.satchel lane (e.offset + x * m) m
      let cell := fun (lane x : Nat) => lane < 32 ∧ x < e.length / m
      id < 32 → Tbl.find s.me.slates id = some e → Fmt.ofCode e.fmt = some f → f ∈ slateFmts → e.op < 3 →
      s.translateAll .write (pagesOf e.base e.length) = .ok u →
      (∀ lane, lane < 32 → SoundSatchel s.me (1024 * lane + e.offset) e.length) →
        ((∀ lane x, cell lane x → copy lane x = identity e.op f) →
          ∃ t, exec (.smerge i) s = .next t ∧ OnlyMe u t ∧ MovesOn u t 0 0 (fun h => h)) ∧
        ∀ (v : State) (lane x loc : Nat),
          let va := e.base + BitVec.ofNat 64 (x * m)
          u.access .scalar .atomic va m = .ok v loc → v.buffering v.cur = false →
          cell lane x → copy lane x ≠ identity e.op f → (∀ l y, cell l y → (l, y) ≠ (lane, x) → copy l y = identity e.op f) →
          e.offset + e.length ≤ 1024 → QuietHome v (homeOf loc) →
            let old := BitVec.ofNat 64 (v.viewNat (homeOf loc) .h loc m)
            let r := slateOp e.op f (modeEnv s.me.fmode) old (BitVec.ofNat 64 (copy lane x))
            ∃ t, exec (.smerge i) s = .next t ∧ SameOthers v t ∧ HomeBytes (dirtied v va) t (homeOf loc) loc m r.1.toNat ∧
              MovesOn v t 0 0 (fun h => { h with satchel := t.me.satchel, fmode := h.fmode ||| (r.2.zeroExtend 64 <<< 5) }) ∧
              ∀ l y, cell l y → satGet t.me.satchel l (e.offset + y * m) m = identity e.op f

namespace Sys2Proof.Claim

/-- A locket range that R342 accepts: base and length multiples of 8, the base canonical, at most 2^32 bytes, the whole range
canonical. -/
def GoodLocket (b l : Word) : Prop :=
  b.toNat % 8 = 0 ∧ l.toNat % 8 = 0 ∧ 0 < l.toNat ∧ l.toNat ≤ 2 ^ 32 ∧ b.toNat + l.toNat ≤ 2 ^ 64 ∧
    (b.toNat + l.toNat ≤ 2 ^ 56 ∨ 2 ^ 64 - 2 ^ 56 ≤ b.toNat)

end Sys2Proof.Claim

/-- R342, R344, R355: `LKDECL` of an acceptable range that shares no byte with another entry declares it, free; the same range again
changes nothing; length 0 makes a free entry undeclared. The other entries stay. `LKSTAT` writes the set of lockets the task
holds, `LKSEN` its stamp, whether it has restarted and whether it is irrevocable.
It rests on the model's own choices of logs 41 and 43. -/
def Obligations.LocketForms : Prop :=
  ∀ (s : State) (i b l d : SReg),
    (∃ v : Word, ScalarDone (exec (.lksen d) s) s d v 0 (s.me.pc + 4) ∧ v.extractLsb' 0 62 = BitVec.ofNat 62 s.me.task.stamp ∧
      v.getLsbD 62 = s.me.task.restarted ∧ v.getLsbD 63 = s.me.task.irrevocable) ∧
    ∀ m g, s.me.member = some m → s.group? m.group = some g →
      let id := (s.me.sget i).toNat
      (s.keysOk →
        ∃ v : Word, ScalarDone (exec (.lkstat d) s) s d v 0 (s.me.pc + 4) ∧
          ∀ j, j < 64 → (v.getLsbD j = true ↔ ∃ x, (j, x) ∈ g.lockets ∧ x.holder = some m)) ∧
      (s.holdsLocket s.cur = false → id ≤ 63 →
        (GoodLocket (s.me.sget b) (s.me.sget l) → Tbl.find g.lockets id = none →
          (∀ k x, (k, x) ∈ g.lockets → (s.me.sget b).toNat + (s.me.sget l).toNat ≤ x.base.toNat ∨ x.base.toNat + x.length ≤ (s.me.sget b).toNat) →
          ∃ t x, exec (.lkdecl i b l) s = .next t ∧ t = (s.setGroup m.group { g with lockets := x }).setMe t.me ∧ MovesOn s t 0 0 (fun h => h) ∧
            Tbl.find x id = some ⟨s.me.sget b, (s.me.sget l).toNat, none, [], Clock.zero⟩ ∧ ∀ k, k ≠ id → Tbl.find x k = Tbl.find g.lockets k) ∧
        (∀ x, GoodLocket (s.me.sget b) (s.me.sget l) → Tbl.find g.lockets id = some x → x.base = s.me.sget b → x.length = (s.me.sget l).toNat →
          ∃ t, exec (.lkdecl i b l) s = .next t ∧ OnlyMe s t ∧ MovesOn s t 0 0 (fun h => h)) ∧
        (∀ x, s.me.sget l = 0 → Tbl.find g.lockets id = some x → x.holder = none →
          ∃ t, exec (.lkdecl i b l) s = .next t ∧ t = (s.setGroup m.group { g with lockets := Tbl.drop g.lockets id }).setMe t.me ∧ MovesOn s t 0 0 (fun h => h)))

/-- R345 to R347, R349, R351: a scalar store whose bytes reach a locket of its task's group first touches it. A free locket becomes the
task's, for an access that goes through as for one that waits on a free line; one that another task holds makes the store wait there, with no
memory changed, the task listed among its waiters, and wounds the holder if that is the younger one or the toucher is irrevocable, but
never an irrevocable holder or one that commits. An access that goes through leaves its task the holder of every locket it touches, and
while it holds one and is not irrevocable the store goes into the task's buffer lines: no write is issued, no byte of memory changes, and the task's own loads return the bytes.
It rests on the model's own choices of logs 41 and 43. -/
def Obligations.BufferedStores : Prop :=
  ∀ (s : State) (x b : SReg) (off : BitVec 13) (i : Instr) (n : Nat), (i, n) ∈ storeForms x b off → (address s b off).toNat % n = 0 →
    (∀ (u : State) (loc : Nat), s.access .scalar .write (address s b off) n = .ok u loc →
      (∀ m g k l, s.me.member = some m → s.group? m.group = some g → s.keysOk → (k, l) ∈ g.touched (address s b off).toNat n →
        ∃ g' l', u.group? m.group = some g' ∧ Tbl.find g'.lockets k = some l' ∧ l'.holder = some m) ∧
      (u.buffering u.cur = true → u.me.spill = [] → u.linesUsed (slotCore u.cur) < 1024 → loc % n = 0 →
        ∃ t, exec i s = .next t ∧ OnlyMe u t ∧ MovesOn u t 0 0 (fun h => { h with lines := t.me.lines }) ∧
          (∀ k, k < n → t.me.buffered (loc + k) = some (byteOf (s.me.sget x).toNat k)) ∧
          ∀ a, (a < loc ∨ loc + n ≤ a) → t.me.buffered a = u.me.buffered a)) ∧
    ∀ m g k l v loc, s.me.member = some m → s.group? m.group = some g → g.touched (address s b off).toNat n = [(k, l)] →
      Tbl.find g.lockets k = some l → s.translateMe .write (address s b off) = .ok v loc →
        (l.holder = none → l.waiters = [] → s.otherIrrevocable g m = false → s.recess.start = none → s.soft = [] → s.me.bad = [] →
          ∃ t g' l', exec i s = .next t ∧ t.group? m.group = some g' ∧ Tbl.find g'.lockets k = some l' ∧ l'.holder = some m) ∧
        ∀ o y j, l.holder = some o → o ≠ m → o.group = m.group → Tbl.find g.members o.key = some y → y.state = .running j →
          j ≠ s.cur → (s.hart j).run = .running →
          let tk := (s.hart j).task
          ∃ t g' l', exec i s = .next t ∧ SameMemory v t ∧ t.me = { s.me with wait := some ⟨.touch k, i, [], 0⟩ } ∧
            t.group? m.group = some g' ∧ Tbl.find g'.lockets k = some l' ∧ l'.holder = some o ∧ s.cur ∈ l'.waiters ∧
            t.hart j = { s.hart j with wound := (s.hart j).wound ||
              (!tk.irrevocable && !tk.committing && (s.me.task.irrevocable || decide (s.me.task.stamp < tk.stamp))) }

/-- R330 to R333: slates are declared, updated lane by lane, and merged.
It rests on the model's own choices of logs 11, 25 and 41. -/
def Obligations.Slates : Prop := SlateDeclared ∧ SlateUpdates ∧ SlateMerge

/-! ## Vector arithmetic (05_vector) -/

namespace Sys2Proof.Claim

/-- The formats each group of forms accepts (R121). -/
def intFmts : List Fmt := [.int8, .uint8, .int16, .int32, .int64]
def ieeeFmts : List Fmt := [.fp16, .bf16, .fp32, .fp64]
def signFmts : List Fmt := [.int8, .int16, .int32, .int64, .fp16, .bf16, .fp32, .fp64, .l6]
def cmpFmts : List Fmt := intFmts ++ ieeeFmts ++ [.e4m3, .e5m2, .e2m1, .l6]

/-- An integer result by R28: it wraps, or clamps under `fmode.sat` and raises overflow. -/
def integer (f : Fmt) (sat : Bool) (x : Int) : Elem × FlagSet :=
  let lo : Int := if f = .uint8 then 0 else -2 ^ (f.width - 1)
  let hi : Int := if f = .uint8 then 255 else 2 ^ (f.width - 1) - 1
  if sat = true ∧ x < lo then (BitVec.ofInt 64 (lo % 2 ^ f.width), 0b00100)
  else if sat = true ∧ hi < x then (BitVec.ofInt 64 (hi % 2 ^ f.width), 0b00100)
  else (BitVec.ofInt 64 (x % 2 ^ f.width), 0)

/-- An element as an integer: two's complement of its width, unsigned for UINT8 (R28). -/
def asInt (f : Fmt) (e : Elem) : Int :=
  let v : Int := (e.toNat % 2 ^ f.width : Nat)
  if f = .uint8 ∨ v < 2 ^ (f.width - 1) then v else v - 2 ^ f.width

/-- A form of major 0x20 or 0x21: the word, the operand registers besides vd, the formats, the result of an integer element, of
another element, and whether the old vd is a value operand. -/
structure ArithForm where
  instr : Instr
  srcs : List VReg
  fmts : List Fmt
  int : Fmt → Bool → Elem → Elem → Elem → Elem × FlagSet
  other : Fmt → Env → Elem → Elem → Elem → Elem × FlagSet
  readsD : Bool

/-- The forms of R122, R123 and R126 whose element results follow R28 and R44 to R47. -/
def arithForms (vd va vb : VReg) (mk : MReg) (dt : BitVec 1) (xm : BitVec 2) : List ArithForm :=
  [⟨.vadd vd va vb mk dt xm, [va, vb], intFmts ++ ieeeFmts, fun f sat x y _ => integer f sat (asInt f x + asInt f y), fun f e x y _ => fpArith .add f e x y, false⟩,
   ⟨.vsub vd va vb mk dt xm, [va, vb], intFmts ++ ieeeFmts, fun f sat x y _ => integer f sat (asInt f x - asInt f y), fun f e x y _ => fpArith .sub f e x y, false⟩,
   ⟨.vmul vd va vb mk dt xm, [va, vb], intFmts ++ ieeeFmts ++ [.l6], fun f sat x y _ => integer f sat (asInt f x * asInt f y),
     fun f e x y _ => if f = .l6 then l6Mul e x y else fpArith .mul f e x y, false⟩,
   ⟨.vdiv vd va vb mk dt xm, [va, vb], intFmts ++ ieeeFmts ++ [.l6],
     fun f sat x y _ => if asInt f y = 0 then (BitVec.ofInt 64 (-1 % 2 ^ f.width), 0b00010) else integer f sat ((asInt f x).tdiv (asInt f y)),
     fun f e x y _ => if f = .l6 then l6Div e x y else fpArith .div f e x y, false⟩,
   ⟨.vmin vd va vb mk dt xm, [va, vb], intFmts ++ ieeeFmts ++ [.l6], fun f _ x y _ => integer f false (min (asInt f x) (asInt f y)),
     fun f e x y _ => fpMinMax false f e x y, false⟩,
   ⟨.vmax vd va vb mk dt xm, [va, vb], intFmts ++ ieeeFmts ++ [.l6], fun f _ x y _ => integer f false (max (asInt f x) (asInt f y)),
     fun f e x y _ => fpMinMax true f e x y, false⟩,
   ⟨.vmadd vd va vb mk dt xm, [va, vb], intFmts ++ ieeeFmts, fun f sat x y d => integer f sat (asInt f d + asInt f x * asInt f y),
     fun f e x y d => fpFma f e false x y d, true⟩,
   ⟨.vsqrt vd va mk dt xm, [va], ieeeFmts, fun _ _ x _ _ => (x, 0), fun f e x _ _ => fpSqrt f e x, false⟩]

/-- `VABS` and `VNEG`: no mask, so no mark (R126). -/
def signForms (vd va : VReg) (mk : MReg) (dt : BitVec 1) : List (Instr × (Int → Int) × (Fmt → Elem → Elem)) :=
  [(.vabs vd va mk dt, fun x => |x|, fun f x => if f = .l6 then (if x.toNat % 64 = 0x30 then 0x30 else x &&& 0x1F) else x &&& BitVec.ofNat 64 (2 ^ (f.width - 1) - 1)),
   (.vneg vd va mk dt, fun x => -x, fun f x =>
     if f = .l6 then (if x.toNat % 64 = 0x30 ∨ x.toNat % 64 = 0x10 then x &&& 0x3F else (x &&& 0x3F) ^^^ 0x20)
     else (x &&& BitVec.ofNat 64 (2 ^ f.width - 1)) ^^^ BitVec.ofNat 64 (2 ^ (f.width - 1)))]

/-- The bits of an element that hold its value (R25). -/
def valueWidth (f : Fmt) : Nat := if f = .e2m1 then 4 else if f = .l6 then 6 else if f = .s12 then 12 else f.width

/-- The bitwise, shift and copying forms, with the formats they refuse none of, or the integers alone (R125, R126). -/
def bitForms (vd va vb : VReg) (mk : MReg) (dt : BitVec 1) : List (Instr × List VReg × Bool × (Fmt → Nat → Elem → Elem → Elem)) :=
  [(.vand vd va vb mk dt, [va, vb], false, fun _ _ x y => x &&& y), (.vor vd va vb mk dt, [va, vb], false, fun _ _ x y => x ||| y),
   (.vxor vd va vb mk dt, [va, vb], false, fun _ _ x y => x ^^^ y),
   (.vshl vd va vb mk dt, [va, vb], true, fun f _ x y => BitVec.ofNat 64 (x.toNat * 2 ^ (y.toNat % f.width))),
   (.vshr vd va vb mk dt, [va, vb], true, fun f _ x y => BitVec.ofNat 64 (x.toNat % 2 ^ f.width / 2 ^ (y.toNat % f.width))),
   (.vsra vd va vb mk dt, [va, vb], true, fun f _ x y =>
     let v : Int := (x.toNat % 2 ^ f.width : Nat)
     BitVec.ofInt 64 ((if v < 2 ^ (f.width - 1) then v else v - 2 ^ f.width) / 2 ^ (y.toNat % f.width))),
   (.vpopc vd va mk dt, [va], false, fun f _ x _ => BitVec.ofNat 64 ((List.range (valueWidth f)).countP fun k => x.getLsbD k)),
   (.vmv vd va mk dt, [va], false, fun _ _ x _ => x), (.vid vd mk dt, [], true, fun _ j _ _ => BitVec.ofNat 64 j)]

end Sys2Proof.Claim

/-- R122, R123, R126, R28: each active element of the arithmetic forms takes its result, computed exactly and wrapped or clamped for
the integers, rounded by R44 to R47 for the others; flags accrue and the exception mask is written by R52 and R53; inactive
elements and everything else stay.
It rests on the model's own choice of log 19. -/
def Obligations.VectorArithmetic : Prop :=
  ∀ (s : State) (vd va vb : VReg) (mk : MReg) (dt : BitVec 1) (xm : BitVec 2) (a : ArithForm), a ∈ arithForms vd va vb mk dt xm →
    let f := cfgFmt s.me.cfg
    let x := fun j => s.me.elem va.toNat f.width j
    let y := fun j => s.me.elem vb.toNat f.width j
    let d := fun j => s.me.elem vd.toNat f.width j
    Fits s.me ((vd :: a.srcs).map fun r => (r, f.width)) → f ∈ a.fmts →
      Elementwise (exec a.instr s) s vd mk xm f
        (fun j => if f ∈ intFmts then a.int f (s.me.fmode.getLsbD 2) (x j) (y j) (d j) else a.other f (rounding 0 s.me.fmode) (x j) (y j) (d j))
        (fun j => isNaNElem f (x j) || (a.srcs.contains vb && isNaNElem f (y j) && a.srcs.length == 2) || (a.readsD && isNaNElem f (d j)))

/-- R124, R48, R126: `VSCALE` multiplies each active element by 2^(k − 127) with one rounding, k the low 8 bits of the other
operand's element, which is no value operand; k = 0xFF gives the canonical NaN, with no operand NaN, and invalid beside a
signalling element. `VABS` and `VNEG` clear or invert the sign bit of a float, with
no flags, bit [5] of L6 but of its NaN (and, for `VNEG`, its zero), and give |a| and 0 − a of an integer, wrapped or clamped.
An element that is itself a quiet NaN marks no exception (log 50).
It rests on the model's own choice of log 50. -/
def Obligations.VectorScaleAndSign : Prop :=
  ∀ (s : State) (vd va vb : VReg) (mk : MReg) (dt : BitVec 1) (xm : BitVec 2),
    let f := cfgFmt s.me.cfg
    let x := fun j => s.me.elem va.toNat f.width j
    (Fits s.me [(vd, f.width), (va, f.width), (vb, f.width)] → f ∈ ieeeFmts →
      Elementwise (exec (.vscale vd va vb mk dt xm) s) s vd mk xm f
        (fun j => scaleNum f (rounding 0 s.me.fmode) (x j) ((s.me.elem vb.toNat f.width j).toNat % 256)) (fun j => isNaNElem f (x j)) ∧
      ∀ j, scaleNum f (rounding 0 s.me.fmode) (x j) 0xFF = (canonNaN f, if (decodeNum f (x j)).isSignal then 0b00001 else 0)) ∧
    ∀ (i : Instr) (g : Int → Int) (h : Fmt → Elem → Elem), (i, g, h) ∈ signForms vd va mk dt →
      Fits s.me [(vd, f.width), (va, f.width)] → f ∈ signFmts →
        Elementwise (exec i s) s vd mk 0 f
          (fun j => if f ∈ intFmts then integer f (s.me.fmode.getLsbD 2) (g (asInt f (x j))) else (h f (x j), 0)) (fun j => isNaNElem f (x j))

/-- R125, R126, R27: the bitwise forms, the shifts by the low log2 w bits, `VPOPC`, `VMV` and `VID` write value bits, the other container
bits zero; they raise no flag and write no mask. -/
def Obligations.VectorBits : Prop :=
  ∀ (s : State) (vd va vb : VReg) (mk : MReg) (dt : BitVec 1) (i : Instr) (srcs : List VReg) (ints : Bool) (g : Fmt → Nat → Elem → Elem → Elem),
    (i, srcs, ints, g) ∈ bitForms vd va vb mk dt →
    let f := cfgFmt s.me.cfg
    Fits s.me ((vd :: srcs).map fun r => (r, f.width)) → (ints = true → f ∈ intFmts) →
      Elementwise (exec i s) s vd mk 0 f
        (fun j => (BitVec.ofNat 64 ((g f j (s.me.elem va.toNat f.width j) (s.me.elem vb.toNat f.width j)).toNat % 2 ^ valueWidth f), 0)) (fun _ => true)

/-- R135, R44: `VCVT` converts each active element from the source format to the format in force under the rounding code; RTO only
to FP32, FP16, BF16, E4M3 and E5M2.
It rests on the model's own choices of logs 46 and 54. -/
def Obligations.VectorConvert : Prop :=
  ∀ (s : State) (vd va : VReg) (mk : MReg) (rm : BitVec 3) (src : BitVec 4) (dt : BitVec 1) (xm : BitVec 2) (g : Fmt),
    let f := cfgFmt s.me.cfg
    let x := fun j => s.me.elem va.toNat g.width j
    Fmt.ofCode src = some g → rm.toNat ≤ 5 → (rm = 5 → f ∈ [Fmt.fp32, .fp16, .bf16, .e4m3, .e5m2]) → f ≠ g → Fits s.me [(vd, f.width), (va, g.width)] →
      Elementwise (exec (.vcvt vd va mk rm src dt xm) s) s vd mk xm f
        (fun j => convert g f (rounding rm s.me.fmode) (x j)) (fun j => isNaNElem g (x j))

namespace Sys2Proof.Claim

/-- The six comparisons of integers (R127). -/
def compares (md : MReg) (va vb : VReg) (mk : MReg) (dt : BitVec 1) (xm : BitVec 2) : List (Instr × (Int → Int → Bool) × Bool × Bool) :=
  [(.vcmpEq md va vb mk dt xm, fun a b => a == b, false, true), (.vcmpNe md va vb mk dt xm, fun a b => a != b, false, true),
   (.vcmpLt md va vb mk dt xm, fun a b => decide (a < b), false, false), (.vcmpLe md va vb mk dt xm, fun a b => decide (a ≤ b), false, false),
   (.vcmpGt md va vb mk dt xm, fun a b => decide (b < a), false, false), (.vcmpGe md va vb mk dt xm, fun a b => decide (b ≤ a), false, false),
   (.vcmpLtu md va vb mk dt xm, fun a b => decide (a < b), true, true), (.vcmpLeu md va vb mk dt xm, fun a b => decide (a ≤ b), true, true),
   (.vcmpGtu md va vb mk dt xm, fun a b => decide (b < a), true, true), (.vcmpGeu md va vb mk dt xm, fun a b => decide (b ≤ a), true, true)]

/-- The exact value of an element as a fraction over a common denominator with another's: cross products compare as the values do. -/
def cross (f : Fmt) (x y : Elem) : Int := (decodeNum f x).q.num * (decodeNum f y).q.den

/-- Where an element lies beside every number: -1 or 1 for an infinity by its sign, else 0. -/
def infSide (f : Fmt) (x : Elem) : Int :=
  match decodeNum f x with
  | .inf neg => if neg then -1 else 1
  | _ => 0

/-- Two integers that compare as two elements do that are no NaN. -/
def placed (f : Fmt) (x y : Elem) : Int := if infSide f x = 0 ∧ infSide f y = 0 then cross f x y else infSide f x

end Sys2Proof.Claim

/-- R127: a compare writes bit j of M[md] with the truth of the comparison for each active element, by value (containers as unsigned
integers for the unsigned forms, integer formats only); an inactive bit below VL stays, bits from VL up are 0. A NaN is unequal to
everything and makes every other comparison false; it raises invalid if it signals, or under `LT`, `LE`, `GT` and `GE`. An
infinity lies beyond every number of its sign. -/
def Obligations.VectorCompares : Prop :=
  ∀ (s : State) (md : MReg) (va vb : VReg) (mk : MReg) (dt : BitVec 1) (xm : BitVec 2) (i : Instr) (c : Int → Int → Bool) (uns quiet : Bool),
    (i, c, uns, quiet) ∈ compares md va vb mk dt xm →
    let f := cfgFmt s.me.cfg
    let x := fun j => s.me.elem va.toNat f.width j
    let y := fun j => s.me.elem vb.toNat f.width j
    let nan := fun j => isNaNElem f (x j) || isNaNElem f (y j)
    Fits s.me [(va, f.width), (vb, f.width)] → f ∈ (if uns then intFmts else cmpFmts) → md ≠ 0 → (xm = 0 ∨ md.toNat ≠ 11 + xm.toNat) →
      ∃ t, exec i s = .next t ∧ OnlyMe s t ∧ VectorOn t { s.me with m := t.me.m, fmode := t.me.fmode } ∧
        (∀ j, j < 256 → ((t.me.mget md).getLsbD j = true ↔
          j < s.me.vl ∧ ((Active s.me mk j ∧
            (if uns then c (x j).toNat (y j).toNat
             else if nan j then (i == Instr.vcmpNe md va vb mk dt xm)
             else c (placed f (x j) (y j)) (placed f (y j) (x j))) = true) ∨
            (¬Active s.me mk j ∧ (s.me.mget md).getLsbD j = true)))) ∧
        (∀ r : MReg, r ≠ md → (xm = 0 ∨ r.toNat ≠ 11 + xm.toNat) → t.me.mget r = s.me.mget r) ∧
        FlagsOf s.me t.me (Active s.me mk) (fun j =>
          if uns then 0
          else if nan j ∧ (!quiet || (decodeNum f (x j)).isSignal || (decodeNum f (y j)).isSignal) then 0b00001 else 0)

/-- R128, R129: the mask forms act on all 256 bits; M0 is never written and reads as all ones; `MPOPC` counts the bits below VL and
`MFIRST` gives the lowest of them, or −1. -/
def Obligations.MaskForms : Prop :=
  ∀ (s : State) (md ma mb : MReg) (d : SReg), s.me.velem.getLsbD 15 = false →
    (∀ i x, (i, x) ∈ [(Instr.mand md ma mb, s.me.mget ma &&& s.me.mget mb), (.mor md ma mb, s.me.mget ma ||| s.me.mget mb),
        (.mxor md ma mb, s.me.mget ma ^^^ s.me.mget mb), (.mnot md ma, ~~~s.me.mget ma)] →
      ∃ t, exec i s = .next t ∧ OnlyMe s t ∧ VectorOn t { s.me with m := t.me.m } ∧
        t.me.mget md = (if md = 0 then BitVec.allOnes 256 else x) ∧ ∀ r, r ≠ md → t.me.mget r = s.me.mget r) ∧
    (let v := BitVec.ofNat 64 ((List.range s.me.vl).countP fun j => (s.me.mget ma).getLsbD j)
     ∃ t, exec (.mpopc d ma) s = .next t ∧ OnlyMe s t ∧ VectorOn t { fed s.me d v with s := t.me.s } ∧ SameScalar s.me t.me d ∧
      t.me.sget d = if d = 0 then 0 else v) ∧
    ∃ t v, exec (.mfirst d ma) s = .next t ∧ OnlyMe s t ∧ VectorOn t { fed s.me d v with s := t.me.s } ∧ SameScalar s.me t.me d ∧
      t.me.sget d = (if d = 0 then 0 else v) ∧
      ((∀ j, j < s.me.vl → (s.me.mget ma).getLsbD j = false) → v = BitVec.allOnes 64) ∧
      ∀ j, j < s.me.vl → (s.me.mget ma).getLsbD j = true → (∀ k, k < j → (s.me.mget ma).getLsbD k = false) → v = BitVec.ofNat 64 j

namespace Sys2Proof.Claim

/-- A scalar operand of a vector word: the register, or inside a `VLOOP` the value captured at its issue (R115). -/
def scalarOperand (h : Hart) (r : SReg) : Word :=
  if r = 0 then 0
  else
    match h.blk with
    | some b => match b.captured with | some c => c.getD r.toNat 0 | none => h.sget r
    | none => h.sget r

end Sys2Proof.Claim

/-- R130 to R132: `VBCAST` copies the low bits of a scalar, `VSLIDE` element j + S, `VPERM` the element that the value bits of
its index name, 0 where that lies outside the group; value bits only, in the active elements alone. `VMERGE` takes each element that the fragment mask
enables from vs1 where the mask bit is set and from vs2 where it is clear; `VNZIDX` packs the indices of the active non-zero
elements in ascending order from element 0, writes 0 behind them up to VL, and their number to the scalar register.
It rests on the model's own choice of log 20. -/
def Obligations.VectorMoves : Prop :=
  ∀ (s : State) (vd va vb : VReg) (r : SReg) (mk : MReg),
    let f := cfgFmt s.me.cfg
    let w := f.width
    let lim := min 256 (2048 / w * cfgSpan s.me.cfg)
    let val := fun (e : Elem) => (BitVec.ofNat 64 (e.toNat % 2 ^ valueWidth f), (0 : FlagSet))
    (Fits s.me [(vd, w)] → Elementwise (exec (.vbcast vd r mk) s) s vd mk 0 f (fun _ => val (scalarOperand s.me r)) (fun _ => true)) ∧
    (Fits s.me [(vd, w), (va, w)] → Elementwise (exec (.vslide vd va r mk) s) s vd mk 0 f
      (fun j => val (if 0 ≤ (j : Int) + (scalarOperand s.me r).toInt ∧ (j : Int) + (scalarOperand s.me r).toInt < lim
        then s.me.elem va.toNat w ((j : Int) + (scalarOperand s.me r).toInt).toNat else 0)) (fun _ => true)) ∧
    (Fits s.me [(vd, w), (va, w), (vb, w)] → Elementwise (exec (.vperm vd va vb mk) s) s vd mk 0 f
      (fun j =>
        let k := (s.me.elem vb.toNat w j).toNat % 2 ^ valueWidth f
        val (if k < lim then s.me.elem va.toNat w k else 0)) (fun _ => true)) ∧
    (Fits s.me [(vd, w), (va, w), (vb, w)] → Elementwise (exec (.vmerge vd va vb mk) s) s vd 0 0 f
      (fun j => val (s.me.elem (if (s.me.mget mk).getLsbD j then va.toNat else vb.toNat) w j)) (fun _ => true)) ∧
    (Fits s.me [(vd, w), (va, w)] → f ∈ cmpFmts →
      ∃ t, ∃ l : List Nat, exec (.vnzidx vd va r mk) s = .next t ∧ OnlyMe s t ∧
        VectorOn t { fed s.me r (BitVec.ofNat 64 l.length) with v := t.me.v, s := t.me.s } ∧
        (∀ j, j ∈ l ↔ Active s.me mk j ∧ (decodeNum f (s.me.elem va.toNat w j)).isZero = false) ∧ l.Pairwise (· < ·) ∧
        ElementsSet s.me t.me vd w (fun j => j < s.me.vl) (fun j => BitVec.ofNat 64 (l.getD j 0 % 2 ^ w)) ∧
        SameScalar s.me t.me r ∧ t.me.sget r = if r = 0 then 0 else BitVec.ofNat 64 l.length)

/-- R133, R55: of an integer format `VREDSUM` with `fmode.sat` 0 writes the wrapped 64-bit sum of the active elements, `VREDMIN` and
`VREDMAX` the smallest and largest (the format's extreme with none active), whatever order the device chooses; no flag is
raised. A reduction of a float format completes as well. `VREDMINI` writes the smallest active element and
the lowest index that holds it, −0 below +0; with none active, the format's largest value, +∞ of a float, and −1 (R134). An active NaN makes the value
a NaN and the index the lowest that holds one; no flag is raised but for a signalling NaN. Under `fmode.sat` an infinite minimum of several
float elements is the largest finite number of its sign, as `VREDMIN` forms it (R45, R54); its value is stated for the others.
It rests on the model's own choices of logs 4 and 19. -/
def Obligations.VectorReductions : Prop :=
  ∀ (s : State) (d ix : SReg) (va : VReg) (mk : MReg) (dt : BitVec 1) (xm : BitVec 2),
    let f := cfgFmt s.me.cfg
    let vals := ((List.range s.me.vl).filter fun j => (s.me.mget mk).getLsbD j && s.me.frag.getLsbD j).map fun j => s.me.elem va.toNat f.width j
    let lo : Int := if f = .uint8 then 0 else -2 ^ (f.width - 1)
    let hi : Int := if f = .uint8 then 255 else 2 ^ (f.width - 1) - 1
    let done := fun (i : Instr) (xm : BitVec 2) (p : Word → Prop) => ∃ t v, exec i s = .next t ∧ SameMemory s t ∧
      t = { s.setMe t.me with freeCtr := t.freeCtr } ∧ VectorOn t { fed s.me d v with s := t.me.s, fmode := t.me.fmode, m := t.me.m } ∧
      SameScalar s.me t.me d ∧ t.me.sget d = (if d = 0 then 0 else v) ∧ p v ∧
      (∀ r : MReg, (xm = 0 ∨ r.toNat ≠ 11 + xm.toNat) → t.me.mget r = s.me.mget r) ∧ (f ∈ intFmts → s.me.fmode.getLsbD 2 = false → t.me.fmode = s.me.fmode)
    let x := fun j => asInt f (s.me.elem va.toNat f.width j)
    Fits s.me [(va, f.width)] → f ∈ intFmts ++ ieeeFmts →
      done (.vredsum d va mk dt xm) xm (fun v => f ∈ intFmts → s.me.fmode.getLsbD 2 = false → v = BitVec.ofInt 64 (vals.map (asInt f)).sum) ∧
      done (.vredmin d va mk dt) 0 (fun v => f ∈ intFmts → v = BitVec.ofInt 64 ((vals.map (asInt f)).foldl min hi)) ∧
      done (.vredmax d va mk dt) 0 (fun v => f ∈ intFmts → v = BitVec.ofInt 64 ((vals.map (asInt f)).foldl max lo)) ∧
      ∃ t v k, exec (.vredmini d va ix mk dt) s = .next t ∧ SameMemory s t ∧ t = { s.setMe t.me with freeCtr := t.freeCtr } ∧
        VectorOn t { fed (fed s.me d v) ix k with s := t.me.s, fmode := t.me.fmode } ∧
        (∀ r, t.me.sget r = if r = 0 then 0 else if r = ix then k else if r = d then v else s.me.sget r) ∧
        ((∀ j, ¬Active s.me mk j) → k = BitVec.allOnes 64 ∧ v = if f ∈ intFmts then BitVec.ofInt 64 hi else BitVec.ofNat 64 (infCode f)) ∧
        (f ∈ intFmts → t.me.fmode = s.me.fmode ∧
          ∀ j, Active s.me mk j → (∀ i, Active s.me mk i → x j ≤ x i) → (∀ i, i < j → Active s.me mk i → x j < x i) →
            v = BitVec.ofInt 64 (x j) ∧ k = BitVec.ofNat 64 j) ∧
        (f ∈ ieeeFmts →
          let e := fun j => s.me.elem va.toNat f.width j
          let below := fun i j => placed f (e i) (e j) < placed f (e j) (e i) ∨
            ((decodeNum f (e i)).isZero = true ∧ (decodeNum f (e j)).isZero = true ∧ (decodeNum f (e i)).neg = true ∧ (decodeNum f (e j)).neg = false)
          ((∀ j, Active s.me mk j → (decodeNum f (e j)).isSignal = false) → t.me.fmode = s.me.fmode) ∧
          (∀ j, Active s.me mk j → isNaNElem f (e j) = true → (∀ i, i < j → Active s.me mk i → isNaNElem f (e i) = false) →
            isNaNElem f v = true ∧ k = BitVec.ofNat 64 j) ∧
          ∀ j, (∀ i, Active s.me mk i → isNaNElem f (e i) = false ∧ ¬below i j) → Active s.me mk j → (∀ i, i < j → Active s.me mk i → below j i) →
            k = BitVec.ofNat 64 j ∧ ((s.me.fmode.getLsbD 2 = false ∨ infSide f (e j) = 0) → v = e j))

/-- R107, R121, R136: a vector word of the arithmetic forms whose group ends beyond V31 takes the illegal-instruction trap, with
`laddr` the word; one whose groups fit but whose format its form refuses takes the unsupported-format trap; both in task mode
with `lvelem` = 0 and `lcause.vec` = 1, before any element changes. -/
def Obligations.VectorTraps : Prop :=
  ∀ (s : State) (vd va vb : VReg) (mk : MReg) (dt : BitVec 1) (xm : BitVec 2) (a : ArithForm) (w : IWord), a ∈ arithForms vd va vb mk dt xm →
    let f := cfgFmt s.me.cfg
    let traps := fun (code : Nat) => ∃ t, exec a.instr s = .next t ∧ OnlyMe s t ∧ t.me.v = s.me.v ∧ t.me.m = s.me.m ∧ t.me.fmode = s.me.fmode ∧
      t.me.lcause = BitVec.ofNat 64 (code + 256) ∧ t.me.laddr = BitVec.ofNat 64 w.toNat ∧ t.me.lvelem = 0 ∧ t.me.system = true ∧
      t.me.lepc = (match s.me.blk with | some b => b.pc | none => s.me.pc) ∧ t.me.pc = s.me.ltvec + BitVec.ofNat 64 (64 * code) ∧
      t.me.blk = none ∧ t.me.vq = [] ∧ t.me.vrs.isSome = true
    encode a.instr = some w → s.me.system = false →
      ((∃ r, r ∈ vd :: a.srcs ∧ 32 < r.toNat + groupSize (min 256 (2048 / f.width * cfgSpan s.me.cfg)) f.width) → traps 0x01) ∧
      (Fits s.me ((vd :: a.srcs).map fun r => (r, f.width)) → f ∉ a.fmts → traps 0x08)

/-! ## Vector memory (06_vector_memory, 17_barrier) -/

namespace Sys2Proof.Claim

/-- Nothing holds an access of the executing hart up or hides a byte from it: it is not parked, its block has noted no element, and
there is no recess, no overrun, no soft error, no write outstanding, no line buffered, and in its group neither a binding nor a
locket. -/
def Calm (s : State) : Prop :=
  s.recess.start = none ∧ s.soft = [] ∧ s.writes = [] ∧ s.me.lines = [] ∧ s.me.spill = [] ∧ s.me.wait = none ∧ s.me.overrun = none ∧
    (∀ b, s.me.blk = some b → b.noted = 0 ∧ b.wait = none) ∧
    ∀ id g, s.me.member = some id → s.group? id.group = some g → g.bindings = [] ∧ g.lockets = []

/-- The translation of `va` is at hand and allows the access: the slab window, or a pinned or cached leaf; host memory is reached over the host link
(R7). -/
def Known (s : State) (k : Kind) (va : Word) (loc : Nat) : Prop :=
  canonical va = true ∧ k ≠ .fetch ∧
    if 0x00FFFE0000000000 ≤ va.toNat ∧ va.toNat < 0x0100000000000000 then
      va.toNat < 0x00FFFE0000100000 ∧ loc = 0x008000000000 + 0x100000 * (s.cur / 4) + (va.toNat - 0x00FFFE0000000000)
    else
      ∃ t, s.cached (slotQuarter s.cur) s.me.asid va = some t ∧ leafAllows t.leaf k = .inr false ∧
        (k = .write ∨ k = .atomic → t.dirty = true) ∧ loc = (t.leaf.extractLsb' 12 36).toNat * 4096 + va.toNat % 2 ^ t.bits ∧
        (s.hostLink = none → inHostMem loc = false)

/-- An element a memory form acts on: active, and not below the start index in `velem` (R140). -/
def Picked (h : Hart) (mk : MReg) (j : Nat) : Prop := Active h mk j ∧ h.velem.toNat % 32768 ≤ j

/-- The elements a memory form acts on, ascending. -/
def picked (h : Hart) (mk : MReg) : List Nat :=
  (List.range h.vl).filter fun j => (h.mget mk).getLsbD j && h.frag.getLsbD j && decide (h.velem.toNat % 32768 ≤ j)

/-- The container width of an index element (R138). -/
def indexBits (f : Fmt) : Nat := max 32 f.width

/-- The address of element `j` of the unit-stride, strided and indexed forms (R138). -/
def unitAt (h : Hart) (b : SReg) (j : Nat) : Word :=
  scalarOperand h b + BitVec.ofNat 64 (if cfgFmt h.cfg = .e2m1 then j / 2 else j * ((cfgFmt h.cfg).width / 8))
def strideAt (h : Hart) (b t : SReg) (j : Nat) : Word := scalarOperand h b + BitVec.ofNat 64 j * scalarOperand h t
def indexAt (h : Hart) (b : SReg) (vi : VReg) (j : Nat) : Word :=
  scalarOperand h b + h.elem vi.toNat (indexBits (cfgFmt h.cfg)) j

/-- A vector memory form: the word, its index register if it has one, its addresses. -/
structure MemForm where
  instr : Instr
  index : Option VReg
  addr : Nat → Word
  /-- Whether it accepts packed E2M1, and whether a complete run clears M15 (R139, R147, R148). -/
  packed : Bool
  marks : Bool

/-- The loads. -/
def vectorLoads (h : Hart) (vd : VReg) (b t : SReg) (vi : VReg) (mk : MReg) : List MemForm :=
  [⟨.vld vd b mk, none, unitAt h b, true, false⟩, ⟨.vldff vd b mk, none, unitAt h b, true, true⟩,
   ⟨.vlds vd b t mk, none, strideAt h b t, false, false⟩, ⟨.vldx vd b vi mk, some vi, indexAt h b vi, false, true⟩]

/-- What a load puts into element `j` from location `loc`: the value bits, packed E2M1 by nibbles, low first (R27, R138, R139). -/
def loaded (s : State) (f : Fmt) (j loc : Nat) : Elem :=
  let r := viewOf (slotQuarter s.cur) loc
  if f = .e2m1 then BitVec.ofNat 64 ((s.viewByte r .h loc).toNat / (if j % 2 = 0 then 1 else 16) % 16)
  else BitVec.ofNat 64 (s.viewNat r .h loc (f.width / 8) % 2 ^ valueWidth f)

/-- The groups of a memory form. -/
def MemForm.groups (a : MemForm) (f : Fmt) (v : VReg) : List (VReg × Nat) :=
  (v, f.width) :: match a.index with | some i => [(i, indexBits f)] | none => []

/-- The index register's group shares no register with the loaded one (R140). -/
def MemForm.apart (a : MemForm) (h : Hart) (f : Fmt) (v : VReg) : Prop :=
  ∀ i, a.index = some i →
    v.toNat + groupSize (min 256 (2048 / f.width * cfgSpan h.cfg)) f.width ≤ i.toNat ∨
      i.toNat + groupSize (min 256 (2048 / f.width * cfgSpan h.cfg)) (indexBits f) ≤ v.toNat

end Sys2Proof.Claim

/-- R138 to R143, R147, R148: a vector load whose elements are aligned, known and readable fills each element it acts on with the
value its bytes show, the other container bits zero; every other element, register and mask stays, but that `VLDX` and `VLDFF`
clear M15 (log 18: only when they act on an element). Memory is not changed.
It rests on the model's own choice of log 21. -/
def Obligations.VectorLoads : Prop :=
  ∀ (s : State) (vd : VReg) (b t : SReg) (vi : VReg) (mk : MReg) (a : MemForm) (loc : Nat → Nat), a ∈ vectorLoads s.me vd b t vi mk →
    let f := cfgFmt s.me.cfg
    let p := Picked s.me mk
    Fits s.me (a.groups f vd) → a.apart s.me f vd → f ≠ .l6 → (f = .e2m1 → a.packed = true) → Calm s →
    (∀ j, p j → (f ≠ .e2m1 → (a.addr j).toNat % (f.width / 8) = 0) ∧ Known s .load (a.addr j) (loc j)) →
      ∃ t, exec a.instr s = .next t ∧ OnlyMe s t ∧ VectorOn t { s.me with v := t.me.v, m := t.me.m, clock := t.me.clock, seenV := t.me.seenV } ∧
        ElementsSet s.me t.me vd f.width p (fun j => loaded s f j (loc j)) ∧
        (∀ r : MReg, a.marks = false ∨ r ≠ 15 → t.me.mget r = s.me.mget r) ∧ (a.marks = true → (∃ j, p j) → t.me.mget 15 = 0)

namespace Sys2Proof.Claim

/-- The stores; `VSTS`, `VSTX` and a unit-stride store leave the highest of several elements at one address, `VSTXU` any (R142). -/
def vectorStores (h : Hart) (vs : VReg) (b t : SReg) (vi : VReg) (mk : MReg) : List (MemForm × Bool) :=
  [(⟨.vst vs b mk, none, unitAt h b, true, false⟩, false), (⟨.vsts vs b t mk, none, strideAt h b t, false, false⟩, true),
   (⟨.vstx vs b vi mk, some vi, indexAt h b vi, false, true⟩, true), (⟨.vstxu vs b vi mk, some vi, indexAt h b vi, false, true⟩, false)]

/-- The writes that one form issues, in whatever order: each of class vector, on path H, from the executing hart, shown nowhere yet. -/
def Issued (s t : State) (ws : List Write) (cells : List (List Host.Cell)) : Prop :=
  t = { s.setMe t.me with writes := ws, issued := t.issued, freeCtr := t.freeCtr, slabForms := t.slabForms } ∧ SameMemory s t ∧
    (ws.map (·.bytes)).Perm cells ∧
    ∀ w, w ∈ ws → w.path = .h ∧ w.cls = .vector ∧ w.slot = some s.cur ∧ w.quarter = slotQuarter s.cur ∧ w.applied = 0

/-- The value of element `j` of a stored group, without the unused container bits (R139). -/
def storedValue (h : Hart) (f : Fmt) (vs : VReg) (j : Nat) : Nat := (h.elem vs.toNat f.width j).toNat % 2 ^ valueWidth f

end Sys2Proof.Claim

/-- R138 to R143, R147: a vector store whose elements are aligned, known and writable issues one write for each element it acts on,
of the element's value bytes, least significant first, and of none that a later element of the form supersedes; of packed E2M1
one write for each byte whose two nibbles are stored, and a single nibble replaces its half of the byte at the home as one
atomic. No register of the hart changes but M15, which `VSTX` and `VSTXU` clear.
It rests on the model's own choices of logs 5, 18 and 21. -/
def Obligations.VectorStores : Prop :=
  ∀ (s : State) (vs : VReg) (b t : SReg) (vi : VReg) (mk : MReg) (a : MemForm) (last : Bool) (loc : Nat → Nat),
    (a, last) ∈ vectorStores s.me vs b t vi mk →
    let f := cfgFmt s.me.cfg
    let els := picked s.me mk
    let x := storedValue s.me f vs
    Fits s.me (a.groups f vs) → f ≠ .l6 → (f = .e2m1 → a.packed = true) → Calm s → (∀ j, j ∈ els → Known s .write (a.addr j) (loc j)) →
      (f ≠ .e2m1 → (∀ j, j ∈ els → (a.addr j).toNat % (f.width / 8) = 0) →
        ∃ t ws, exec a.instr s = .next t ∧ VectorOn t { s.me with m := t.me.m, clock := t.me.clock } ∧
          Issued s t ws ((els.filter fun j => !(last && els.any fun k => decide (j < k) && a.addr j == a.addr k)).map
            fun j => cellsAt (loc j) (leBytes (f.width / 8) (x j))) ∧
          (∀ r : MReg, a.marks = false ∨ r ≠ 15 → t.me.mget r = s.me.mget r) ∧ (a.marks = true → els ≠ [] → t.me.mget 15 = 0)) ∧
      (f = .e2m1 → (∀ i, 2 * i ∈ els ↔ 2 * i + 1 ∈ els) →
        ∃ t ws, exec a.instr s = .next t ∧ VectorOn t { s.me with clock := t.me.clock } ∧
          Issued s t ws ((els.filter fun j => j % 2 = 0).map fun j => [(loc j, BitVec.ofNat 8 (x j + 16 * x (j + 1)))])) ∧
      ∀ j, f = .e2m1 → els = [j] → QuietHome s (homeOf (loc j)) →
        let old := (s.viewByte (homeOf (loc j)) .h (loc j)).toNat
        ∃ t, exec a.instr s = .next t ∧ SameOthers s t ∧
          VectorOn t { s.me with clock := t.me.clock, seen := t.me.seen, seenV := t.me.seenV } ∧
          HomeBytes s t (homeOf (loc j)) (loc j) 1 (if j % 2 = 0 then old / 16 * 16 + x j else old % 16 + 16 * x j)

namespace Sys2Proof.Claim

/-- The vector atomics: the new value of the old one and of the elements of vd and vd + 1, in bits of the element; none where
nothing is written (R328). -/
def vectorAtomics (w : Nat) (vd : VReg) (b : SReg) (vi : VReg) (mk : MReg) (aq rl : BitVec 1) : List (Instr × Bool × (Nat → Nat → Nat → Option Nat)) :=
  let sg := fun (x : Nat) => if x < 2 ^ (w - 1) then (x : Int) else (x : Int) - 2 ^ w
  [(.vamoAdd vd b vi mk aq rl, false, fun old x _ => some ((old + x) % 2 ^ w)),
   (.vamoMin vd b vi mk aq rl, false, fun old x _ => some (if sg x < sg old then x else old)),
   (.vamoMax vd b vi mk aq rl, false, fun old x _ => some (if sg old < sg x then x else old)),
   (.vamoAnd vd b vi mk aq rl, false, fun old x _ => some (old &&& x)), (.vamoOr vd b vi mk aq rl, false, fun old x _ => some (old ||| x)),
   (.vamoXor vd b vi mk aq rl, false, fun old x _ => some (old ^^^ x)), (.vamoSwap vd b vi mk aq rl, false, fun _ x _ => some x),
   (.vamoCas vd b vi mk aq rl, true, fun old x y => if old = x then some y else none)]

/-- The waits with their conditions on the memory word and the element (R329). -/
def vectorWaits (vs : VReg) (b : SReg) (vi : VReg) (mk : MReg) : List (Instr × (Fmt → Nat → Elem → Bool)) :=
  let num := fun (f : Fmt) (x : Nat) => asInt f (BitVec.ofNat 64 x)
  [(.vwaitEq vs b vi mk, fun _ x y => x == y.toNat), (.vwaitNe vs b vi mk, fun _ x y => x != y.toNat),
   (.vwaitLt vs b vi mk, fun f x y => decide (num f x < asInt f y)), (.vwaitGe vs b vi mk, fun f x y => decide (asInt f y ≤ num f x)),
   (.vwaitLtu vs b vi mk, fun _ x y => decide (x < y.toNat)), (.vwaitGeu vs b vi mk, fun _ x y => decide (y.toNat ≤ x))]

end Sys2Proof.Claim

/-- R328, R260: a vector atomic with one active element, aligned, known and writable, reads that element's bytes at the home and
writes the new value there as one step, the element of vd receives the old value, and M15 is cleared; a `VAMO_CAS` whose
comparison fails writes nothing. Every other byte, element and mask stays.
It rests on the model's own choices of logs 11, 18 and 21. -/
def Obligations.VectorAtomics : Prop :=
  ∀ (s : State) (vd : VReg) (b : SReg) (vi : VReg) (mk : MReg) (aq rl : BitVec 1) (i : Instr) (cas : Bool) (g : Nat → Nat → Nat → Option Nat) (j loc : Nat),
    let f := cfgFmt s.me.cfg
    let w := f.width
    let q := homeOf loc
    let old := s.viewNat q .h loc (w / 8)
    (i, cas, g) ∈ vectorAtomics w vd b vi mk aq rl →
    Fits s.me [(vd, w), (vi, indexBits f)] → (cas = true → vd ≠ 31 ∧ min 256 (2048 / w * cfgSpan s.me.cfg) * w ≤ 2048) →
    f ∈ [Fmt.int32, .int64] → Calm s → picked s.me mk = [j] → (indexAt s.me b vi j).toNat % (w / 8) = 0 →
    Known s .atomic (indexAt s.me b vi j) loc → QuietHome s q →
      ∃ t, exec i s = .next t ∧ SameOthers s t ∧
        VectorOn t { s.me with v := t.me.v, m := t.me.m, clock := t.me.clock, seen := t.me.seen, seenV := t.me.seenV } ∧
        ElementsSet s.me t.me vd w (· = j) (fun _ => BitVec.ofNat 64 old) ∧
        (∀ r : MReg, t.me.mget r = if r = 15 then 0 else s.me.mget r) ∧
        match g old (s.me.elem vd.toNat w j).toNat (s.me.elem (vd.toNat + 1) w j).toNat with
        | some x => HomeBytes s t q loc (w / 8) x
        | none => SameMemory s t

/-- R329: a `VWAIT` whose active elements are aligned, known and readable goes on when every one of them has met its condition at once,
and parks in the vector unit, to execute again for the others, when one has not: the block keeps which have. It changes no
register and no memory.
It rests on the model's own choice of log 21. -/
def Obligations.VectorWaits : Prop :=
  ∀ (s : State) (vs : VReg) (b : SReg) (vi : VReg) (mk : MReg) (i : Instr) (c : Fmt → Nat → Elem → Bool) (loc : Nat → Nat),
    (i, c) ∈ vectorWaits vs b vi mk →
    let f := cfgFmt s.me.cfg
    let w := f.width
    let met := fun j => c f (s.viewNat (viewOf (slotQuarter s.cur) (loc j)) .h (loc j) (w / 8)) (s.me.elem vs.toNat w j)
    Fits s.me [(vs, w), (vi, indexBits f)] → f ∈ intFmts → Calm s →
    (∀ j, Active s.me mk j → (indexAt s.me b vi j).toNat % (w / 8) = 0 ∧ Known s .load (indexAt s.me b vi j) (loc j)) →
      ((∀ j, Active s.me mk j → met j = true) →
        ∃ t, exec i s = .next t ∧ OnlyMe s t ∧ VectorOn t { s.me with clock := t.me.clock, seen := t.me.seen, seenV := t.me.seenV }) ∧
      ((∃ j, Active s.me mk j ∧ met j = false) →
        ∃ t m n, exec i s = .next t ∧ OnlyMe s t ∧
          (let e := s.me.enterUnit
           t.me = { e with
             velem := 0
             clock := t.me.clock
             seenV := t.me.seenV
             blk := e.blk.map fun b => { b with noted := n, failed := none, wait := some ⟨.elements m, i, [], 0⟩ } }) ∧
          ∀ j, j < 256 → (m.getLsbD j = true ↔ Active s.me mk j ∧ met j = false) ∧ (n.getLsbD j = true ↔ Active s.me mk j ∧ met j = true))

/-! ## Satchels and spill frames -/

/-- R149 to R151, R142: a satchel load fills each element it acts on from its lane's window, at the base plus its index; a satchel
store leaves there the element, the highest where several address one place. Every other satchel byte, element and byte of
memory stays. An active element that is misaligned or ends beyond the window takes the satchel trap in task mode, with the lowest
such offset in `laddr` and nothing moved. -/
def Sys2Proof.Claim.SatchelForms : Prop :=
  ∀ (s : State) (v : VReg) (b : SReg) (vi : VReg) (mk : MReg),
    let f := cfgFmt s.me.cfg
    let w := f.width
    let m := w / 8
    let p := Picked s.me mk
    let off := fun j => (indexAt s.me b vi j).toNat
    let at_ := fun j => 1024 * (j % (2048 / w) * w / 64) + off j
    let good := fun j => off j % m = 0 ∧ off j + m ≤ 1024
    Fits s.me [(v, w), (vi, indexBits f)] →
      ((∀ j, p j → good j) →
        ((∀ j, p j → SoundSatchel s.me (at_ j) m) → ∃ t, exec (.satld v b vi mk) s = .next t ∧ OnlyMe s t ∧ VectorOn t { s.me with v := t.me.v } ∧
          ElementsSet s.me t.me v w p (fun j => BitVec.ofNat 64 (leNat ((List.range m).map fun k => s.me.satchel.get (at_ j + k)) % 2 ^ valueWidth f))) ∧
        (s.me.satchel.wf = true →
          ∃ t, exec (.satst v b vi mk) s = .next t ∧ OnlyMe s t ∧ VectorOn t { s.me with satchel := t.me.satchel } ∧
            (∀ j, p j → (∀ k, p k → j < k → at_ k ≠ at_ j) → ∀ k, k < m → t.me.satchel.get (at_ j + k) = byteOf (storedValue s.me f v j) k) ∧
            ∀ o, (∀ j, p j → o < at_ j ∨ at_ j + m ≤ o) → t.me.satchel.get o = s.me.satchel.get o)) ∧
      ∀ j, p j → ¬good j → (∀ k, p k → ¬good k → off j ≤ off k) → s.me.system = false →
        ∀ i, i ∈ [Instr.satld v b vi mk, .satst v b vi mk] →
          ∃ t, exec i s = .next t ∧ OnlyMe s t ∧ t.me.v = s.me.v ∧ t.me.satchel = s.me.satchel ∧ t.me.system = true ∧
            t.me.lcause = 0x109 ∧ t.me.laddr = indexAt s.me b vi j ∧ t.me.pc = s.me.ltvec + 64 * 0x09

/-- R152 to R155: `VSPILL` issues its frame in naturally aligned pieces: a header with VL, the format and the span, then the elements,
each in its container. `VFILL` of a frame whose header is one of those restores the elements under the frame's own format and
span, the rest of the group zero, whatever `vcfg` holds. Each address of the frame is known, and lies at consecutive locations.
It rests on the model's own choices of logs 5 and 21. -/
def Sys2Proof.Claim.SpillFrames : Prop :=
  ∀ (s : State) (v : VReg) (b : SReg) (loc : Nat),
    let a := scalarOperand s.me b
    let shown := fun (l n : Nat) => s.viewNat (viewOf (slotQuarter s.cur) l) .h l n
    let known := fun (k : Kind) (n : Nat) => ∀ i, i < n → Known s k (a + BitVec.ofNat 64 i) (loc + i)
    s.me.velem.getLsbD 15 = false → a.toNat % 16 = 0 → Calm s →
      (let f := cfgFmt s.me.cfg
       let c := f.width / 8
       let hdr := s.me.vl + (s.me.cfg.extractLsb' 0 4).toNat * 2 ^ 12 + (s.me.cfg.extractLsb' 4 2).toNat * 2 ^ 16
       Fits s.me [(v, f.width)] → known .write (16 + s.me.vl * c) →
         ∃ t ws, exec (.vspill v b) s = .next t ∧ VectorOn t { s.me with clock := t.me.clock } ∧
           t = { s.setMe t.me with writes := ws, issued := t.issued, freeCtr := t.freeCtr, slabForms := t.slabForms } ∧ SameMemory s t ∧
           (∀ w, w ∈ ws → w.path = .h ∧ w.cls = .vector ∧ w.slot = some s.cur ∧ w.applied = 0 ∧ w.bytes.length ≤ 8) ∧
           (ws.flatMap (·.bytes)).Perm
             (cellsAt loc (leBytes 16 hdr ++ (List.range s.me.vl).flatMap fun j => leBytes c (s.me.elem v.toNat f.width j).toNat))) ∧
      (let hdr := shown loc 8
       let n := hdr % 2 ^ 9
       let span := 2 ^ (hdr / 2 ^ 16 % 4)
       ∀ f, Fmt.ofCode (BitVec.ofNat 4 (hdr / 2 ^ 12)) = some f →
         let c := f.width / 8
         let vlmax := min 256 (2048 / f.width * span)
         hdr / 2 ^ 9 % 8 = 0 → hdr < 2 ^ 18 → shown (loc + 8) 8 = 0 → n ≤ vlmax → v.toNat + groupSize vlmax f.width ≤ 32 →
         known .load (16 + n * c) →
           ∃ t, exec (.vfill v b) s = .next t ∧ OnlyMe s t ∧ VectorOn t { s.me with v := t.me.v, clock := t.me.clock, seenV := t.me.seenV } ∧
             ElementsSet s.me t.me v f.width (fun j => f.width * j / 2048 < groupSize vlmax f.width)
               (fun j => if j < n then BitVec.ofNat 64 (shown (loc + 16 + j * c) c % 2 ^ valueWidth f) else 0))

/-- R149 to R155: the satchel forms and the spill frames.
It rests on the model's own choices of logs 5 and 21. -/
def Obligations.SatchelsAndFrames : Prop := SatchelForms ∧ SpillFrames

/-! ## Vector control and blocks (05_vector) -/

namespace Sys2Proof.Claim

/-- The most elements a configuration grants under a lane cap (R109, R111). -/
def grantCap (lanes : Nat) (cfg : Word) : Nat :=
  min (min 256 (2048 / (cfgFmt cfg).width * cfgSpan cfg)) (lanes * (64 / (cfgFmt cfg).width) * cfgSpan cfg)

/-- A block that is issued starts when the vector unit is free, else it joins the queue (R112). -/
def withBlock (h : Hart) (b : Block) : Hart := if h.blk = none then { h with blk := some b } else { h with vq := h.vq ++ [b] }

/-- The block that ends gives way to the oldest queued one (R112). -/
def blockEnded (h : Hart) : Hart :=
  match h.vq with
  | c :: r => { h with blk := some c, vq := r }
  | [] => { h with blk := none }

end Sys2Proof.Claim

/-- R108 to R115: `SETVL` without a pending pre-emption and without a donation grants the least of S[src1], VLMAX and the lane cap,
to S[dst] and the grant, and sets `velem` to 0; `VCFG` sets the configuration and cuts the grant to it; `VBLK` issues the block at
its target with all elements enabled and the grant, the configuration and the scalar registers of this moment; `VLOOP` likewise
issues as many trips as S[src1] says, and nothing for 0.
It rests on the model's own choices of logs 6 and 41. -/
def Sys2Proof.Claim.VectorControl : Prop :=
  ∀ (s : State) (d a : SReg) (fmt : BitVec 4) (span : BitVec 2) (klen : BitVec 7) (off : BitVec 14),
    let lanes := (s.core (s.cur / 4)).lanes
    let g := min (s.me.sget a).toNat (grantCap lanes s.me.vcfg)
    let c : Word := BitVec.ofNat 64 (fmt.toNat + 16 * span.toNat + 64 * klen.toNat)
    let target := s.me.pc + BitVec.ofInt 64 (4 * off.toInt)
    let vl := s.me.vlgrant.toNat % 512
    ((s.me.preempt = [] ∨ s.me.system = true) → s.donation = none →
      ∃ t, exec (.setvl d a) s = .next t ∧ OnlyMe s t ∧
        t.me = { s.me with s := t.me.s, vlgrant := BitVec.ofNat 64 g, pc := s.me.pc + 4, velem := 0, wait := none } ∧
        SameScalar s.me t.me d ∧ t.me.sget d = if d = 0 then 0 else BitVec.ofNat 64 g) ∧
    HartDone (exec (.vcfg fmt span klen) s) s { s.me with vcfg := c, vlgrant := BitVec.ofNat 64 (min s.me.vlgrant.toNat (grantCap lanes c)) } ∧
    HartDone (exec (.vblk off) s) s (withBlock s.me ⟨target, false, none, 1, BitVec.allOnes 256, [], vl, s.me.vcfg, some s.me.s, [], 0, none, none⟩) ∧
    HartDone (exec (.vloop a off) s) s (if s.me.sget a = 0 then s.me
      else withBlock s.me ⟨target, false, some target, (s.me.sget a).toNat, BitVec.allOnes 256, [], vl, s.me.vcfg, some s.me.s, [], 0, none, none⟩)

/-- R116 to R118: inside a block `VB` branches as a whole where no active element stays, goes on where none leaves, and splits the
fragment otherwise, the leaving part pending; a ninth pending fragment takes the fragment trap in task mode. `VSTOP` resumes
the latest pending fragment; without one the trip of a `VLOOP` ends and the next begins, or the block ends. Outside a block
both are illegal. -/
def Sys2Proof.Claim.VectorBranches : Prop :=
  ∀ (s : State) (mk : MReg) (off : BitVec 16),
    (s.me.blk = none → s.me.system = false → ∀ i, i ∈ [Instr.vb mk off, .vstop] →
      ∃ w, encode i = some w ∧ TrapTaken (exec i s) s 0x01 s.me.pc (BitVec.ofNat 64 w.toNat)) ∧
    ∀ b, s.me.blk = some b → b.implied = false → s.me.velem.getLsbD 15 = false →
      let target := b.pc + BitVec.ofInt 64 (4 * off.toInt)
      let becomes := fun (i : Instr) (h : Hart) => ∃ t, exec i s = .next t ∧ OnlyMe s t ∧ t.me = { h with velem := 0 }
      let standing := fun (pc : Word) => { b with pc := pc, noted := 0, failed := none, wait := none }
      let goes := fun (j : Nat) => j < b.vl ∧ b.frag.getLsbD j = true ∧ (s.me.mget mk).getLsbD j = true
      let stays := fun (j : Nat) => j < b.vl ∧ b.frag.getLsbD j = true ∧ (s.me.mget mk).getLsbD j = false
      ((∀ l, b.loop = some l → (target - l).toNat < 256 ∧ (target - l).toNat % 4 = 0) →
        ((∀ j, ¬goes j) → becomes (.vb mk off) { s.me with blk := some (standing (b.pc + 4)) }) ∧
        ((∃ j, goes j) → (∀ j, ¬stays j) → becomes (.vb mk off) { s.me with blk := some (standing target) }) ∧
        ((∃ j, goes j) → (∃ j, stays j) → b.pending.length < 8 →
          ∃ x y : MWord, (∀ j, j < 256 → (x.getLsbD j = true ↔ goes j)) ∧ (∀ j, j < 256 → (y.getLsbD j = true ↔ stays j)) ∧
            becomes (.vb mk off) { s.me with blk := some { standing (b.pc + 4) with frag := y, pending := (target, x) :: b.pending } }) ∧
        ((∃ j, goes j) → (∃ j, stays j) → 8 ≤ b.pending.length → s.me.system = false →
          ∃ t, exec (.vb mk off) s = .next t ∧ OnlyMe s t ∧ t.me.lcause = 0x10B ∧ t.me.lepc = b.pc ∧ t.me.lvelem = 0 ∧ t.me.system = true ∧
            t.me.vrs = some ⟨s.me.pc, { b with wait := none, buffer := [], captured := if b.loop = none then none else b.captured }, s.me.vq⟩ ∧ t.me.pc = s.me.ltvec + 64 * 0x0B)) ∧
      (∀ pc m r, b.pending = (pc, m) :: r → becomes .vstop { s.me with blk := some { standing pc with frag := m, pending := r } }) ∧
      (b.pending = [] → (b.loop = none ∨ b.trips ≤ 1) → becomes .vstop (blockEnded s.me)) ∧
      (∀ l, b.pending = [] → b.loop = some l → 1 < b.trips →
        becomes .vstop { s.me with blk := some { standing l with frag := BitVec.allOnes 256, trips := b.trips - 1 } })

/-- R109 to R121: grants and configurations, blocks, loops and fragment masks, and the branches on them.
It rests on the model's own choices of logs 6 and 41. -/
def Obligations.VectorStreams : Prop := VectorControl ∧ VectorBranches

/-! ## Polynomial registers (08_polynomial) -/

namespace Sys2Proof.Claim

/-- A descriptor keeps the limits of R161 and R162. -/
def GoodDesc (d : Word) : Prop :=
  (dDim d = 1 ∨ dDim d = 2) ∧ dDeg d ≤ dLim d ∧ dCount d ≤ min 64 (1024 / (dLim d + 1) ^ dDim d)

/-- The bits of a descriptor that no field has (R161). -/
def descSpare (d : Word) : Word := d &&& ~~~0x37F1FF3#64

/-- The code of the mode (j, k) of element `i`, at its slot (R162). -/
def polySlot (h : Hart) (r : PReg) (i k j : Nat) : BitVec 32 :=
  (h.pget r).extractLsb' (32 * (i * (dLim (h.dget r) + 1) ^ dDim (h.dget r) + j + (dLim (h.dget r) + 1) * k)) 32

/-- A mode up to the degree; beyond it an element has none. -/
def polyMode (h : Hart) (r : PReg) (i k j : Nat) : Elem :=
  if j ≤ dDeg (h.dget r) ∧ k ≤ (if dDim (h.dget r) = 2 then dDeg (h.dget r) else 0) then (polySlot h r i k j).zeroExtend 64 else 0

/-- Only the polynomial registers, descriptors and flags differ, and the hart goes on. -/
def PolyOn (s t : State) : Prop :=
  OnlyMe s t ∧ t.me = { s.me with p := t.me.p, d := t.me.d, fmode := t.me.fmode, pc := s.me.pc + 4, velem := velemAfter s.me, wait := none }

end Sys2Proof.Claim

/-- R163, R164: `PSETD` of a value within the limits writes the descriptor, whose sticky bits only clear; `PSETVL` writes the least of
S[dst] and what the layout holds to the count and to S[dst]. A value outside the limits takes the polynomial trap in task mode,
with the value in `laddr`.
It rests on the model's own choice of log 41. -/
def Sys2Proof.Claim.PolynomialDescriptors : Prop :=
  ∀ (s : State) (r : PReg) (a : SReg),
    s.me.velem.getLsbD 15 = false →
    let x := s.me.sget a
    let d := s.me.dget r
    let set := fun (i : Instr) (y : Word) (t : State) => exec i s = .next t ∧ OnlyMe s t ∧ t.me.dget r = y ∧
      (∀ q, q ≠ r → t.me.dget q = s.me.dget q) ∧
      t.me = { s.me with s := t.me.s, d := t.me.d, pc := s.me.pc + 4, velem := velemAfter s.me, wait := none }
    (GoodDesc x → descSpare x = 0 →
      ∃ t, set (.psetd r a) ((x &&& 0x07F1FF3) ||| (x &&& d &&& 0x3000000)) t ∧ t.me.s = s.me.s) ∧
    ((¬GoodDesc x ∨ descSpare x ≠ 0) → s.me.system = false → TrapTaken (exec (.psetd r a) s) s 0x0C s.me.pc x) ∧
    ((dDim d = 1 ∨ dDim d = 2) → dDeg d ≤ dLim d →
      let n := min x.toNat (min 64 (1024 / (dLim d + 1) ^ dDim d))
      ∃ t y, set (.psetvl a r) y t ∧ SameScalar s.me t.me a ∧ t.me.sget a = (if a = 0 then 0 else BitVec.ofNat 64 n) ∧
        dCount y = n ∧ ∀ k, k < 16 ∨ 23 ≤ k → y.getLsbD k = d.getLsbD k)

/-- R184, R185: `PLD` of a good frame, every byte known at consecutive locations, takes the header as the descriptor and fills the
modes of its elements, +0 everywhere else; `PST` issues the header, eight zero bytes and the modes up to the degree.
It rests on the model's own choices of logs 5, 21 and 41. -/
def Obligations.PolynomialMemory : Prop :=
  ∀ (s : State) (r : PReg) (b : SReg) (loc : Nat),
    let a := s.me.sget b
    let shown := fun (l n : Nat) => s.viewNat (viewOf (slotQuarter s.cur) l) .h l n
    let known := fun (k : Kind) (n : Nat) => ∀ i, i < n → Known s k (a + BitVec.ofNat 64 i) (loc + i)
    a.toNat % 16 = 0 → Calm s → s.me.velem.getLsbD 15 = false →
      (let d := BitVec.ofNat 64 (shown loc 8)
       let m := (dDeg d + 1) ^ dDim d
       GoodDesc d → descSpare d = 0 → shown (loc + 8) 8 = 0 → known .load (16 + 4 * dCount d * m) →
         ∃ t, exec (.pld r b) s = .next t ∧ OnlyMe s t ∧ MovesOn s t 0 0 (fun h => { h with p := t.me.p, d := t.me.d }) ∧ t.me.dget r = d ∧
           (∀ i k j, k < (if dDim d = 2 then dLim d + 1 else 1) → j ≤ dLim d → i < dCount d →
             polySlot t.me r i k j =
               if k ≤ dDeg d ∧ j ≤ dDeg d then BitVec.ofNat 32 (shown (loc + 16 + 4 * (i * m + j + (dDeg d + 1) * k)) 4) else 0) ∧
           (∀ k, 32 * dCount d * (dLim d + 1) ^ dDim d ≤ k → (t.me.pget r).getLsbD k = false) ∧
           ∀ p, p ≠ r → t.me.pget p = s.me.pget p ∧ t.me.dget p = s.me.dget p) ∧
      (let d := s.me.dget r
       let els := (List.range (dCount d)).flatMap fun e => (s.me.polySrc r e).flatten
       known .write (16 + 4 * els.length) →
         ∃ t ws, exec (.pst r b) s = .next t ∧ MovesOn s t 0 0 id ∧
           t = { s.setMe t.me with writes := ws, issued := t.issued, freeCtr := t.freeCtr, slabForms := t.slabForms } ∧ SameMemory s t ∧
           (∀ w, w ∈ ws → w.path = .h ∧ w.cls = .scalar ∧ w.slot = some s.cur ∧ w.applied = 0) ∧
           (ws.flatMap (·.bytes)).Perm (cellsAt loc (leBytes 8 d.toNat ++ leBytes 8 0 ++ els.flatMap fun e => leBytes 4 e.toNat)))

namespace Sys2Proof.Claim

/-- An element whose result is settled as a whole (R168): a NaN input makes all NaN without a flag, an infinite one the canonical NaN
with invalid; else the exact value rounded once. -/
def settled (e : Env) (ins : List Elem) (x : Q) : Elem × FlagSet :=
  if ins.any (isNaNElem .fp32) then ((settleNaN .fp32 e (ins.map (decodeNum .fp32))).1, 0)
  else if ins.any fun i => (decodeNum .fp32 i).isInf then (canonNaN .fp32, 0b00001)
  else roundQ .fp32 e x false

/-- A form that writes a polynomial register: its sources, its checks 2 and 4 (R166), the degree of its untruncated result, whether a
loss sets the aliasing bit, and mode (j, k) of element `i` of the result. -/
structure PolyForm where
  instr : Instr
  srcs : List PReg
  ok : Prop
  full : Nat
  aliases : Bool
  mode : Nat → Nat → Nat → Elem × FlagSet

/-- Registers of one dimension and basis. -/
def Alike (h : Hart) (p q : PReg) : Prop := dDim (h.dget p) = dDim (h.dget q) ∧ dBasis (h.dget p) = dBasis (h.dget q)

/-- The forms of R170 to R179, R182 and R183; the exact expansions are the model's own functions of 08_polynomial. -/
def polyForms (h : Hart) (pd pa pb : PReg) (v : VReg) (dir basis : BitVec 1) (deg : BitVec 4) (face : BitVec 2) (mk : MReg) : List PolyForm :=
  let e := rounding 0 h.fmode
  let x := polyMode h pa
  let y := polyMode h pb
  let da := dDeg (h.dget pa)
  let db := dDeg (h.dget pb)
  let dim := dDim (h.dget pa)
  let lim := dLim (h.dget pd)
  let one := Alike h pa pd
  let two := Alike h pa pd ∧ Alike h pb pd
  let ba := dBasis (h.dget pa)
  let src := fun (p : PReg) i => h.polySrc p i
  let whole := fun (g : Modes2 → Modes2) i k j => settled e (src pa i).flatten (modeOf Q.zero (g (exactModes (src pa i))) k j)
  let product := fun (g : Modes2 → Modes2) i k j =>
    settled e ((src pa i).flatten ++ (src pb i).flatten) (modeOf Q.zero (g (exactProduct ba (exactModes (src pa i)) (exactModes (src pb i)))) k j)
  let copy := fun (c : Elem) => convert .fp32 .fp32 e c
  let line := dim = 2 ∨ dir = 0
  let turn := fun (m : Modes2) =>
    let f := modesMap fun k => (basisIn ba basis da).getD k []
    if dim = 2 then along 1 f (along 0 f m) else along 0 f m
  let upwind := fun (u a b : Elem) =>
    let n := decodeNum .fp32 u
    if isNaNElem .fp32 u then settleNaN .fp32 e [decodeNum .fp32 a, decodeNum .fp32 b, n] else if n.isZero then halfSum e a b else if n.neg then copy b else copy a
  [⟨.padd pd pa pb mk, [pa, pb], two, max da db, false, fun i k j => fpArith .add .fp32 e (x i k j) (y i k j)⟩,
   ⟨.psub pd pa pb mk, [pa, pb], two, max da db, false, fun i k j => fpArith .sub .fp32 e (x i k j) (y i k j)⟩,
   ⟨.pscal pd pa v mk, [pa], one, da, false, fun i k j => fpArith .mul .fp32 e (x i k j) (h.elem v.toNat 32 i)⟩,
   ⟨.pmul pd pa pb mk, [pa, pb], two, da + db, false, product fun m => m⟩,
   ⟨.pmulc pd pa pb mk, [pa, pb], two, da + db, lim != 0, product fun m => if lim = 0 then m else collocate ba lim dim m⟩,
   ⟨.pdiff pd pa dir mk, [pa], one ∧ line, if dim = 2 then da else da - 1, false, whole (along dir.toNat (modesDiff ba))⟩,
   ⟨.pint pd pa dir mk, [pa], one ∧ line, da + 1, false, whole (along dir.toNat (modesMap (antiderivative ba)))⟩,
   ⟨.pfit pd pa mk, [pa], one, da, false, whole (applyMatrix (matrixF ba da) dim)⟩,
   ⟨.pnode pd pa mk, [pa], one, da, false, whole (applyMatrix (matrixV ba da) dim)⟩,
   ⟨.pproj pd pa deg mk, [pa], one ∧ deg.toNat ≤ lim, min deg.toNat da, false, fun i k j => copy (x i k j)⟩,
   ⟨.plift pd pa deg mk, [pa], one ∧ deg.toNat ≤ lim ∧ da ≤ deg.toNat, deg.toNat, false, fun i k j => copy (x i k j)⟩,
   ⟨.pconv pd pa basis mk, [pa], dDim (h.dget pd) = dim ∧ dBasis (h.dget pd) = basis, da, false,
     if ba = basis then fun i k j => copy (x i k j) else whole turn⟩,
   ⟨.pfaceAvg pd pa pb mk, [pa, pb], two, max da db, false, fun i k j => halfSum e (x i k j) (y i k j)⟩,
   ⟨.pfaceJump pd pa pb mk, [pa, pb], two, max da db, false, fun i k j => fpArith .sub .fp32 e (x i k j) (y i k j)⟩,
   ⟨.pfaceUp pd pa pb v mk, [pa, pb], two, max da db, false, fun i k j => upwind (h.elem v.toNat 32 i) (x i k j) (y i k j)⟩,
   ⟨.ptrace pd 0 pa face mk, [pa], dim = 2 ∧ dDim (h.dget pd) = 1 ∧ dBasis (h.dget pd) = ba, da, false,
     whole fun m => [((if face.getLsbD 1 then swap2 m (width2 m) else m)).map (contract (faceSign (face.getLsbD 0)))]⟩]

end Sys2Proof.Claim

/-- R165 to R168 for the forms that write a polynomial register: with good descriptors, enough elements in the sources and the form's
own checks passed, every active element takes its result up to the least of the full degree and the limit, +0 above; inactive
elements stay; the degree becomes that degree (with an inactive element, at least the old one); what is cut off sets a sticky
bit; the flags accrue. Every other register stays.
It rests on the model's own choices of logs 30, 41 and 47. -/
def Obligations.PolynomialForms : Prop :=
  ∀ (s : State) (pd pa pb : PReg) (v : VReg) (dir basis : BitVec 1) (deg : BitVec 4) (face : BitVec 2) (mk : MReg) (a : PolyForm),
    a ∈ polyForms s.me pd pa pb v dir basis deg face mk →
    let d := s.me.dget pd
    let n := dCount d
    let r := min a.full (dLim d)
    let act := fun i => i < n ∧ (s.me.mget mk).getLsbD i = true
    let some_ := ∃ i, act i
    let top := if dDim d = 2 then r else 0
    s.me.velem.getLsbD 15 = false → (∀ p, p ∈ pd :: a.srcs → GoodDesc (s.me.dget p)) → (∀ p, p ∈ a.srcs → n ≤ dCount (s.me.dget p)) → a.ok →
      ∃ t, exec a.instr s = .next t ∧ PolyOn s t ∧ (∀ p, p ≠ pd → t.me.pget p = s.me.pget p ∧ t.me.dget p = s.me.dget p) ∧
        (∀ i k j, i < n → k < (if dDim d = 2 then dLim d + 1 else 1) → j ≤ dLim d →
          (t.me.pget pd).extractLsb' (32 * (i * (dLim d + 1) ^ dDim d + j + (dLim d + 1) * k)) 32 =
            if (s.me.mget mk).getLsbD i then (if k ≤ top ∧ j ≤ r then BitVec.ofNat 32 (a.mode i k j).1.toNat else 0) else polySlot s.me pd i k j) ∧
        (∀ k, 32 * n * (dLim d + 1) ^ dDim d ≤ k → (t.me.pget pd).getLsbD k = (s.me.pget pd).getLsbD k) ∧
        ((∀ i, i < n → act i) → dDeg (t.me.dget pd) = r) ∧ ((∃ i, i < n ∧ ¬act i) → dDeg (t.me.dget pd) = max r (dDeg d)) ∧
        (∀ k, k < 4 ∨ 8 ≤ k → ((t.me.dget pd).getLsbD k = true ↔
          d.getLsbD k = true ∨ (k = (if a.aliases then 25 else 24) ∧ dLim d < a.full ∧ some_))) ∧
        FlagsOf s.me t.me (fun i => act i) (fun i =>
          ((List.range (top + 1)).flatMap fun k => (List.range (r + 1)).map fun j => (a.mode i k j).2).foldl (· ||| ·) 0)

namespace Sys2Proof.Claim

/-- A form that writes the elements of a vector register below `n`: its checks, and element `i` (R176, R178, R180, R181). -/
structure PolyValueForm where
  instr : Instr
  ok : Prop
  n : Nat
  value : Nat → Elem × FlagSet

def polyValues (h : Hart) (vd : VReg) (pa : PReg) (face : BitVec 2) (mk : MReg) : List PolyValueForm :=
  let e := rounding 0 h.fmode
  let d := h.dget pa
  let b := dBasis d
  let two := dDim d = 2
  let point := cfgFmt h.vcfg = .fp32 ∧ cfgSpan h.vcfg = 1
  let vl := h.vlgrant.toNat % 512
  let at_ := fun el i =>
    let x := h.polySrc pa el
    let px := h.elem vd.toNat 32 i
    let py := h.elem (vd.toNat + 1) 32 i
    settled e (x.flatten ++ (if two then [px, py] else [px]))
      (let r := (exactModes x).map fun c => valueAt b c (exactOf px)
       if two then valueAt b r (exactOf py) else r.getD 0 Q.zero)
  let even := dDim d = 1 ∨ vd.toNat % 2 = 0
  [⟨.pintd vd pa mk, True, dCount d, fun i =>
     let r := (exactModes (h.polySrc pa i)).map (contract (basisIntegral b))
     settled e (h.polySrc pa i).flatten (if two then contract (basisIntegral b) r else r.getD 0 Q.zero)⟩,
   ⟨.ptrace 0 vd pa face mk, dDim d = 1 ∧ face.getLsbD 1 = false, dCount d, fun i =>
     settled e (h.polySrc pa i).flatten (contract (faceSign (face.getLsbD 0)) ((exactModes (h.polySrc pa i)).getD 0 []))⟩,
   ⟨.peval vd pa mk, even, dCount d, fun i => at_ i i⟩,
   ⟨.pevalb vd pa mk, 1 ≤ dCount d ∧ even ∧ point, vl, fun i => at_ 0 i⟩,
   ⟨.pevalx vd pa mk, dDim d = 1 ∧ point, vl, fun i =>
     let el := (h.elem (vd.toNat + 1) 32 i).toNat
     if dCount d ≤ el then (0, 0) else at_ el i⟩]

end Sys2Proof.Claim

/-- R165, R168, R176, R178, R180, R181 for the forms that give one value an element: each active element below the count (of the point
forms, below the grant) takes its integral, trace or value, rounded once; the flags accrue, and every other register stays.
It rests on the model's own choices of logs 30, 41 and 47. -/
def Obligations.PolynomialValues : Prop :=
  ∀ (s : State) (vd : VReg) (pa : PReg) (face : BitVec 2) (mk : MReg) (a : PolyValueForm), a ∈ polyValues s.me vd pa face mk →
    let p := fun i => i < a.n ∧ i < 64 ∧ (s.me.mget mk).getLsbD i = true
    s.me.velem.getLsbD 15 = false → GoodDesc (s.me.dget pa) → a.ok →
      ∃ t, exec a.instr s = .next t ∧ OnlyMe s t ∧
        t.me = { s.me with v := t.me.v, fmode := t.me.fmode, pc := s.me.pc + 4, velem := velemAfter s.me, wait := none } ∧
        ElementsSet s.me t.me vd 32 p (fun i => (a.value i).1) ∧ FlagsOf s.me t.me p (fun i => (a.value i).2)

/-- R166, R370: the checks in their order: a start index with the mark of R147 is illegal; a bad descriptor among those a sum names takes the polynomial trap with value 1, registers of
different dimension or basis with 2, a source of too few elements with 3; nothing is written. -/
def Sys2Proof.Claim.PolynomialChecks : Prop :=
  ∀ (s : State) (pd pa pb : PReg) (mk : MReg) (i : Instr), i ∈ [Instr.padd pd pa pb mk, .psub pd pa pb mk, .pmul pd pa pb mk, .pfaceAvg pd pa pb mk] →
    let good := ∀ p, p ∈ [pd, pa, pb] → GoodDesc (s.me.dget p)
    let alike := Alike s.me pa pd ∧ Alike s.me pb pd
    s.me.system = false →
      (s.me.velem.getLsbD 15 = true → ∃ w, encode i = some w ∧ TrapTaken (exec i s) s 0x01 s.me.pc (BitVec.ofNat 64 w.toNat)) ∧
      (s.me.velem.getLsbD 15 = false →
      (¬good → TrapTaken (exec i s) s 0x0C s.me.pc 1) ∧ (good → ¬alike → TrapTaken (exec i s) s 0x0C s.me.pc 2) ∧
      (good → alike → (dCount (s.me.dget pa) < dCount (s.me.dget pd) ∨ dCount (s.me.dget pb) < dCount (s.me.dget pd)) →
        TrapTaken (exec i s) s 0x0C s.me.pc 3))

/-- R163, R164, R166: descriptors are set within their limits, and the checks of the sums refuse in their order.
It rests on the model's own choice of log 41. -/
def Obligations.PolynomialSetting : Prop := PolynomialDescriptors ∧ PolynomialChecks

/-! ## The matrix array and the tiles (09_matrix, 10_tiles) -/

namespace Sys2Proof.Claim

/-- The core of the executing hart. -/
def coreNo (s : State) : Nat := s.cur / 4

/-- The array is the hart's, or free with no scan image to bring in (R200, R219). -/
def ArrayOpen (s : State) : Prop :=
  (s.core (coreNo s)).owner = some s.cur ∨ ((s.core (coreNo s)).owner = none ∧ s.me.image = false)

/-- The latches as the hart finds them: at an acquisition both as at reset (R200). -/
def frontOf (s : State) : Latch := if (s.core (coreNo s)).owner = some s.cur then (s.core (coreNo s)).front else Latch.reset
def backOf (s : State) : Latch := if (s.core (coreNo s)).owner = some s.cur then (s.core (coreNo s)).back else Latch.reset

/-- The hart owns the array, whose latches are as given, and no step that a freeze left is in flight any more (R213, R219); no other core, no
other hart and no byte of memory changes. -/
def ArrayNow (s t : State) (front back : Latch) : Prop :=
  (∃ cs, t = { s.setMe t.me with cores := cs }) ∧ SameMemory s t ∧ (∀ q, q ≠ coreNo s → t.core q = s.core q) ∧
    t.core (coreNo s) = { s.core (coreNo s) with
      owner := some s.cur
      front := front
      back := back
      flight := none }

/-- Byte `i` of the panel at weight offset `off` of a core, as the X path of its quarter shows it (R198, R250). -/
def weightByte (s : State) (o : Nat) : Byte := s.viewByte (coreNo s / 64) .x (0x1000000000000 + 0x2000000 * coreNo s + o)

/-- The latch holds the panel at `off` with the scales at `soff` (R202). -/
def HoldsPanel (s : State) (l : Latch) (off soff : Nat) (fmt : BitVec 4) : Prop :=
  l.fmt = fmt ∧ (∀ i, i < 4096 → l.bytes.extractLsb' (8 * i) 8 = weightByte s (off + i)) ∧
    ∀ c b, c < 64 → b < 4 → l.scale.extractLsb' (8 * (4 * c + b)) 8 =
      if b < weightScales fmt then weightByte s (soff / 4096 * 4096 + 64 * c + soff % 64 + b) else 0x7F#8

/-- The tile `zd` takes new words in the rows `p` picks; its other words and the other tiles stay (R206). -/
def TileSet (g h : Hart) (zd : ZReg) (p : Nat → Prop) (f : Nat → Nat → BitVec 32 → BitVec 32 × FlagSet) : Prop :=
  (∀ r c, r < 32 → c < 64 → p r → zWord (h.zget zd) r c = (f r c (zWord (g.zget zd) r c)).1) ∧
  (∀ r c, r < 32 → c < 64 → ¬p r → zWord (h.zget zd) r c = zWord (g.zget zd) r c) ∧ (∀ z, z ≠ zd → h.zget z = g.zget z) ∧
  FlagsOf g h (fun n => n < 2048 ∧ p (n / 64)) (fun n => (f (n / 64) (n % 64) (zWord (g.zget zd) (n / 64) (n % 64))).2)

/-- A signed or unsigned byte (R28). -/
def byteInt (fmt : BitVec 4) (b : BitVec 8) : Int := if Fmt.ofCode fmt = some .uint8 then (b.toNat : Int) else b.toInt

end Sys2Proof.Claim

/-- R200 to R203: outside a recess and with the array open `WLOAD` of an accepted format and offsets within weight space fills the
back latch with the panel and its scales, and `WSWAP` exchanges the latches; an acquisition resets both first.
It rests on the model's own choices of logs 7, 29 and 41. -/
def Obligations.WeightLoads : Prop :=
  ∀ (s : State) (o sc : SReg) (fmt : BitVec 4),
    let off := (s.me.sget o).toNat
    let soff := (s.me.sget sc).toNat
    let nb := weightScales fmt
    ArrayOpen s →
      (mcls fmt ≠ none → off % 4096 = 0 → off < 2 ^ 25 → (nb ≠ 0 → soff < 2 ^ 25 ∧ soff / 64 % 64 = 0 ∧ soff % 64 % nb = 0) →
        s.recess.start = none → s.soft = [] →
        ∃ t l, exec (.wload o sc fmt) s = .next t ∧ ArrayNow s t (frontOf s) l ∧ HoldsPanel s l off soff fmt ∧ MovesOn s t 0 0 id) ∧
      ∃ t, exec .wswap s = .next t ∧ ArrayNow s t (backOf s) (frontOf s) ∧ MovesOn s t 0 0 id

/-- R204 to R207, R209: with the array open, `MMA` of the front latch's class adds to each word of its active rows the exact sum of
products under the rounding of R206, and the words of the integer class are the wrapped sum over the K length; `MOPA` adds the
product of one element of each operand, in one rounding. Flags accrue; every other word, tile and register stays.
It rests on the model's own choices of logs 7, 19 and 41. -/
def Obligations.MatrixProducts : Prop :=
  ∀ (s : State) (zd : ZReg) (va vb : VReg) (mk : MReg) (fmt : BitVec 4),
    let h := s.me
    let grant := h.vlgrant.toNat % 512
    let sat := h.fmode.getLsbD 2
    let latch := frontOf s
    let done := fun (i : Instr) (p : Nat → Prop) (f : Nat → Nat → BitVec 32 → BitVec 32 × FlagSet) =>
      ∃ t, exec i s = .next t ∧ ArrayNow s t (frontOf s) (backOf s) ∧
        MovesOn s t 0 0 (fun h => { h with z := t.me.z, fmode := t.me.fmode }) ∧ TileSet s.me t.me zd p f
    let rows := min 32 (grant * (cfgFmt h.vcfg).width / 512)
    let row := fun (n : Nat) (r : Nat) => r < n ∧ (h.mget mk).getLsbD r = true
    let sum := fun (r c : Nat) => ((List.range (min 64 (cfgKlen h.vcfg))).map fun k =>
      byteInt fmt ((h.vget (va.toNat + r / 4)).extractLsb' (512 * (r % 4) + 8 * k) 8) * byteInt latch.fmt (latch.bytes.extractLsb' (512 * c + 8 * k) 8)).sum
    let ints := fun (c : BitVec 4) => Fmt.ofCode c = some .int8 ∨ Fmt.ofCode c = some .uint8
    ArrayOpen s → h.wait = none →
      (va.toNat + (rows + 3) / 4 ≤ 32 → mcls fmt ≠ none → mcls fmt = mcls latch.fmt →
        done (.mma zd va mk fmt 0) (row rows) (fun r c z => accumulate (intClass fmt) sat z ((h.mmaHalf va mk fmt latch).blocks r c)) ∧
        (ints fmt → sat = false → done (.mma zd va mk fmt 0) (row rows) (fun r c z => (BitVec.ofInt 32 (z.toInt + sum r c), 0)))) ∧
      ∀ f, Fmt.ofCode fmt = some f → f ∈ [Fmt.fp16, .bf16, .fp32, .int8, .uint8, .int16] →
        done (.mopa zd va vb mk fmt) (row (min 32 grant)) (fun r c z => mopaWord f sat (h.elem va.toNat f.width r) (h.elem vb.toNat f.width c) z) ∧
        (f ∈ intFmts → sat = false → done (.mopa zd va vb mk fmt) (row (min 32 grant)) (fun r c z =>
          (BitVec.ofInt 32 (z.toInt + asInt f (h.elem va.toNat f.width r) * asInt f (h.elem vb.toNat f.width c)), 0)))

/-- R210: `ZCLR` zeroes a tile; with S[sR] below 32 `ZRD` copies a row of 64 words to a vector register and `ZWR` one back, and `ZCVT`
writes the row's words converted to a format, element c from word c, the unused bits of the register zero. In task mode a row number
of 32 or more takes the matrix trap, a second register beyond V31 the illegal-instruction trap, E8M0 and S12 the
unsupported-format trap, each with `lvelem` 0 (R222). It rests on the model's own choice of log 41. -/
def Obligations.TileRows : Prop :=
  ∀ (s : State) (v : VReg) (z : ZReg) (r : SReg) (fmt : BitVec 4),
    let x := (s.me.sget r).toNat
    let same := fun (t : State) => ∀ y, y ≠ z → t.me.zget y = s.me.zget y
    let whole := s.setMe { s.me with velem := 0 }
    let keep := fun (t : State) (n : Nat) => ∀ q, q < 32 → (q < v.toNat ∨ v.toNat + n ≤ q) → t.me.vget q = s.me.vget q
    (∃ t, exec (.zclr z) s = .next t ∧ OnlyMe s t ∧ MovesOn s t 0 0 (fun h => { h with z := t.me.z }) ∧ t.me.zget z = 0 ∧ same t) ∧
    (x < 32 →
      (∃ t, exec (.zrd v z r) s = .next t ∧ OnlyMe s t ∧ MovesOn s t 0 0 (fun h => { h with v := t.me.v }) ∧
        (∀ c, c < 64 → (t.me.vget v.toNat).extractLsb' (32 * c) 32 = zWord (s.me.zget z) x c) ∧ keep t 1) ∧
      (∃ t, exec (.zwr z v r) s = .next t ∧ OnlyMe s t ∧ MovesOn s t 0 0 (fun h => { h with z := t.me.z }) ∧ same t ∧
        ∀ q c, q < 32 → c < 64 → zWord (t.me.zget z) q c = if q = x then (s.me.vget v.toNat).extractLsb' (32 * c) 32 else zWord (s.me.zget z) q c) ∧
      ∀ f, Fmt.ofCode fmt = some f → f ≠ .e8m0 → f ≠ .s12 → (f.width = 64 → v ≠ 31) →
        let word := fun (c : Nat) => (zWord (s.me.zget z) x c).zeroExtend 64
        let e := fun (c : Nat) =>
          if f = .fp32 ∨ f = .int32 then (word c, (0 : FlagSet)) else convert (if f ∈ intFmts then .int32 else .fp32) f (rounding 0 s.me.fmode) (word c)
        ∃ t, exec (.zcvt v z r fmt) s = .next t ∧ OnlyMe s t ∧ MovesOn s t 0 0 (fun h => { h with v := t.me.v, fmode := t.me.fmode }) ∧
          (∀ c, c < 64 → t.me.elem v.toNat f.width c = BitVec.ofNat 64 ((e c).1.toNat % 2 ^ valueWidth f)) ∧
          (∀ k, 64 * f.width ≤ k → (t.me.vget v.toNat).getLsbD k = false) ∧ keep t (if f.width = 64 then 2 else 1) ∧
          FlagsOf s.me t.me (· < 64) (fun c => (e c).2)) ∧
    (s.me.system = false →
      (32 ≤ x → ∀ i, i ∈ [Instr.zrd v z r, .zwr z v r] → TrapTaken (exec i s) whole 0x0D s.me.pc (s.me.sget r)) ∧
      ∀ f w, Fmt.ofCode fmt = some f → encode (.zcvt v z r fmt) = some w →
        let trap := TrapTaken (exec (.zcvt v z r fmt) s) whole
        (f.width = 64 → v = 31 → trap 0x01 s.me.pc (BitVec.ofNat 64 w.toNat)) ∧
        ((f = .e8m0 ∨ f = .s12) → trap 0x08 s.me.pc (BitVec.ofNat 64 w.toNat)) ∧
        (f ≠ .e8m0 → f ≠ .s12 → (f.width = 64 → v ≠ 31) → 32 ≤ x → trap 0x0D s.me.pc (s.me.sget r)))

/-- R211 to R213: `TGEMM` with its checks passed takes the array, loads and swaps in panel 0 and stands at step 1. A step j whose tile is
ready adds the product of the tile's rows and panel j − 1 to the accumulator tile, swaps in the next panel, and stands at the next
step; the last one completes the instruction. Stated for a front latch of the operand's class (R204) and an array that holds no freeze of this very step.
It rests on the model's own choices of logs 7 and 41. -/
def Obligations.TiledProducts : Prop :=
  ∀ (s : State) (zd : ZReg) (dsc : SReg) (fmt : BitVec 4),
    let i := Instr.tgemm zd dsc fmt 0
    let k := coreNo s
    let c := s.core k
    (∀ loc, Calm s → s.me.velem = 0 → (s.me.sget dsc).toNat % 32 = 0 → Known s .load (s.me.sget dsc) loc → ArrayOpen s →
      let desc := BitVec.ofNat 256 (s.viewNat (viewOf (slotQuarter s.cur) loc) .h loc 32)
      let d := Desc.of desc
      let tl := c.tile d.tile
      mcls fmt ≠ none → mcls fmt = mcls d.wfmt → d.bad = false → tl.state ≠ .free → s.foreignTile tl = false →
      d.aOff + (d.panels - 1) * d.aStride + 64 * d.rows ≤ tl.size →
        ∃ t l, exec i s = .next t ∧ ArrayNow s t l (frontOf s) ∧ HoldsPanel s l d.wBase (d.scaleAt 0) d.wfmt ∧
          t.me = { s.me with velem := 1, wait := some ⟨.tile desc, i, [], 0⟩, clock := t.me.clock, seen := t.me.seen }) ∧
    ∀ desc j f n, s.me.wait = some ⟨.tile desc, j, f, n⟩ → s.recess.start = none → s.soft = [] → c.owner = some s.cur →
      let d := Desc.of desc
      let tl := c.tile d.tile
      let step := s.me.velem.toNat
      mcls fmt = mcls c.front.fmt → (∀ f, c.flight = some f → f.is zd desc fmt step = false) → 1 ≤ step → step ≤ d.panels → d.rows ≤ 32 → tl.state = .ready → s.foreignTile tl = false →
        ∃ t l, exec i s = .next t ∧
          TileSet s.me t.me zd (· < d.rows) (fun r q z => accumulate (intClass fmt) (s.me.fmode.getLsbD 2) z ((s.tgemmHalf k d fmt step).blocks r q)) ∧
          let after := { s.me with z := t.me.z, fmode := t.me.fmode, clock := t.me.clock, seen := t.me.seen, seenV := t.me.seenV }
          if step < d.panels then
            ArrayNow s t l c.front ∧ HoldsPanel s l (d.wBase + 4096 * step) (d.scaleAt step) d.wfmt ∧
              t.me = { after with velem := BitVec.ofNat 64 (step + 1), wait := some ⟨.tile desc, i, [], 0⟩ }
          else ArrayNow s t c.front c.back ∧ t.me = { after with velem := 0, wait := none, pc := s.me.pc + 4 }

namespace Sys2Proof.Claim

/-- Entry `n` of the hart's core becomes `x`; every other entry of it and every other core stays (R192). -/
def EntryNow (s t : State) (n : Nat) (x : Tile) : Prop :=
  (t.core (coreNo s)).tile n = x ∧ (∀ m, m ≠ n → (t.core (coreNo s)).tile m = (s.core (coreNo s)).tile m) ∧
    (∃ y, t.core (coreNo s) = { s.core (coreNo s) with tiles := y }) ∧ ∀ q, q ≠ coreNo s → t.core q = s.core q

/-- A run of slab bytes meets no entry (R196). -/
def FreeRun (s : State) (base size : Nat) : Prop :=
  base + size ≤ 0x100000 ∧ ∀ e, e ∈ (s.core (coreNo s)).tiles → base + size ≤ e.2.base ∨ e.2.base + e.2.size ≤ base

/-- Memory outside a run of the core's slab reads as before. -/
def MemoryBut (s t : State) (base size : Nat) : Prop :=
  ∀ r p a, ¬(0x008000000000 + 0x100000 * coreNo s + base ≤ a ∧ a < 0x008000000000 + 0x100000 * coreNo s + base + size) →
    t.viewByte r p a = s.viewByte r p a

end Sys2Proof.Claim

/-- R193, R195 to R197, R294 to R296: `TALLOC` makes a free entry empty at the lowest free run, or answers −1 where there is none;
`TFREE` of an empty entry frees it, of a ready one that nobody reads empties it, contents undefined; `TSTATE` reads the
map of an entry of the hart's own group or of none, 0 of a free one, and takes the tile trap in task mode on another group's; `HGIVE` passes a ready tile it holds to a stage, and `HTAKE` takes one passed to its own, else answers 1.
It rests on the model's own choices of logs 14 and 41. -/
def Obligations.TileForms : Prop :=
  ∀ (s : State) (d x : SReg) (tb : BitVec 6),
    let n := tb.toNat
    let tl := (s.core (coreNo s)).tile n
    let size := (s.me.sget x).toNat
    let mine := s.me.member.map (·.group)
    let stage := (s.me.grpcoord.extractLsb' 8 3).toNat
    (4096 ≤ size → size ≤ 65536 → size % 4096 = 0 → tl.state = .free →
      (∀ b, b % 4096 = 0 → FreeRun s b size → (∀ c, c < b → c % 4096 = 0 → ¬FreeRun s c size) →
        ∃ t, exec (.talloc d tb x) s = .next t ∧ MovesOn s t d (BitVec.ofNat 64 b) id ∧ SameOthers s t ∧ MemoryBut s t b size ∧
          EntryNow s t n ⟨.empty, b, size, mine, stage, some s.cur, none, none, false, Clock.zero⟩) ∧
      ((∀ b, b % 4096 = 0 → ¬FreeRun s b size) → ScalarDone (exec (.talloc d tb x) s) s d (BitVec.allOnes 64) 0 (s.me.pc + 4))) ∧
    ((tl.state = .free ∨ tl.group = none ∨ tl.group = mine) →
      ∃ t v, exec (.tstate d tb) s = .next t ∧ OnlyMe s t ∧ MovesOn s t d v id ∧ (tl.state = .free → v = 0) ∧
        (tl.state ≠ .free → tl.size ≤ 65536 → tl.base < 2 ^ 20 → v.extractLsb' 0 8 = BitVec.ofNat 8 tl.state.code ∧
          v.extractLsb' 8 8 = BitVec.ofNat 8 (tl.size / 4096) ∧ v.extractLsb' 16 8 = BitVec.ofNat 8 (tl.base / 4096) ∧
          v.extractLsb' 24 3 = (if tl.group = none then 0 else BitVec.ofNat 3 tl.holder) ∧ v.extractLsb' 27 37 = 0)) ∧
    (tl.state ≠ .free → tl.group ≠ none → tl.group ≠ mine → s.me.system = false →
      TrapTaken (exec (.tstate d tb) s) (s.setMe { s.me with velem := 0 }) 0x0E s.me.pc (BitVec.ofNat 64 n)) ∧
    (tl.group = mine → mine ≠ none →
      (tl.state = .empty → s.keysOk →
        ∃ t, exec (.tfree tb) s = .next t ∧ MovesOn s t 0 0 id ∧ SameOthers s t ∧ SameMemory s t ∧ EntryNow s t n Tile.free) ∧
      (tl.state = .ready → s.tileRead (64 * coreNo s + n) = false →
        ∃ t, exec (.tfree tb) s = .next t ∧ MovesOn s t 0 0 id ∧ SameOthers s t ∧ MemoryBut s t tl.base tl.size ∧
          EntryNow s t n { tl with state := .empty, tag := none }) ∧
      (∀ id g, s.me.member = some id → s.group? id.group = some g → tl.state = .ready → tl.taker = some s.cur → size < g.stages → s.writes = [] →
        ∃ t, exec (.hgive tb x) s = .next t ∧ MovesOn s t 0 0 (fun h => h) ∧ SameOthers s t ∧ SameMemory s t ∧
          EntryNow s t n { tl with holder := size, taker := none, clock := tl.clock.max s.me.clock }) ∧
      if tl.state = .ready ∧ tl.holder = stage ∧ tl.taker = none then
        ∃ t, exec (.htake d tb) s = .next t ∧ MovesOn s t d 0 id ∧ SameOthers s t ∧ SameMemory s t ∧ EntryNow s t n { tl with taker := some s.cur }
      else ScalarDone (exec (.htake d tb) s) s d 1 0 (s.me.pc + 4))

/-! ## Launches, strands, copies and messages (14_group to 16_queue, 11_memory, 24_link) -/

namespace Sys2Proof.Claim

/-- The `n` bytes from `va` are known, at consecutive locations from `loc`. -/
def KnownRun (s : State) (k : Kind) (va : Word) (n loc : Nat) : Prop := ∀ i, i < n → Known s k (va + BitVec.ofNat 64 i) (loc + i)

/-- The instruction answers `x` in S[d] and does nothing else. -/
def Answers (i : Instr) (s : State) (d : SReg) (x : Word) : Prop := ∃ t, exec i s = .next t ∧ OnlyMe s t ∧ MovesOn s t d x (fun h => h)

/-- The executing hart parks on `i` and nothing else changes. -/
def Parks (i : Instr) (s : State) (w : Why) : Prop := exec i s = .next (s.setMe { s.me with wait := some ⟨w, i, [], 0⟩ })

/-- A context takes launches: it is not free, dying or torn (R308, R359). -/
def Live (c : Ctx) : Prop := c.state ≠ .free ∧ c.state ≠ .dying ∧ c.state ≠ .torn

/-- A queue is a context's own and open (R308). -/
def OpenFor (s : State) (q asid : Nat) : Prop := q < 64 ∧ (s.queue q).asid = asid ∧ ((s.queue q).state = .empty ∨ (s.queue q).state = .active)

/-- The state map of a queue, bit field by bit field (R300). -/
def QueueMap (x : Queue) (v : Word) : Prop :=
  v.extractLsb' 0 3 = BitVec.ofNat 3 (match x.state with | .off => 0 | .empty => 1 | .active => 2 | .fault => 3) ∧
  v.getLsbD 3 = x.guarded ∧ v.extractLsb' 4 3 = BitVec.ofNat 3 x.prio ∧ v.extractLsb' 7 1 = 0 ∧
  v.extractLsb' 8 16 = BitVec.ofNat 16 (min x.ring.length 65535) ∧
  v.extractLsb' 24 3 = BitVec.ofNat 3 (match x.graph with | .none => 0 | .building => 1 | .running => 2 | .done => 3 | .stopped => 4) ∧
  v.extractLsb' 27 5 = 0 ∧ v.extractLsb' 32 8 = BitVec.ofNat 8 x.fault ∧ v.extractLsb' 40 10 = BitVec.ofNat 10 x.node ∧
  v.extractLsb' 50 10 = BitVec.ofNat 10 x.from_ ∧ v.extractLsb' 60 4 = 0

/-- The words that an accepted launch writes: the launch record's, and the state word of the kernel. -/
def launchWords (kernel record : Word) : List Word := (kernel + 16) :: (List.range 20).map fun i => record + BitVec.ofNat 64 (8 * i)

/-- A location that one of those words covers. -/
def InWords (s : State) (asid : Nat) (ws : List Word) (x : Nat) : Prop := ∃ a, a ∈ ws ∧ ∃ tr l, s.deviceDest asid a = some (tr, l) ∧ l ≤ x ∧ x < l + 8

end Sys2Proof.Claim

/-- R308, R309: with its descriptor at hand, and no pre-emption request that takes the hart where it waits for the answer, `LAUNCH` answers bit 63 and the status 5, 2, 3 or 4 (as the descriptor's checks say), or 1, in
that order; with no place for its launch record it waits, as it does while the kernel's record lies behind a host link that is down (R7); else it makes the next group, pending, of the descriptor's fields (0 taking the kernel's), which counts in its
kernel, appends it to the queue's ring, and answers its number. `u` is the state once the device has walked the pages of the kernel's record, which is
`s` where their translations are at hand. Where the translations of the launch record's words, which lie where the
model places the record (log 12), and of the kernel's state word are cached and dirty and the device owes no other write, those words alone are written.
It rests on the model's own choices of logs 12, 15, 33, 35 and 41. -/
def Sys2Proof.Claim.Launches : Prop :=
  ∀ (s : State) (d a r : SReg) (loc : Nat),
    let h := s.me
    let i := Instr.launch d a r
    let q := (h.sget r).toNat
    let x := s.queue q
    let l := Launch.of (BitVec.ofNat 2048 (s.viewNat (viewOf (slotQuarter s.cur) loc) .h loc 256))
    let u := s.lookKernel h.asid l
    let st := u.launchStatus h.asid l false
    let gn := s.nextGroup
    let record := u.recordAddr h.asid gn
    let answers := fun (x : Word) => ∃ t, exec i s = .next t ∧ OnlyMe u t ∧ MovesOn s t d x (fun h => h)
    Calm s → h.yields = false → (h.sget a).toNat % 64 = 0 → KnownRun s .load (h.sget a) 256 loc →
      ((∀ p, p ∈ pagesOf l.kernel 256 → (s.cached 0 h.asid p).isSome = true) → u = s) ∧
      (¬Live (s.ctx h.asid) → Answers i s d 0x8000000000000005) ∧
      (Live (s.ctx h.asid) → ¬OpenFor s q h.asid → Answers i s d 0x8000000000000002) ∧
      (Live (s.ctx h.asid) → OpenFor s q h.asid → st ≠ 0 → st ≠ linkStatus → answers (0x8000000000000000 + BitVec.ofNat 64 st)) ∧
      (Live (s.ctx h.asid) → OpenFor s q h.asid → st = 0 → x.cap ≤ x.ring.length → answers 0x8000000000000001) ∧
      (Live (s.ctx h.asid) → OpenFor s q h.asid → (st = linkStatus ∨ st = 0 ∧ x.ring.length < x.cap ∧ record = 0) →
        ∃ t, exec i s = .next t ∧ t = { u with harts := t.harts } ∧ SameOthers s t ∧ t.me.pc = h.pc ∧ t.me.s = h.s ∧
          t.me.wait = some ⟨.dispatcher, i, [], 0⟩) ∧
      (Live (s.ctx h.asid) → OpenFor s q h.asid → st = 0 → x.ring.length < x.cap → record ≠ 0 →
        ∃ t g rec k, exec i s = .next t ∧ SameOthers s t ∧ MovesOn s t d (BitVec.ofNat 64 gn) (fun h => h) ∧
          u.kernelRecord h.asid l.kernel = some rec ∧ s.kernel? h.asid l.kernel = some k ∧
          t.kernel? h.asid l.kernel = some { k with groups := k.groups + 1 } ∧
          t.nextGroup = gn + 1 ∧ t.group? gn = some g ∧ (∀ n, n ≠ gn → t.group? n = s.group? n) ∧
          g.state = .pending ∧ g.asid = h.asid ∧ g.kernel = l.kernel ∧ g.queue = some q ∧ g.prio = x.prio ∧ g.args = l.args ∧
          g.record = record ∧ Clock.le t.me.clock g.clock = true ∧
          g.x = (if l.x = 0 then rec.x else l.x) ∧ g.y = (if l.y = 0 then rec.y else l.y) ∧ g.n = (if l.n = 0 then rec.n else l.n) ∧
          t.queue q = { x with ring := x.ring ++ [.launched gn], state := .active } ∧ (∀ n, n ≠ q → t.queue n = s.queue n) ∧
          t = { s with
            harts := t.harts
            kernels := t.kernels
            groups := t.groups
            nextGroup := t.nextGroup
            queues := t.queues
            views := t.views
            writes := t.writes
            applied := t.applied
            issued := t.issued
            regions := t.regions
            records := t.records
            slabForms := t.slabForms
            tlbs := t.tlbs
            pins := t.pins
            owed := t.owed } ∧
          (u = s → s.memoryOk → s.owed = [] → (∀ w, w ∈ launchWords l.kernel record → ∃ e, s.cached 0 h.asid w = some e ∧ e.dirty = true) →
            ∀ v p y, ¬InWords s h.asid (launchWords l.kernel record) y → t.viewByte v p y = s.viewByte v p y))

/-- R311, R312: with its node descriptor at hand, and no pre-emption request that takes the hart where it waits, `GNODE` answers bit 63 and the status 5, 4, 3, 2 or 1, in that order; else it appends a
node, which waits with the descriptor's counter, and answers its index; kind 2 lets the graph run, kind 3 discards it. Kind 2 reads the launch
descriptors of the nodes that are ready at once (R312): that walks their pages, and changes nothing more where those are at hand.
It rests on the model's own choices of logs 12, 15, 33 and 41. -/
def Sys2Proof.Claim.GraphNodes : Prop :=
  ∀ (s : State) (d a : SReg) (loc : Nat),
    let h := s.me
    let i := Instr.gnode d a
    let desc := BitVec.ofNat 512 (s.viewNat (viewOf (slotQuarter s.cur) loc) .h loc 64)
    let q := (desc.extractLsb' 40 8).toNat
    let kind := (desc.extractLsb' 0 8).toNat
    let x := s.queue q
    let n := x.nodes.length
    Calm s → h.yields = false → (h.sget a).toNat % 64 = 0 → KnownRun s .load (h.sget a) 64 loc →
      let refused := fun (st : Word) => Answers i s d (0x8000000000000000 + st)
      let fits := Live (s.ctx h.asid) ∧ OpenFor s q h.asid ∧ nodeOk desc = true
      let building := x.graph = .none ∨ x.graph = .building
      let only := fun (t : State) => SameMemory s t ∧ t = { s with harts := t.harts, queues := t.queues, reserved := t.reserved }
      let atHand := ∀ m, m ∈ x.nodes → m.kind = 0 → ∀ p, p ∈ pagesOf (m.desc.extractLsb' 192 64) 256 → (s.cached 0 h.asid p).isSome = true
      let runs := fun (v : Word) (f : State → Prop) => ∃ t, exec i s = .next t ∧ SameOthers s t ∧ MovesOn s t d v (fun h => h) ∧
        (∀ k, k ≠ q → t.queue k = s.queue k) ∧ f t
      let done := fun (v : Word) (f : State → Prop) => runs v fun t => only t ∧ f t
      (¬Live (s.ctx h.asid) → refused 5) ∧ (Live (s.ctx h.asid) → ¬OpenFor s q h.asid → refused 4) ∧
      (Live (s.ctx h.asid) → OpenFor s q h.asid → nodeOk desc = false → refused 3) ∧
      (fits → kind < 2 → ¬building → refused 2) ∧ (fits → kind < 2 → building → 1024 ≤ n → refused 1) ∧
      (fits → kind < 2 → building → n < 1024 → done (BitVec.ofNat 64 n) fun t =>
        t.queue q = { x with
          graph := .building
          nodes := x.nodes ++ [⟨desc, (desc.extractLsb' 16 16).toNat, .waiting, none, none, none, Clock.zero, none⟩] }) ∧
      (fits → kind = 2 → x.graph ≠ .building → refused 2) ∧
      (fits → kind = 2 → x.graph = .building → (∃ m k, m ∈ x.nodes ∧ k ∈ m.succ ∧ n ≤ k) → refused 3) ∧
      (fits → kind = 2 → x.graph = .building → (∀ m k, m ∈ x.nodes → k ∈ m.succ → k < n) → runs (BitVec.ofNat 64 n) fun t =>
        (atHand → only t) ∧
        t = { s with
          harts := t.harts
          queues := t.queues
          views := t.views
          writes := t.writes
          applied := t.applied
          issued := t.issued
          regions := t.regions
          records := t.records
          slabForms := t.slabForms
          tlbs := t.tlbs } ∧
        (t.queue q).graph = .running ∧ (t.queue q).state = .active ∧ (t.queue q).nodes.length = n) ∧
      (fits → kind = 3 → (x.graph = .running ∨ ∃ m, m ∈ x.nodes ∧ m.state = .running) → refused 2) ∧
      (fits → kind = 3 → x.graph ≠ .running → (∀ m, m ∈ x.nodes → m.state ≠ .running) → done 0 fun t =>
        (t.queue q).graph = .none ∧ (t.queue q).nodes = [])

/-- R300: `QSTATE` writes the state map of a queue of the caller's context, and 0 of any other.
It rests on the model's own choice of log 41. -/
def Sys2Proof.Claim.QueueStates : Prop :=
  ∀ (s : State) (d r : SReg),
    let q := (s.me.sget r).toNat
    ∃ v : Word, ScalarDone (exec (.qstate d r) s) s d v 0 (s.me.pc + 4) ∧
      if q < 64 ∧ (s.queue q).state ≠ .off ∧ (s.queue q).asid = s.me.asid then QueueMap (s.queue q) v else v = 0

/-- R291 to R293: of a task that buffers nothing, in its own stage and outside a recess, `STRPUSH` appends S[src] to a strand with a free
slot and answers 0, answers 1 on a full strand whose destination stage no hart of the team stands in, and else parks. `STRPOP`
takes the oldest item, answers all ones on an empty strand whose source stage no hart stands in, and else parks. In a stage
that is not the strand's, or on a number that names no strand, both take the strand trap in task mode.
It rests on the model's own choice of log 41. -/
def Sys2Proof.Claim.StrandItems : Prop :=
  ∀ (s : State) (d st x : SReg) (id : MemberId) (g : Group), s.me.member = some id → s.group? id.group = some g → s.buffering s.cur = false →
    let j := (s.me.sget st).toNat
    let key := 16 * id.team + j
    let items := g.items.get [] key
    let push := Instr.strpush d st x
    let pop := Instr.strpop d st
    let changed := fun (i : Instr) (v : Word) (new : List (Word × Clock)) =>
      ∃ t g', exec i s = .next t ∧ SameOthers s t ∧ SameMemory s t ∧ MovesOn s t d v (fun h => h) ∧
        t = { s with harts := t.harts, groups := t.groups, writes := t.writes } ∧ (∀ n, n ≠ id.group → t.group? n = s.group? n) ∧
        t.group? id.group = some g' ∧ g' = { g with items := g'.items } ∧ g'.items.get [] key = new ∧
        ∀ k, k ≠ key → g'.items.get [] k = g.items.get [] k
    let closed := fun (i : Instr) (v : Word) =>
      ∃ t, exec i s = .next t ∧ SameMemory s t ∧ MovesOn s t d v (fun h => h) ∧ t = { s.setMe t.me with writes := t.writes }
    (∀ slots src dst, j < 16 → g.strands[j]? = some (slots, src, dst) → s.recess.start = none →
      (s.me.stage = src → items.length < slots → changed push 0 (items ++ [(s.me.sget x, s.me.clock)])) ∧
      (s.me.stage = src → slots ≤ items.length → g.stageHarts id.team dst = 0 → closed push 1) ∧
      (s.me.stage = src → slots ≤ items.length → g.stageHarts id.team dst ≠ 0 → Parks push s .strand) ∧
      (s.me.stage = dst → s.keysOk → ∀ v c r, items = (v, c) :: r → changed pop v r) ∧
      (s.me.stage = dst → items = [] → g.stageHarts id.team src = 0 → closed pop (BitVec.allOnes 64)) ∧
      (s.me.stage = dst → items = [] → g.stageHarts id.team src ≠ 0 → Parks pop s .strand)) ∧
    (s.me.system = false →
      ((16 ≤ j ∨ g.strands[j]? = none ∨ ∃ e, g.strands[j]? = some e ∧ s.me.stage ≠ e.2.1) → TrapTaken (exec push s) s 0x16 s.me.pc (s.me.sget st)) ∧
      ((16 ≤ j ∨ g.strands[j]? = none ∨ ∃ e, g.strands[j]? = some e ∧ s.me.stage ≠ e.2.2) → TrapTaken (exec pop s) s 0x16 s.me.pc (s.me.sget st)))

/-- R228, R229, R231 to R237: `CPY`, `CPYW`, `PACK` and `UNPACK` of a task that buffers nothing, with a place in the engine of the
cluster, hand it a command of the three operands under the next number, and answer its token; with no place they park. A `CPY` or
`CPYW` of length 0 is complete at once with status 0; one that breaks a check of R230 is to end with status 3, no byte moved; one
that reaches no window is accepted, and so is a `PACK` or `UNPACK` of a misaligned image. None of them touches memory yet. `CPWAIT` answers 5 for no token of a live command, the status of a completed command, and
parks on one that runs.
It rests on the model's own choices of logs 31 and 41. -/
def Sys2Proof.Claim.CopyCommands : Prop :=
  ∀ (s : State) (a b c : SReg) (src dst : BitVec 4),
    let h := s.me
    let cl := s.cur / 32
    let k := s.cluster cl
    let token := fun (cl seq : Nat) => BitVec.ofNat 64 (2 ^ 63 + cl * 2 ^ 32 + seq % 2 ^ 32)
    (∀ i kind f g, (i, kind, f, g) ∈ [(Instr.cpy a b c, CmdKind.cpy, (0 : BitVec 4), (0 : BitVec 4)), (.cpyw a b c src dst, .cpyw, src, dst),
        (.pack a b c, .pack, 0, 0), (.unpack a b c, .unpack, 0, 0)] → s.buffering s.cur = false →
      (64 ≤ k.cmds.length → Parks i s .engine) ∧
      (k.cmds.length < 64 →
        let dense := kind = .cpy ∨ kind = .cpyw
        let m : Cmd := ⟨k.seq, kind, f, g, h.sget a, h.sget b, h.sget c, s.cur / 4, h.member, h.asid, h.member.map (·.group), none, false, true, .accepted,
          [], [], [], [], [], Clock.zero⟩
        let plain := dense ∨ m.image.toNat % 64 ≠ 0
        ∃ t, exec i s = .next t ∧ SameOthers s t ∧ MovesOn s t a (token cl k.seq) (fun h => h) ∧ (∀ n, t.group? n = s.group? n) ∧ SameMemory s t ∧
          t = { s with
            harts := t.harts
            clusters := t.clusters
            cores := t.cores
            groups := t.groups
            quarterPower := t.quarterPower
            devicePower := 0 } ∧
          (∀ n, n ≠ cl → t.cluster n = s.cluster n) ∧ (t.cluster cl).seq = k.seq + 1 ∧
          (dense → h.sget a = 0 → ((t.cluster cl).done.find? fun e => e.1 == k.seq) = some (k.seq, 0, Clock.zero)) ∧
          (¬(dense ∧ h.sget a = 0) → ∃ n, n ∈ (t.cluster cl).cmds ∧
            n = { m with gen := n.gen, genFixed := n.genFixed, state := n.state, reads := n.reads, writes := n.writes, doom := n.doom } ∧
            (dense → m.denseBad = true → n.state = .moved 3) ∧
            (plain → ¬(dense ∧ m.denseBad = true) → (kind ≠ .pack → inSlabWindow m.source = false) → inSlabWindow m.dest = false →
              n.state = .accepted ∧ n.reads = [] ∧ n.writes = [] ∧ n.doom = [])))) ∧
    (((h.sget a).getLsbD 63 = false ∨ (h.sget a).extractLsb' 37 26 ≠ 0) → Answers (.cpwait a) s a 5) ∧
    ∀ e seq, e < 32 → seq < (s.cluster e).seq → (s.cluster e).seq ≤ seq + 4097 → h.sget a = token e seq →
      let found := (s.cluster e).done.find? fun x => x.1 == seq
      let running := (s.cluster e).cmds.any fun m => m.seq == seq
      (∀ n st v, found = some (n, st, v) → Answers (.cpwait a) s a (BitVec.ofNat 64 st)) ∧
      (found = none → running = true → Parks (.cpwait a) s .engine) ∧ (found = none → running = false → Answers (.cpwait a) s a 5)

/-- R409, R410: with its 64 bytes at hand `LSEND` answers 3 for a channel that is not the sender's, 4 for a malformed message, 2 when the
port is not up and holds nothing, 1 when its queue of the class is full, and else queues the message and answers 0. `LPOLL`
answers 1 on an empty ring of the class, and else stores the oldest message in pieces of 8 bytes, takes it out of the ring and answers 0.
It rests on the model's own choices of logs 34 and 41. -/
def Sys2Proof.Claim.Messages : Prop :=
  ∀ (s : State) (d r a : SReg) (cls : BitVec 1) (loc : Nat),
    let h := s.me
    let p := (h.sget r).toNat
    let x := s.port p
    let msg := BitVec.ofNat 512 (s.viewNat (viewOf (slotQuarter s.cur) loc) .h loc 64)
    let send := Instr.lsend d r a cls
    let poll := Instr.lpoll d a cls
    let queue := if cls = 0 then x.q0 else x.q1
    let ring := if cls = 0 then (s.ctx h.asid).ring0 else (s.ctx h.asid).ring1
    let bound := p < 16 ∧ (p, (msg.extractLsb' 0 16).toNat) ∈ (s.ctx h.asid).sends
    let open_ := x.state = .up ∨ x.q0 ≠ [] ∨ x.q1 ≠ []
    Calm s → (h.sget a).toNat % 64 = 0 →
      (Known s .load (h.sget a) loc →
        (¬bound → Answers send s d 3) ∧ (bound → msgBad msg = true → Answers send s d 4) ∧
        (bound → msgBad msg = false → ¬open_ → Answers send s d 2) ∧
        (bound → msgBad msg = false → open_ → 64 ≤ queue.length → Answers send s d 1) ∧
        (bound → msgBad msg = false → open_ → queue.length < 64 →
          ∃ t, exec send s = .next t ∧ MovesOn s t d 0 (fun h => h) ∧ SameMemory s t ∧
            t = { s.setMe t.me with ports := t.ports } ∧ (∀ n, n ≠ p → t.port n = s.port n) ∧
            t.port p = if cls = 0 then { x with q0 := queue ++ [(h.asid, msg)] } else { x with q1 := queue ++ [(h.asid, msg)] })) ∧
      (Known s .write (h.sget a) loc →
        (ring = [] → Answers poll s d 1) ∧
        ∀ m rest, ring = m :: rest →
          ∃ t ws, exec poll s = .next t ∧ MovesOn s t d 0 (fun h => h) ∧ SameMemory s t ∧
            t = { s.setMe t.me with writes := ws, issued := t.issued, freeCtr := t.freeCtr, slabForms := t.slabForms, ctxs := t.ctxs } ∧
            (ws.map (·.bytes)).Perm ((List.range 8).map fun k => cellsAt (loc + 8 * k) (((leBytes 64 m.toNat).drop (8 * k)).take 8)) ∧
            (∀ w, w ∈ ws → w.path = .h ∧ w.cls = .scalar ∧ w.slot = some s.cur ∧ w.applied = 0) ∧
            (∀ n, n ≠ h.asid → t.ctx n = s.ctx n) ∧
            t.ctx h.asid = if cls = 0 then { s.ctx h.asid with ring0 := rest } else { s.ctx h.asid with ring1 := rest })

/-- R300, R308 to R312: what `LAUNCH`, `GNODE` and `QSTATE` answer, and what an accepted launch or node leaves.
It rests on the model's own choices of logs 12, 15, 33, 35 and 41. -/
def Obligations.LaunchForms : Prop := Launches ∧ GraphNodes ∧ QueueStates

/-- R228 to R237, R291 to R293, R410: strands, copy commands and messages, as the hart that uses them sees it.
It rests on the model's own choices of logs 31, 34 and 41. -/
def Obligations.StrandsCopiesMessages : Prop := StrandItems ∧ CopyCommands ∧ Messages

/-! ## Decoding, the step, the state after reset -/

/-- R56 to R82: the words of a few instructions, one of each format, written out from their encodings, decode to them: opcode at
[31:26], then the fields of the format. -/
def Obligations.DecodedWords : Prop :=
  decode 0b000001_00001_00010_00011_00000000000 = .ok (.add 1 2 3) ∧
  decode 0b000010_00011_00000_1111111111111111 = .ok (.addi 3 0 0xFFFF) ∧
  decode 0b000111_00101_00010_0000000000010_011 = .ok (.ld 5 2 2) ∧
  decode 0b001010_00100_00000_1111111111111101 = .ok (.bne 4 0 0xFFFD) ∧
  decode 0b001111_11110_000000000000000000110 = .ok (.jal 30 6) ∧
  decode 0b010001_00100_00101_00110_010_1_0000000 = .ok (.fmadd 4 5 6 2 1) ∧
  decode 0b011101_00001_00010_00011_00000000000 = .ok (.cpy 1 2 3) ∧
  decode 0b011000_00110_01000_00111_000000_10_000 = .ok (.amoAdd 6 8 7 0 1) ∧
  decode 0b100000_00011_00001_00010_0101_1_10_0000 = .ok (.vadd 3 1 2 5 1 2) ∧
  decode 0b100111_00011_00001_0_0101_010_0110_1_10_0 = .ok (.vcvt 3 1 5 2 6 1 2) ∧
  decode 0b101000_00111_01001_00000_0101_0000000 = .ok (.vld 7 9 5) ∧
  decode 0b101110_0011_0001_0010_0100_00000_00110 = .ok (.pmul 3 1 2 4) ∧
  decode 0b110010_00_01000_00000_0000_0110_0_00000 = .ok (.mma 0 8 0 6 0) ∧
  decode 0b111110_00101_00110_00111_000000000_1_0 = .ok (.lsend 5 6 7 1)

/-- R56 to R82: every well-formed instruction is read back from its own word, each operand with every bit. -/
def Obligations.EncodingReadsBack : Prop := ∀ (i : Instr) (w : IWord), i.wellFormed = true → encode i = some w → decode w = .ok i

/-- R20, R57, R81: an accepted word is the word of the instruction it decodes to, and that instruction is well formed: no two words
mean the same, and no reserved bit is ignored. -/
def Obligations.WordsHaveOneMeaning : Prop := ∀ (i : Instr) (w : IWord), decode w = .ok i → i.wellFormed = true ∧ encode i = some w

namespace Sys2Proof.Claim

/-- Nothing is taken before the next word of the executing hart, which runs, has begun, and is not parked: no wound, no pre-emption request, no
overrun to report, no spilled line, no register with a soft error, no stopped debugger session (R336, R347, R353, R360, R366, R371, R372). -/
def AtWord (s : State) : Prop :=
  s.sideband.mainUp = true ∧ s.me.run = .running ∧ s.me.wound = false ∧ s.me.preempt = [] ∧ s.me.overrun = none ∧ s.me.spill = [] ∧
    s.me.bad = [] ∧ (s.ctx s.me.asid).held = false ∧ (s.me.blk = none → s.me.wait = none) ∧ (∀ w, s.me.wait = some w → w.why ≠ .area) ∧ ∀ b, s.me.blk = some b → b.wait = none

/-- The translation of the word's address is at hand and allows the fetch, from host memory over the host link (R7, R98, R376 to R381). -/
def Fetches (s : State) (va : Word) (loc : Nat) : Prop :=
  va.toNat % 4 = 0 ∧ canonical va = true ∧ ¬(0x00FFFE0000000000 ≤ va.toNat ∧ va.toNat < 0x0100000000000000) ∧ s.soft = [] ∧
    ∃ t, s.cached (slotQuarter s.cur) s.me.asid va = some t ∧ t.leaf.getLsbD 4 = true ∧
      loc = (t.leaf.extractLsb' 12 36).toNat * 4096 + va.toNat % 2 ^ t.bits ∧ (s.hostLink = none → inHostMem loc = false)

/-- Majors of the words that a vector block holds (R76), and of those that a frozen vector queue refuses (R369). -/
def inBlocks (m : Nat) : Prop := m = 0x1A ∨ m = 0x1B ∨ (0x20 ≤ m ∧ m ≤ 0x2B) ∨ m = 0x2D ∨ m = 0x3F
/-- Majors that the scalar stream issues as an implied block of one word (R113). -/
def impliedBlock (m : Nat) : Prop := m = 0x1A ∨ m = 0x1B ∨ (0x20 ≤ m ∧ m ≤ 0x2B)
def ofUnit (m : Nat) : Prop := m = 0x1A ∨ m = 0x1B ∨ (0x20 ≤ m ∧ m ≤ 0x2E) ∨ m = 0x32

/-- A hart that has issued the word it stands at as a block of one word, under its grant and its `vcfg` (R112, R113). -/
def issuesWord (h : Hart) : Hart :=
  { h with blk := some ⟨h.pc, true, none, 1, BitVec.allOnes 256, [], h.vlgrant.toNat % 512, h.vcfg, some h.s, [], 0, none, none⟩, pc := h.pc + 4 }

/-- The vector unit refuses the word that the scalar stream of a hart in task mode has issued to it: the illegal-instruction trap with
`lcause.vec` = 1, the block of one word in the vector resume state (R100, R113, R136, R369). -/
def UnitRefuses (o : Host.Outcome State Fault Refusal) (u : State) (w : IWord) : Prop :=
  ∃ t, o = .next t ∧ OnlyMe u t ∧ SameScalar u.me t.me 29 ∧ t.me.sget 29 = u.me.lhold ∧
    t.me = { u.me with
      s := t.me.s
      lepc := u.me.pc
      lvelem := 0
      velem := 0
      lcause := 0x101
      laddr := BitVec.ofNat 64 w.toNat
      lhold := u.me.sget 29
      system := true
      pc := u.me.ltvec + 64
      wait := none
      blk := none
      vq := []
      vrs := some ⟨u.me.pc + 4, ⟨u.me.pc, true, none, 1, BitVec.allOnes 256, [], u.me.vlgrant.toNat % 512, u.me.vcfg, none, [], 0, none, none⟩, u.me.vq⟩ }

/-- The state in which an illegal word of the scalar stream traps: a matrix word's element index is 0 (R222). -/
def beforeIllegal (u : State) (w : IWord) : State :=
  if (w.extractLsb' 26 6).toNat = 0x32 ∨ (w.extractLsb' 26 6).toNat = 0x33 then u.setMe { u.me with velem := 0 } else u

/-- The word `w` stands next, and the state in which its meaning runs: in the scalar stream, a word of the vector unit issued as a block of
its own (R113); in the running block as fetched before (R115), or as its location holds it, a `VLOOP` keeping it in its loop buffer. -/
def StandsAt (u : State) (w : IWord) (t : State) : Prop :=
  let m := (w.extractLsb' 26 6).toNat
  let held := fun (va : Word) => ∃ loc, Fetches u va loc ∧ w = BitVec.ofNat 32 (u.viewNat (viewOf (slotQuarter u.cur) loc) .h loc 4)
  (u.me.blk = none ∧ held u.me.pc ∧ (impliedBlock m → t = u.setMe (issuesWord u.me)) ∧ (¬impliedBlock m → t = u)) ∨
  ∃ b, u.me.blk = some b ∧ b.pc.toNat % 4 = 0 ∧ inBlocks m ∧ (∀ l, b.loop = some l → (b.pc - l).toNat < 256) ∧
    ((b.buffer.find? (fun e => e.1 == b.pc) = some (b.pc, w) ∧ t = u) ∨
     (b.buffer.find? (fun e => e.1 == b.pc) = none ∧ held b.pc ∧ (b.loop = none → t = u) ∧
      (b.loop ≠ none → t = u.setMe { u.me with blk := some { b with buffer := (b.pc, w) :: b.buffer } })))

end Sys2Proof.Claim

/-- R98, R113, R115, R76, R81, R101: with no move scheduled, a hart that stands at a word whose translation is at hand executes it: a step is
the meaning of the decoded instruction, in the state as it is, but that a vector word in the scalar stream is issued first, that a
`VLOOP` keeps its words, and that a vector word is noted as its core's latest and wakes its lanes (R396, R397). A word that decodes to nothing takes the
illegal-instruction trap, a vector major's as a word of the vector unit (log 49), a matrix word's with `lvelem` 0 (R222). A scheduled move of a hart or an event goes
first, and leaves the schedule; a step of the host is nothing but that while the host link is down (R7).
It rests on the model's own choices of logs 1, 6, 35, 42, 45 and 49. -/
def Obligations.StepRunsDecoded : Prop :=
  ∀ (s u : State), (s.schedule = [] ∧ u = s ∨ ∃ k r, s.schedule = .hart k :: r ∧ u = { s with schedule := r, cur := k }) →
    (∀ (w : IWord) i x, AtWord u → decode w = .ok i → StandsAt u w x → ¬(u.me.system = true ∧ u.me.vrs ≠ none ∧ ofUnit (w.extractLsb' 26 6).toNat) →
      ∃ t, step s = exec i t ∧
        (t = x ∨ inBlocks (w.extractLsb' 26 6).toNat ∧ (w.extractLsb' 26 6).toNat ≠ 0x3F ∧
          t = x.setCore (u.cur / 4) { x.core (u.cur / 4) with
            lastBlock := x.beacon
            power := if (x.core (u.cur / 4)).power = 1 then 0 else (x.core (u.cur / 4)).power })) ∧
    (∀ (w : IWord) e x, AtWord u → decode w = .error e → StandsAt u w x → u.me.blk = none → u.me.system = false →
      (¬impliedBlock (w.extractLsb' 26 6).toNat → TrapTaken (step s) (beforeIllegal u w) 0x01 u.me.pc (BitVec.ofNat 64 w.toNat)) ∧
      (impliedBlock (w.extractLsb' 26 6).toNat → UnitRefuses (step s) u w)) ∧
    ∀ x i r, x = { s with schedule := .event i :: r } → encode i = none → s.sideband.mainUp = true →
      step x = if hostStep i = true ∧ s.hostLink = none then .next { s with schedule := r } else exec i { s with schedule := r }

/-- Every byte of every view, every satchel and every saved satchel stays in canonical form over a step, from every state. -/
def Obligations.StepKeepsMemory : Prop := ∀ (s t : State), s.memoryOk → step s = .next t → t.memoryOk

/-- The tables of a state list their keys in rising order, each once, over a step, from every state: slots, contexts, the entries of the tile
tables, and the lockets, below 64, and the strands of each group. -/
def Obligations.StepKeepsKeys : Prop := ∀ (s t : State), s.keysOk → step s = .next t → t.keysOk

/-- R9, R83, R86, R160, R266, R298, R359, R407: after reset every slot is free, with S, V, M, P and Z zero, `vcfg` FP32, LMUL 1 and K length 64,
every degree descriptor of dimension 1, degree 0, limit 15 and no element, and W0 to W7 zero; no group, queue, context, kernel, tile, command or write
exists, the ports train, the beacon and the recess number are 0; `velem`, `lcause`, `lepc`, `laddr` and `lhold` are 0. The pc, `asid` and `ltvec` of a free
slot, for which the spec gives no reset value, are the model's 0 (log 2), and memory reads 0 (log 3). -/
def Obligations.ResetState : Prop :=
  State.reset.memoryOk ∧ State.reset.keysOk ∧ State.reset.cur = 0 ∧ State.reset.schedule = [] ∧ State.reset.sideband.mainUp = true ∧
  (∀ k, (State.reset.hart k).run = .free ∧ (State.reset.hart k).system = false ∧ (State.reset.hart k).vcfg = 0x1007 ∧
    (State.reset.hart k).vlgrant = 0 ∧ (State.reset.hart k).fmode = 0 ∧ (State.reset.hart k).blk = none ∧
    (∀ r, (State.reset.hart k).sget r = 0) ∧ (∀ r, (State.reset.hart k).vget r = 0) ∧ (∀ r, r ≠ 0 → (State.reset.hart k).mget r = 0) ∧
    (∀ r, (State.reset.hart k).pget r = 0 ∧ (State.reset.hart k).dget r = 0x0F01) ∧ (∀ r, (State.reset.hart k).zget r = 0) ∧
    (State.reset.hart k).w = Vector.replicate 8 0 ∧ (State.reset.hart k).pc = 0 ∧ (State.reset.hart k).asid = 0 ∧
    (State.reset.hart k).ltvec = 0 ∧ (State.reset.hart k).lcause = 0 ∧ (State.reset.hart k).lepc = 0 ∧ (State.reset.hart k).laddr = 0 ∧
    (State.reset.hart k).lhold = 0 ∧ (State.reset.hart k).velem = 0) ∧
  (∀ q, (State.reset.queue q).state = .off) ∧ (∀ a, (State.reset.ctx a).state = .free) ∧ (∀ g, State.reset.group? g = none) ∧
  (∀ c, (State.reset.core c).owner = none ∧ (State.reset.core c).lanes = 32 ∧ (State.reset.core c).tiles = []) ∧
  (∀ c, (State.reset.cluster c).cmds = [] ∧ (State.reset.cluster c).active = false) ∧ (∀ p, (State.reset.port p).state = .training) ∧
  State.reset.writes = [] ∧ State.reset.kernels = [] ∧ State.reset.beacon = 0 ∧ State.reset.recess.number = 0 ∧ State.reset.recess.start = none ∧
  ∀ r p a, State.reset.viewByte r p a = 0

/-! ## Steps of the memory, the host and the waiting harts (11_memory, 13_ordering, 19_locket, 21_page) -/

/-- R255, R256, R251, R262: a write whose turn has come in a view is shown there byte by byte, unless the byte holds a later write; on
its own path when the view has applied everything before it, on another path once its own shows it. The write is dropped once all
twenty show it. No other view, byte or write changes. A recess holds no write that is issued back (log 36).
It rests on the model's own choice of log 36. -/
def Sys2Proof.Claim.WriteApplied : Prop :=
  ∀ (s : State) (index view : Nat) (w : Write), s.memoryOk → s.writes[index]? = some w → view < 20 → w.quarter < 4 →
    w.applied.getLsbD view = false → (w.bytes.map (·.1)).Nodup →
    (∀ j x, s.writes[j]? = some x → x.quarter = w.quarter → x.clk.get x.quarter = w.clk.get w.quarter → j = index) →
    let r := view / 5
    let p := Path.ofIndex (view % 5)
    let a := quarterClock s.applied r
    let shown := { w with applied := w.applied ||| BitVec.ofNat 20 (2 ^ view) }
    (if p = w.path then a.get w.quarter + 1 = w.clk.get w.quarter ∧ ∀ q, q < 4 → q ≠ w.quarter → w.clk.get q ≤ a.get q
     else w.applied.getLsbD (5 * r + w.path.index) = true) →
      ∃ t, exec (.writeApply index view) s = .next t ∧
        t = { s with views := t.views, writes := t.writes, applied := t.applied, regions := t.regions, records := t.records } ∧
        (∀ x b, (x, b) ∈ w.bytes → t.viewByte r p x =
          if (⟨w.clk, w.quarter⟩ : Stamp).after ((s.view r p).stamps.get ⟨Clock.zero, 0⟩ x) then b else s.viewByte r p x) ∧
        (∀ r' p' x, ¬(r' = r ∧ p' = p ∧ ∃ b, (x, b) ∈ w.bytes) → t.viewByte r' p' x = s.viewByte r' p' x) ∧
        t.writes = (if shown.applied = BitVec.allOnes 20 then s.writes.eraseIdx index else s.writes.set index shown) ∧
        (p = w.path → quarterClock t.applied r = a.set w.quarter (w.clk.get w.quarter)) ∧ (p ≠ w.path → t.applied = s.applied) ∧
        (s.regions = [] → t.regions = [] ∧ t.records = s.records)

/-- R405, R406, R397, R252, R387, R384, R388, R383, R241: with the host link down the host reaches no memory. A host read wakes Q0, the home quarters
of what it reaches and the device, and returns the bytes that path N of Q0 shows, 0 where no location is; a host write wakes the same and issues its bytes on the N path of Q0, those of
offsets that reach no location dropped; `HOST_INVALIDATE` drops the translations in its scope, and stands until no word of a hart keeps one; a finished walk of a page, which the misses
to it share, caches the leaf it found, with its a bit set, unless `PGPROBE` alone wanted it; a region of one page size, in memory and apart from the others, is cleared, or declared with its
blocks that end in the hallmark listed, at most 16 of them.
It rests on the model's own choices of logs 5, 15, 23, 35, 37 and 38. -/
def Sys2Proof.Claim.HostAndWalks : Prop :=
  ∀ (s : State), s.recess.start = none →
    (∀ o n d, s.hostLink = none → exec (.hostMemAccess o n d) s = .next s) ∧
    (let woken := fun (t : State) (o n : Nat) => t.devicePower = 0 ∧ ∀ q,
        ((q = 0 ∨ ∃ k l, k < n ∧ hdmLoc (o + k) = some l ∧ homeOf l = q) → t.quarterPower.get 0 q = 0) ∧
        (¬(q = 0 ∨ ∃ k l, k < n ∧ hdmLoc (o + k) = some l ∧ homeOf l = q) → t.quarterPower.get 0 q = s.quarterPower.get 0 q)
     s.hostLink ≠ none →
     (∀ o n, o + n ≤ 2 ^ 40 →
       ∃ t, exec (.hostMemAccess o n none) s = .next t ∧ woken t o n ∧
         t = { s with quarterPower := t.quarterPower, devicePower := 0, hostData := t.hostData } ∧ t.hostData.length = n ∧
         ∀ k, k < n → t.hostData[k]? = some (match hdmLoc (o + k) with | some l => s.viewByte 0 .n l | none => 0)) ∧
     ∀ o (bs : List Byte), o + bs.length ≤ 2 ^ 40 →
       ∃ t ws, exec (.hostMemAccess o bs.length (some bs)) s = .next t ∧ woken t o bs.length ∧
         t = { s with
           writes := s.writes ++ ws
           issued := t.issued
           freeCtr := t.freeCtr
           slabForms := t.slabForms
           quarterPower := t.quarterPower
           devicePower := 0 } ∧
         (∀ w, w ∈ ws → w.quarter = 0 ∧ w.path = .n ∧ w.slot = none ∧ w.applied = 0) ∧
         ∀ l b, (∃ w, w ∈ ws ∧ (l, b) ∈ w.bytes) ↔ ∃ k, bs[k]? = some b ∧ hdmLoc (o + k) = some l) ∧
    (∀ a va, ∃ t, exec (.hostInvalidate a va) s = .next t ∧
      t = { s with
        tlbs := t.tlbs
        pins := t.pins
        invals := t.invals
        owed := t.owed
        views := t.views
        writes := t.writes
        applied := t.applied
        issued := t.issued
        regions := t.regions
        records := t.records
        slabForms := t.slabForms } ∧
      ((a, va) ∈ t.invals ↔ ∃ e, e ∈ s.harts ∧ e.2.run = .running ∧ ∃ w, w ∈ e.2.waits ∧ ∃ tr, tr ∈ w.held ∧ tr.inScope a va = true) ∧
      (s.owed = [] → t.owed = [] ∧ t.pins = s.pins ∧
        ∀ q e, e ∈ t.tlbs.get [] q ↔ e ∈ s.tlbs.get [] q ∧
          if a.getLsbD 13 then False else if a.getLsbD 12 then e.asid ≠ a.toNat % 4096 else ¬(canonical va = true ∧ e.covers (a.toNat % 4096) va = true)) ∧
      (s.owed = [] → s.writes = [] → t = { s with tlbs := t.tlbs, invals := t.invals })) ∧
    (∀ q asid (va : Word),
      let grain := BitVec.ofNat 64 (va.toNat / 4096 * 4096)
      let walk := s.walkFrom q va (s.ctx asid).root 4
      let page := match walk with
        | .inl _ => grain
        | .inr (e, at_, level) => BitVec.ofNat 64 (transOf asid va e at_ level).base
      let ofPage := fun (w : Walk) => decide (w.cluster / 8 = q ∧ w.asid = asid ∧ (w.va = page ∨ w.va = grain))
      (∃ w, w ∈ s.walks ∧ ofPage w = true) →
      let ws := s.walks.filter fun w => !ofPage w
      ((s.cached q asid va ≠ none ∨ (∃ f, walk = .inl f) ∨ ∀ w, w ∈ s.walks → ofPage w = true → w.probe = true) →
        exec (.pageWalkComplete q asid va) s = .next { s with walks := ws }) ∧
      ∀ e at_ level, s.cached q asid va = none → (∃ w, w ∈ s.walks ∧ ofPage w = true ∧ w.probe = false) → walk = .inr (e, at_, level) →
        let tr := transOf asid va e at_ level
        let home := homeOf at_
        ∃ t, exec (.pageWalkComplete q asid va) s = .next t ∧ t.cached q asid va = some tr ∧
          t = { s with
            walks := ws
            tlbs := t.tlbs
            views := t.views
            writes := t.writes
            applied := t.applied
            issued := t.issued
            regions := t.regions
            records := t.records
            slabForms := t.slabForms } ∧
          (tr.leaves = [at_] → QuietHome s home → HomeBytes s t home at_ 8 (s.viewNat home .h at_ 8 ||| 0x100))) ∧
    ∀ base size, (∃ c, c < 16 ∧ size = 2 ^ sizeBits c) → base % size = 0 → inDram base = true → inDram (base + size - 1) = true →
      let others := s.regions.filter fun r => !(r.base == base && r.size == size)
      (∀ r, r ∈ others → r.base + r.size ≤ base ∨ base + size ≤ r.base) →
        exec (.regionDeclare base size false) s = .next { s with regions := others } ∧
        ((∀ r, r ∈ s.regions → r.base = base → r.size = size → r.compressing = false) →
          ∃ l : List Nat, l.Pairwise (· < ·) ∧
            (∀ b, b ∈ l ↔ base ≤ b ∧ b < base + size ∧ b % 256 = 0 ∧ leNat ((List.range 4).map fun i => s.homeByte (b + 252 + i)) = (Config.hallmark s.boots).toNat) ∧
            exec (.regionDeclare base size true) s = .next (if l.length ≤ 16 then { s with regions := others ++ [⟨base, size, true, l, [], none⟩] } else s))

/-- R385, R386, R237, R394: the host's answer takes a fault record out. A hart that stands in the handler of that fault returns from it when the
access may be tried again; a command that waits goes on, a fatal answer to one waiting out a recess; a port's put is tried again, or on a fatal answer leaves its queue.
It rests on the model's own choices of logs 16 and 35. -/
def Sys2Proof.Claim.FaultAnswers : Prop :=
  ∀ (s : State) (ticket : Nat) (r : FaultRecord), (s.faults.find? fun x => x.ticket == ticket) = some r →
    let u := { s with faults := s.faults.filter fun x => x.ticket != ticket }
    let h := s.hart r.source
    let cl := r.source - 0x8000
    let p := r.source - 0xC000
    let x := s.port p
    (r.source < 0x8000 → h.run = .running → h.system = true → h.lepc = r.where_ → h.lcause.toNat % 256 ∈ [0x05, 0x06, 0x07] →
      exec (.hostFaultAnswer ticket true) s = .next (u.setHart r.source h.ret)) ∧
    (0x8000 ≤ r.source → r.source < 0xC000 →
      (s.recess.start ≠ none → exec (.hostFaultAnswer ticket false) s = .next s) ∧
      ∀ m va, ((s.cluster cl).cmds.find? fun m => BitVec.ofNat 64 (2 ^ 63 + cl * 2 ^ 32 + m.seq % 2 ^ 32) == r.where_) = some m → m.state = .faulted va →
        ∃ t, exec (.hostFaultAnswer ticket true) s = .next t ∧ t = { u with clusters := t.clusters } ∧
          t.cluster cl = { s.cluster cl with cmds := (s.cluster cl).cmds.map fun y => if y.seq = m.seq then { m with state := .waiting } else y } ∧
          ∀ n, n ≠ cl → t.cluster n = s.cluster n) ∧
    (0xC000 ≤ r.source → x.fault0 = some r.ticket →
      exec (.hostFaultAnswer ticket true) s = .next (u.setPort p { x with fault0 := none }) ∧
      exec (.hostFaultAnswer ticket false) s = .next (u.setPort p { x with q0 := x.q0.drop 1, fault0 := none }))

/-- R241, R251, R255, R262, R383 to R388, R405, R406: the steps of the memory, of its walks and of the host's access to it.
It rests on the model's own choices of logs 5, 15, 16, 23, 35, 36, 37 and 38. -/
def Obligations.MemoryEvents : Prop := WriteApplied ∧ HostAndWalks ∧ FaultAnswers

namespace Sys2Proof.Claim

/-- A hart parked at a word, of its scalar stream or of its vector unit, with nothing to take at its boundary first (R347, R353, R366, R372,
R374). -/
def ParkedOn (h : Hart) (why : Why) (i : Instr) : Prop :=
  h.run = .running ∧ h.wound = false ∧ h.preempt = [] ∧ h.spill = [] ∧ h.bad = [] ∧
    ∃ l n, (h.blk = none ∧ h.wait = some ⟨why, i, l, n⟩) ∨ ∃ b, h.blk = some b ∧ b.wait = some ⟨why, i, l, n⟩

/-- The event is the parked instruction's meaning, executed by its hart in a state `u` that the event brings about first. -/
def ExecutesIn (e i : Instr) (s u : State) (k : Nat) : Prop := ∃ t, exec i { u with cur := k } = .next t ∧ exec e s = .next { t with cur := s.cur }
/-- In the state as it is. -/
def Executes (e i : Instr) (s : State) (k : Nat) : Prop := ExecutesIn e i s s k

/-- After the event the hart goes on at the word after `pc`. -/
def GoesOn (e : Instr) (s : State) (k : Nat) (pc : Word) : Prop :=
  ∃ t, exec e s = .next t ∧ t.cur = s.cur ∧ (t.hart k).wait = none ∧ (t.hart k).pc = pc + 4

/-- A wait of an access for its translation, a recess, the host link, or a locket. -/
def AccessWait (w : Why) : Prop := w = .recess ∨ w = .migrating ∨ w = .hostLink ∨ (∃ va, w = .walk va) ∨ ∃ l, w = .touch l

end Sys2Proof.Claim

/-- R251, R260, R269, R293, R302, R200, R212: the event that ends a wait executes the parked instruction again: a load, an atomic, one held
by a watermark, once the watermarks have reached its quarter's view, by a guard window, by a strand, by the array's owner, or by its tile. Where nothing holds it up any more, it
completes.
It rests on the model's own choices of logs 1 and 11. -/
def Sys2Proof.Claim.WaitsEnd : Prop :=
  ∀ (s : State) (k : Nat) (why : Why) (i : Instr), ParkedOn (s.hart k) why i →
    let me := { s with cur := k }
    let h := s.hart k
    let shown := { s with harts := s.harts.map fun (e : Nat × Hart) => (e.1, e.2.showMarks [slotQuarter k]) }
    (AccessWait why → isLoad i = true → Executes (.loadPerformed k) i s k) ∧ (AccessWait why → isAtomic i = true → Executes (.atomicAtHome k) i s k) ∧
    (why = .watermark → (isLoad i = true ∨ isAtomic i = true) → ExecutesIn (.watermarkStallEnd k) i s shown k) ∧
    (∀ n a, why = .guard → i = .wmset n a → Executes (.guardWindowRelease k) i s k) ∧
    (∀ d st x, why = .strand → (i = .strpush d st x ∨ i = .strpop d st) → Executes (.strandWaitEnd k) i s k) ∧
    (∀ z d v m f tw, why = .array → i ∈ [Instr.wswap, .mma z v m f tw, .tgemm z d f tw] → Executes (.arrayAcquire k) i s k) ∧
    (∀ x z d f tw, why = .tile x → i = .tgemm z d f tw → Executes (.tgemmStep k) i s k) ∧
    (∀ d b off u loc,
      let va := address me b off
      i = .ld d b off → va.toNat % 8 = 0 →
        (me.access .scalar .load va 8 = .ok u loc → AccessWait why → GoesOn (.loadPerformed k) s k u.me.pc) ∧
        (({ shown with cur := k } : State).access .scalar .load va 8 = .ok u loc → why = .watermark → GoesOn (.watermarkStallEnd k) s k u.me.pc)) ∧
    (∀ d a b u loc, i = .amoAdd d a b 0 0 → (h.sget a).toNat % 8 = 0 → me.access .scalar .atomic (h.sget a) 8 = .ok u loc → me.buffering k = false →
      u.buffering u.cur = false → AccessWait why → GoesOn (.atomicAtHome k) s k u.me.pc) ∧
    (∀ n a, why = .guard → i = .wmset n a → me.buffering k = false → me.guardHolds (h.sget a).toNat = false → s.writes = [] →
      GoesOn (.guardWindowRelease k) s k h.pc) ∧
    (∀ id g d st x slots src dst, why = .strand → i = .strpush d st x → h.member = some id → s.group? id.group = some g → me.buffering k = false →
      (h.sget st).toNat < 16 → g.strands[(h.sget st).toNat]? = some (slots, src, dst) → h.stage = src → s.recess.start = none →
      (g.items.get [] (16 * id.team + (h.sget st).toNat)).length < slots → GoesOn (.strandWaitEnd k) s k h.pc) ∧
    (why = .array → i = .wswap → ArrayOpen me → GoesOn (.arrayAcquire k) s k h.pc)

/-- R351, R104, R347, R348, R290, R350: with no other task irrevocable the oldest locket holder whose buffer is full commits its lines
as one write, d being set already in the pages they reach (R383), is irrevocable, and its store executes; `IDLE` ends 65,536 cycles after it began; a wound restarts its task at its
stage's entry under the same stamp; a committing task without a soft error in its lines ends, its slot free and its member ended, in a failed group stopped (R278).
It rests on the model's own choices of logs 41 and 43. -/
def Sys2Proof.Claim.TasksMove : Prop :=
  ∀ (s : State) (k : Nat),
    let h := s.hart k
    (∀ i l f, h.wait = some ⟨.overflow, i, l, f⟩ → h.blk = none → h.run = .running → h.preempt = [] → h.wound = false → h.bad = [] →
      s.recess.start = none → s.anyIrrevocable = false → s.holdsLocket k = true → (∀ x, x ∈ s.holderStamps → h.task.stamp ≤ x) →
      (∀ x, x ∈ h.lines ++ h.spill → x.leaves = [] ∧ (s.hostLink = none → inHostMem x.pa = false)) →
      let cells := (h.lines ++ h.spill).flatMap Line.cells
      let unordered := fun (w : Write) => { w with toScalar := false, toVector := false }
      ∃ u v : State, SameMemory s u ∧ u = { s with harts := u.harts, writes := u.writes, issued := u.issued, slabForms := u.slabForms } ∧
        (cells = [] → u.writes = s.writes) ∧
        (cells ≠ [] → ∃ ws w, u.writes = ws ++ [w] ∧ ws.map unordered = s.writes.map unordered ∧ w.bytes = cells ∧ w.path = .h ∧ w.slot = some k ∧
          w.applied = 0) ∧
        u.hart k = { h with lines := [], spill := [], clock := (u.hart k).clock } ∧
        v = u.setHart k { u.hart k with
          task := { h.task with irrevocable := true }
          wait := if i = .nop then none else h.wait } ∧
        (i = .nop → exec (.becomeIrrevocable k) s = .next v) ∧
        ∀ x b off, i = .sd x b off → ∃ t, exec i { v with cur := k } = .next t ∧ exec (.becomeIrrevocable k) s = .next { t with cur := s.cur }) ∧
    (∀ n since i l f, h.wait = some ⟨.idle n since, i, l, f⟩ → since + 65536 ≤ s.beacon → h.run = .running → h.yields = false → h.blk = none →
      exec (.idleTimeBound k) s = .next (s.setHart k { h with pc := h.pc + 4, velem := velemAfter h, wait := none })) ∧
    ∀ id g, h.member = some id → s.group? id.group = some g →
      (h.wound = true → h.run = .running → h.system = false → h.task.committing = false → h.task.irrevocable = false →
        ∃ t, exec (.woundDelivery k) s = .next t ∧
          let x := t.hart k
          x.pc = g.entry.getD h.stage 0 ∧ x.s = g.startRegs id ∧ x.w = h.w ∧ x.task = ⟨h.task.stamp, true, false, false⟩ ∧
          x.seniority = BitVec.ofNat 64 h.task.stamp ∧ x.lines = [] ∧ x.spill = [] ∧ x.wound = false ∧ x.wait = none ∧ x.member = some id) ∧
      ∀ m, g.members.find id.key = some m → h.run = .running → h.task.committing = true → h.bad = [] → s.recess.start = none →
        (∀ x, x ∈ h.lines ++ h.spill → s.hostLink = none → inHostMem x.pa = false) →
        ∃ t g' m', exec (.locketCommit k) s = .next t ∧ (t.hart k).run = .free ∧ (t.hart k).member = none ∧
          t.group? id.group = some g' ∧ g'.members.find id.key = some m' ∧ m'.state = if g.counts then .ended else .stopped

/-- R214, R215, R347: two halves of an `MMA` that wait for each other, no wound on its way to either, combine in the owner's tile, and both harts go on; the side that has waited
65,536 cycles, the other not having arrived and no wound on its way, takes the pairing trap, and its attempt stays for the next one of a partner in its slot.
It rests on the model's own choice of log 28. -/
def Sys2Proof.Claim.TwinSteps : Prop :=
  ∀ (s : State) (o : Nat),
    let p := o + 32
    (∀ zd va mk f tw n l b zp vp mp fp twp np lp bp,
      o / 32 % 2 = 0 → (s.hart o).run = .running → (s.hart p).run = .running → (s.hart o).woundReady = false → (s.hart p).woundReady = false →
      (s.hart o).wait = some ⟨.pair n none, .mma zd va mk f tw, l, b⟩ →
      (s.hart p).wait = some ⟨.pair np none, .mma zp vp mp fp twp, lp, bp⟩ →
      let mine := (s.hart o).mmaHalf va mk f (s.core (o / 4)).front
      let other := (s.hart p).mmaHalf vp mp fp (s.core (p / 4)).front
      ∀ slot, slot ∈ [o, p] →
        ∃ t, exec (.twinPairing slot) s = .next t ∧ t = { s with harts := t.harts } ∧
          t.hart o = ((s.hart o).mma zd mine (some other)).next ∧ t.hart p = (s.hart p).next ∧ ∀ k, k ≠ o → k ≠ p → t.hart k = s.hart k) ∧
    ∀ since d i l b, (s.hart s.cur).wait = some ⟨.pair since d, i, l, b⟩ → since + 65536 ≤ s.beacon → s.me.run = .running → s.me.system = false →
      s.me.woundReady = false →
      let q := if s.cur / 32 % 2 = 0 then s.cur + 32 else s.cur - 32
      (s.hart q).attempt? = none → (∀ x : BitVec 256, d = some x → ((s.core (s.cur / 4)).tile (x.toNat % 64)).state ≠ .draining) →
      TrapTaken (exec (.pairingTimeout s.cur) s) (if s.partnerHere s.cur then s.setHart q { s.hart q with missed := s.me.attempt? } else s) 0x11 s.me.pc (BitVec.ofNat 64 q)

/-- R200, R212 to R215, R251, R260, R269, R290, R293, R302, R347 to R351: the steps by which a parked hart goes on.
It rests on the model's own choices of logs 1, 11, 28, 41 and 43. -/
def Obligations.WakeEvents : Prop := WaitsEnd ∧ TasksMove ∧ TwinSteps

/-! ## Steps of the queues, the groups and the copy engines (11_memory, 14_group to 16_queue) -/

namespace Sys2Proof.Claim

/-- The members of team `tm` of a group have started on a place: each in its slot, at the entry of its stage, with its registers as at
start (R276, R288). -/
def Started (t : State) (gn : Nat) (g : Group) (tm cl k : Nat) : Prop :=
  ∀ m, m < g.n →
    let h := t.hart (placeSlot cl k g.n m)
    h.run = .running ∧ h.member = some ⟨gn, tm, m⟩ ∧ h.pc = g.entry.getD (m % g.stages) 0 ∧ h.s = g.startRegs ⟨gn, tm, m⟩ ∧ h.asid = g.asid ∧
      h.system = false ∧ h.grpcoord = g.coord ⟨gn, tm, m⟩ (m % g.stages)

/-- The state of a group. -/
def groupState (s : State) (gn : Nat) : Option GroupState := (s.group? gn).map (·.state)

end Sys2Proof.Claim

/-- R284 to R286, R394: outside a recess `KERNEL_LOAD` of a record that passes its checks in a live context, none in force at the address and no weight range
taken, loads the kernel with no group; `KERNEL_RETIRE` retires it at once without groups, and else marks it retiring. Each writes
the kernel's state word, and where its translation is cached and dirty and the device owes no other word nothing else of memory. A load finds `u`, the state after the
walk of the record's page.
It rests on the model's own choices of logs 15 and 33. -/
def Sys2Proof.Claim.Kernels : Prop :=
  ∀ (s : State) (asid : Nat) (rec : Word),
    let done := fun (i : Instr) (u : State) (new : Kernel) (word : Nat) =>
      ∃ t, exec i s = .next t ∧ t.kernel? asid rec = some new ∧ (∀ a r, ¬(a = asid ∧ r = rec) → t.kernel? a r = s.kernel? a r) ∧
        t = { u with
          kernels := t.kernels
          views := t.views
          writes := t.writes
          applied := t.applied
          issued := t.issued
          regions := t.regions
          records := t.records
          slabForms := t.slabForms
          tlbs := t.tlbs
          pins := t.pins
          owed := t.owed } ∧
        (u.owed = [] → u.deviceDest asid (rec + 16) = none → SameMemory u t) ∧
        ∀ tr loc, u.recess.start = none → u.owed = [] → u.deviceDest asid (rec + 16) = some (tr, loc) →
          (∃ e, u.cached 0 asid (rec + 16) = some e ∧ e.dirty = true) → QuietHome u (homeOf loc) → HomeBytes u t (homeOf loc) loc 8 word
    (s.recess.start = none → s.soft = [] →
      let u := s.deviceLook asid rec 256
      ((∀ p, p ∈ pagesOf rec 256 → (s.cached 0 asid p).isSome = true) → u = s) ∧
      ∀ k, u.kernelRecord asid rec = some k → k.loadOk = true → Live (s.ctx asid) → rec.toNat % 256 = 0 →
        (∀ o, s.kernel? asid rec = some o → o.retired = true) →
        (∀ o, o ∈ s.kernels → o.retired = false → k.weightLen ≠ 0 → o.weightLen ≠ 0 →
          k.weightOff + k.weightLen ≤ o.weightBase ∨ o.weightBase + o.weightLen ≤ k.weightOff) →
        done (.kernelLoad asid rec) u ⟨asid, rec, false, false, 0, k.weightOff, k.weightLen⟩ 0) ∧
    ∀ k, s.kernel? asid rec = some k → k.retired = false →
      (k.groups = 0 → done (.kernelRetire asid rec) s { k with retired := true, retiring := false, weightLen := 0 } 2) ∧
      (k.groups ≠ 0 → done (.kernelRetire asid rec) s { k with retiring := true } (5 + k.groups * 65536))

/-- R298 to R302, R312, R394: the host's queue commands and, outside a recess, the take of a ring's entry. A resume makes the nodes ready whose counters have reached 0, but
none whose launch descriptor a recess or a host link that is down keeps from being read (R7). Of the host's own entry the kernel's record is looked up in `u`, the state after the walk; the entry stays while that record
lies behind the link, or its launch record has no place (log 12).
It rests on the model's own choices of logs 12, 15, 33, 35 and 51. -/
def Sys2Proof.Claim.QueueCommands : Prop :=
  ∀ (s : State) (q : Nat),
    let x := s.queue q
    let reads := fun (n : Node) => n.kind = 0 ∧ (n.desc.extractLsb' 192 64).toNat % 64 = 0
    let atHand := s.soft = [] ∧ ∀ m, m ∈ x.nodes → m.kind = 0 → ∀ p, p ∈ pagesOf (m.desc.extractLsb' 192 64) 256 → (s.cached 0 x.asid p).isSome = true
    let free := { s with reserved := s.reserved.filter fun r => r.2 / 2048 != q }
    let quiet := ∀ e, e ∈ s.groups → e.2.queue = some q → e.2.state ≠ .pending
    (∀ asid prio guarded cap, q < 64 → x.state = .off → Live (s.ctx asid) → prio ≤ 7 → (∃ k, k < 13 ∧ cap = 2 ^ (k + 4)) →
      exec (.queueEnable q asid prio guarded cap) s = .next (s.setQueue q { Queue.off with
        state := .empty
        asid := asid
        prio := prio
        guarded := guarded
        cap := cap })) ∧
    (x.state ≠ .off →
      (∃ t, exec (.queueDisable q) s = .next t ∧ t.queue q = Queue.off) ∧
      (quiet → exec (.queueDisable q) s = .next (({ free with groups := s.groups.map fun (e : Nat × Group) =>
        (e.1, if e.2.queue = some q then { e.2 with queue := none, node := none } else e.2) }).setQueue q Queue.off))) ∧
    (x.state = .fault → quiet →
      exec (.queueReset q) s = .next (free.setQueue q { x with
        state := .empty
        ring := []
        taken := none
        graph := .none
        nodes := []
        steps := 0
        fault := 0
        node := 0
        from_ := 0 })) ∧
    (x.state = .fault →
      ∃ t, exec (.queueResume q) s = .next t ∧ (∀ n, n ≠ q → t.queue n = s.queue n) ∧
        (atHand → t = { s with queues := t.queues }) ∧
        let y := t.queue q
        y = { x with state := y.state, fault := 0, node := 0, from_ := 0, nodes := y.nodes } ∧ (y.state = .active ∨ y.state = .empty) ∧
        (x.ring ≠ [] → y.state = .active) ∧ y.nodes.length = x.nodes.length ∧
        ∀ (j : Nat) (n : Node), x.nodes[j]? = some n → ∃ m : Node, y.nodes[j]? = some m ∧
          let due := x.graph = .running ∧ n.state = .waiting ∧ n.counter = 0
          (due → (¬reads n ∨ s.recess.start = none ∧ (s.hostLink ≠ none ∨ atHand ∧ s.deviceAway x.asid (n.desc.extractLsb' 192 64) 256 = false)) → m.state = .ready) ∧
          ((¬due ∨ reads n ∧ (s.recess.start ≠ none ∨ atHand ∧ s.deviceAway x.asid (n.desc.extractLsb' 192 64) 256 = true)) → m.state = n.state)) ∧
    (∀ desc, x.state ≠ .off → x.ring.length < x.cap →
      exec (.hostRingSubmit q desc) s = .next (s.setQueue q { x with ring := x.ring ++ [.host desc] })) ∧
    (s.recess.start = none → (x.state = .active ∨ x.state = .empty) → x.taken = none → ((s.ctx x.asid).state = .loaded ∨ (s.ctx x.asid).state = .running) →
      let last := x.last.bind s.group?
      let free := fun (bs : List (Nat × Nat)) =>
        if x.guarded then
          (∀ g, last = some g → g.state ≠ .pending) ∧ (x.last = none ∨ bs.head? = some (0, 0))
        else (∀ g, last = some g → g.state ≠ .pending ∧ g.state ≠ .running) ∨ ∃ b, b ∈ bs ∧ (b.1 = 0 ∨ some b.1 = x.last)
      let took := fun (r : List Entry) (gn : Nat) => { x with ring := r, taken := some gn, last := some gn, state := .active }
      (∀ gn g r, x.ring = .launched gn :: r → s.group? gn = some g → free (g.bindings.map fun b => (b.producer, b.index)) →
        exec (.ringEntryTake q) s = .next (((s.setQueue q { x with ring := r }).setGroup gn { g with
          bindings := g.bindings.map fun b => if b.producer = 0 then { b with producer := x.last.getD 0 } else b
          pred := if x.guarded then none else x.last
          tied := if x.guarded then x.last else none }).setQueue q (took r gn))) ∧
      ∀ desc r, x.ring = .host desc :: r →
        let l := Launch.of desc
        free (l.bindings.map fun b => (b.1, b.2.2.1)) →
          let u := (s.setQueue q { x with ring := r }).lookKernel x.asid l
          (u.launchStatus x.asid l false = linkStatus → exec (.ringEntryTake q) s = .next s) ∧
          (u.launchStatus x.asid l false ≠ 0 → u.launchStatus x.asid l false ≠ linkStatus →
            ∃ t, exec (.ringEntryTake q) s = .next t ∧ t = { u with queues := t.queues } ∧ (∀ n, n ≠ q → t.queue n = s.queue n) ∧
              t.queue q = { x with ring := r, state := .fault, fault := 4, node := 0, from_ := 0 }) ∧
          (u.launchStatus x.asid l false = 0 → u.recordAddr x.asid u.nextGroup = 0 → exec (.ringEntryTake q) s = .next s) ∧
          (u.launchStatus x.asid l false = 0 → u.recordAddr x.asid u.nextGroup ≠ 0 →
            ∃ t g, exec (.ringEntryTake q) s = .next t ∧ t.queue q = took r s.nextGroup ∧ t.nextGroup = s.nextGroup + 1 ∧
              t.group? s.nextGroup = some g ∧ g.state = .pending ∧ g.kernel = l.kernel ∧ g.queue = some q ∧
              g.pred = (if x.guarded then none else x.last) ∧ g.tied = (if x.guarded then x.last else none) ∧
              ∀ n, n ≠ s.nextGroup → t.group? n = s.group? n))

/-- R276, R288, R304, R305, R312 to R318: grants, node completions, team starts, slot grants and steals. A completion
reads the launch descriptor of a successor that it makes ready, outside a recess and with the link it needs; that changes nothing more where its pages are at hand.
It rests on the model's own choices of logs 15, 32, 33, 35 and 52. -/
def Sys2Proof.Claim.GroupSteps : Prop :=
  ∀ (s : State),
    (∀ q gn g ps r, (∀ n, n < 64 → (s.queue n).prio ≠ 7 ∧ ((s.queue n).ring = [] ∨ (s.queue n).taken ≠ none)) → s.choose = some (q, .ring gn, .places ps) → s.group? gn = some g →
      (({ s.setQueue q { s.queue q with taken := none } with
          lastGrant := s.lastGrant.put (s.queue q).prio q
          reserved := s.reserved.filter fun r => r.2 != 2048 * q } : State).deviceLook g.asid g.kernel 256).kernelRecord g.asid g.kernel = some r → r.lockets = 0 →
      ∃ t g', exec .dispatcherGrant s = .next t ∧ (t.queue q).taken = none ∧ t.lastGrant.get 0 (s.queue q).prio = q ∧
        t.group? gn = some g' ∧ g'.state = .running ∧ g'.kernel = g.kernel ∧ g'.places.map (fun p => (p.cluster, p.k)) = ps ∧
        (t.ctx g.asid).state = .running) ∧
    (∀ q j n cl seq e st c, j < 1024 → (s.queue q).nodes[j]? = some n → (s.queue q).graph = .running → (s.queue q).state = .active →
      n.state = .running → n.group = none → n.cmd = some (cl, seq) → ((s.cluster cl).done.find? fun e => e.1 == seq) = some (e, st, c) →
      let done := fun (hand : Prop) (f : State → Prop) => ∃ t, exec (.nodeComplete q [j]) s = .next t ∧ (hand → t = { s with queues := t.queues }) ∧
        (∀ n, n ≠ q → t.queue n = s.queue n) ∧ ((t.queue q).nodes[j]?).map (·.state) = some .done ∧ f t
      (st ≠ 0 → done True fun t => (t.queue q).graph = .stopped ∧ (t.queue q).state = .fault ∧ (t.queue q).fault = 2 ∧ (t.queue q).node = j) ∧
      ∀ k m, st = 0 → n.succ = [k] → k ≠ j → (s.queue q).nodes[k]? = some m →
        let reads := m.kind = 0 ∧ (m.desc.extractLsb' 192 64).toNat % 64 = 0
        (m.counter = 0 → done True fun t =>
          (t.queue q).graph = .stopped ∧ (t.queue q).state = .fault ∧ (t.queue q).fault = 3 ∧ (t.queue q).node = k ∧ (t.queue q).from_ = j) ∧
        (m.counter ≠ 0 → done (reads → s.soft = [] ∧ ∀ p, p ∈ pagesOf (m.desc.extractLsb' 192 64) 256 → (s.cached 0 (s.queue q).asid p).isSome = true) fun t => ∃ y, (t.queue q).nodes[k]? = some y ∧ y.counter = m.counter - 1 ∧ y.clock = m.clock.max c ∧
          (m.counter = 1 → (reads → s.recess.start = none ∧ s.deviceAway (s.queue q).asid (m.desc.extractLsb' 192 64) 256 = false) → y.state = .ready) ∧ (m.counter ≠ 1 → y.state = m.state))) ∧
    (∀ gn g place p tm, s.group? gn = some g → g.state = .running → g.nextTeam place = some tm → g.places[place]? = some p →
      let c := s.cluster p.cluster
      let rec_ := Record.team gn place
      let alive := (s.ctx g.asid).state = .loaded ∨ (s.ctx g.asid).state = .running
      let first := ∀ x h, s.nextRecord p.cluster = some x → s.group? x.group = some h → h.prio < g.prio
      let free := alive ∧ s.placeFree p.cluster p.k g.n = true ∧ s.placeTakes gn g p.cluster p.k = true ∧ first
      let elsewhere := rec_ ∈ c.ready ∨ ∃ x, x ∈ s.steals ∧ x.record = some rec_
      (¬elsewhere → free → ∃ t g', exec (.teamStart gn place) s = .next t ∧ Started t gn g tm p.cluster p.k ∧ t.group? gn = some g' ∧
        (g'.places[place]?).map (·.busy) = some true ∧ (t.cluster p.cluster).ready = c.ready) ∧
      (¬elsewhere → ¬free → exec (.teamStart gn place) s = .next (s.setCluster p.cluster { c with ready := c.ready ++ [rec_] })) ∧
      (elsewhere → exec (.teamStart gn place) s = .next s) ∧
      (s.nextRecord p.cluster = some rec_ →
        ∃ t g', exec (.clusterSlotGrant p.cluster) s = .next t ∧ Started t gn g tm p.cluster p.k ∧ t.group? gn = some g' ∧
          (g'.places[place]?).map (·.busy) = some true ∧ (t.cluster p.cluster).ready = c.ready.filter fun r => r != rec_)) ∧
    (∀ thief v r, thief < 32 → (s.cluster thief).ready = [] → (∃ u, u < 32 ∧ (s.hart (32 * thief + u)).run = .free) →
      (∀ x, x ∈ s.steals → x.thief ≠ thief) → s.busiest = some v →
      ((s.cluster v).ready.find? fun r => r.isTeam && (s.holdsRecord thief r).isSome) = some r →
      exec (.stealMessage thief) s = .next { s.setCluster v { s.cluster v with ready := (s.cluster v).ready.filter fun x => x != r } with
        steals := s.steals ++ [⟨some r, thief, v⟩] }) ∧
    ∀ index gn p thief v down, s.steals[index]? = some ⟨some (.team gn p), thief, v⟩ →
      let r := Record.team gn p
      (∃ t, exec (.stealDelivery index false down) s = .next t ∧ t.steals = s.steals.eraseIdx index ∧
        (t.cluster thief).ready = (s.cluster thief).ready ++ [r] ∧ (∀ c, c ≠ thief → t.cluster c = s.cluster c) ∧
        ∀ g x, s.group? gn = some g → g.places[p]? = some x → ∃ g', t.group? gn = some g' ∧
          g'.places[p]? = some { x with cluster := thief, k := (s.holdsRecord thief r).getD 0 }) ∧
      exec (.stealDelivery index true false) s = .next (({ s with steals := s.steals.eraseIdx index }).setCluster v
        { s.cluster v with ready := r :: (s.cluster v).ready })

/-- R228, R231, R236, R237, R193, R246, R264, R397: a started `CPY` of bytes of one page into one block, its page known to be dirty, issues them in the view of
its quarter, waking the home quarters it reaches, outside the slabs or into a tile of its group that takes a writer and is then filling;
it ends with status 0.
A reload takes the tables of its image once the idle generation is unused, and makes it the active one. A command
whose writes stand everywhere is complete, its status kept under its number; its group's successors follow it.
It rests on the model's own choices of logs 5 and 31. -/
def Sys2Proof.Claim.EngineSteps : Prop :=
  ∀ (s : State) (cl seq : Nat) (m : Cmd), (s.cluster cl).cmd? seq = some m → s.recess.start = none →
    let c := s.cluster cl
    let n := m.len.toNat
    let others := fun (t : State) => ∀ k, k ≠ cl → t.cluster k = s.cluster k
    (∀ i lsrc ldst (u : State) (ws : List Nat),
      (i = .copyCommandStart cl seq ∧ m.state = .accepted ∧ s.beacon + 2048 < (s.recess.number + 1) * 2 ^ 23 ∧
          (∀ x, x ∈ c.cmds → x.seq < seq → x.state ≠ .accepted ∧ x.state ≠ .reloading)) ∨
        (i ∈ [Instr.copyCommandStart cl seq, .tileWriterAccept cl seq] ∧ m.state = .waiting) →
      m.kind = .cpy → m.doom = [] → m.held = [] → 1 ≤ n → m.source.toNat % 4096 + n ≤ 4096 → m.dest.toNat % 256 + n ≤ 256 → m.denseBad = false → s.soft = [] → ldst + 256 < 2 ^ 64 →
      s.engineTranslate cl m .load m.source = .ok s lsrc → s.engineTranslate cl m .write m.dest = .ok s ldst → slabOf lsrc = none →
      (inWindow m.dest = true ∨ ∃ e, s.cached (cl / 8) m.asid m.dest = some e ∧ e.dirty = true) →
      (slabOf ldst ≠ none → s.tileOfLoc (ldst / 4096 * 4096) = s.tileOfLoc ldst) →
      ((slabOf ldst = none ∧ u = s ∧ ws = m.writes) ∨
        ∃ k e tl, s.tileOfLoc ldst = some (k, e, tl) ∧ tl.group = m.group ∧ m.group ≠ none ∧ 64 * k + e ∉ m.writes ∧
          (tl.state = .empty ∨ tl.state = .filling) ∧ u = s.setTile k e { tl with state := .filling } ∧ ws = m.writes ++ [64 * k + e]) →
      ∃ t issued m', exec i s = .next t ∧
        t = { u with
          writes := s.writes ++ issued
          issued := t.issued
          freeCtr := t.freeCtr
          slabForms := t.slabForms
          quarterPower := t.quarterPower
          devicePower := 0
          clusters := t.clusters } ∧
        (∀ q, ((q = homeOf lsrc ∨ q = homeOf ldst) → t.quarterPower.get 0 q = 0) ∧
          (¬(q = homeOf lsrc ∨ q = homeOf ldst) → t.quarterPower.get 0 q = s.quarterPower.get 0 q)) ∧
        (∀ w, w ∈ issued → w.quarter = cl / 8 ∧ w.path = .c ∧ w.slot = none ∧ w.applied = 0) ∧
        (∀ l b, (∃ w, w ∈ issued ∧ (l, b) ∈ w.bytes) ↔ ∃ j, j < n ∧ l = ldst + j ∧ b = s.viewByte (cl / 8) .c (lsrc + j)) ∧
        (t.cluster cl).cmd? seq = some m' ∧ m' = { m with state := .moved 0, writes := ws, clock := m'.clock } ∧ others t) ∧
    (m.state = .reloading → m.doom = [] → s.genUsed cl (!c.active) = false → unreachable m.source 624 = false → m.source.toNat % 4096 + 624 ≤ 4096 → s.soft = [] →
      ∀ loc, s.engineTranslate cl m .load m.source = .ok s loc → slabOf loc = none →
        (∀ j, 6 ≤ j → j < 64 → s.viewByte (cl / 8) .c (loc + j) = 0) →
          let field := fun (o n : Nat) => s.viewNat (cl / 8) .c (loc + o) n
          ∃ t m', exec (.decodeTableReload cl seq) s = .next t ∧
            t = { s with clusters := t.clusters, quarterPower := s.quarterPower.put (homeOf loc) 0, devicePower := 0 } ∧ others t ∧
            t.cluster cl = { c with
              cmds := (t.cluster cl).cmds
              active := !c.active
              gens := c.gens.setIfInBounds (if c.active then 0 else 1)
                ⟨BitVec.ofNat 128 (field 64 16), BitVec.ofNat 256 (field 80 32), BitVec.ofNat 4096 (field 112 512)⟩ } ∧
            (t.cluster cl).cmd? seq = some m' ∧ m' = { m with state := .moved 0 }) ∧
    ∀ st, m.state = .moved st → c.seq ≤ seq + 4097 →
      (∃ t, exec (.copyCommandComplete cl seq) s = .next t ∧ ((t.cluster cl).done.find? fun e => e.1 == seq) = some (seq, st, m.clock) ∧
        (t.cluster cl).cmd? seq = none ∧ (t.cluster cl).seq = c.seq ∧ others t) ∧
      (m.reads = [] → m.writes = [] → s.writes = [] →
        let u := s.setCluster cl { c with
          cmds := c.cmds.filter fun x => x.seq != seq
          done := ((seq, st, m.clock) :: c.done).filter fun e => c.seq ≤ e.1 + 4097 }
        ∃ t, exec (.copyCommandComplete cl seq) s = .next t ∧ t = { u with groups := t.groups } ∧
          ∀ g, t.group? g = if m.group = some g then (s.group? g).map fun x => { x with ended := x.ended.max m.clock } else s.group? g)

/-- R193, R228 to R237, R246, R264, R276, R284 to R288, R298 to R318: the steps by which work enters the device, is shared out, and is
moved by a copy engine.
It rests on the model's own choices of logs 5, 15, 31, 32, 33, 35, 51 and 52. -/
def Obligations.QueueAndCopyEvents : Prop := Kernels ∧ QueueCommands ∧ GroupSteps ∧ EngineSteps

/-! ## Steps of contexts, of time and of power (20_context, 22_recess) -/

namespace Sys2Proof.Claim

/-- Every unit of the save area of the hart in slot `k` is known and may be written. -/
def AreaKnown (s : State) (k : Nat) (area : Word) (loc : Nat → Nat) : Prop :=
  ∀ u, u < 4032 → Known { s with cur := k } .write (area + BitVec.ofNat 64 (64 * u)) (loc u)

/-- The host has unmapped no pinned page of the save area: none is pinned, or every unit is mapped while no write waits that could change the tables. -/
def AreaMapped (s : State) (k : Nat) (area : Word) : Prop :=
  let va := fun u => area + BitVec.ofNat 64 (64 * u)
  (∀ p, p ∈ s.pins → ∀ u, u < 4032 → p.trans.covers (s.hart k).asid (va u) = false) ∨
    (s.writes = [] ∧ ∀ u n, u < 4032 → s.pinLost (slotQuarter k) (s.hart k).asid n (va u) = none)

/-- A hart has been saved: its slot is free, its member is saved with what is true of `f`, and is a ready record of its cluster. -/
def SavedOut (s t : State) (k : Nat) (id : MemberId) (f : Hart → Prop) : Prop :=
  (t.hart k).run = .free ∧ (t.cluster (k / 32)).ready = (s.cluster (k / 32)).ready ++ [.member id] ∧
    ∃ g m h, t.group? id.group = some g ∧ g.members.find id.key = some m ∧ m.state = .saved ∧ m.slot = k ∧ m.saved = some h ∧ f h

/-- Nothing of a context is left in a slot or in an engine. -/
def Vacant (s : State) (asid : Nat) : Prop :=
  (∀ e, e ∈ s.harts → e.2.asid = asid → e.2.run = .free) ∧ ∀ c m, c ∈ s.clusters → m ∈ c.2.cmds → m.asid ≠ asid

end Sys2Proof.Claim

/-- R359, R366, R375, R385: the host's commands on a context, each in the state that the life of a context gives it. A tear-down ends every wait for an
answer to a record of the context (R385).
It rests on the model's own choices of logs 35 and 40. -/
def Sys2Proof.Claim.ContextLife : Prop :=
  ∀ (s : State) (asid : Nat),
    let c := s.ctx asid
    let moved := fun (st : CtxState) => s.setCtx asid { c with state := st }
    let asked := fun (n : Nat) => s.faults.any fun f => f.asid == asid && f.ticket == n
    (∀ root stackBase stackLen saveBase saveLen (tvec : Word), asid < 4096 → c.state = .free →
      exec (.contextCreate asid root stackBase stackLen saveBase saveLen tvec) s = .next (s.setCtx asid { Ctx.free with
        state := .loaded
        root := root
        stackBase := stackBase
        stackLen := stackLen
        saveBase := saveBase
        saveLen := saveLen
        ltvec := BitVec.ofNat 64 (tvec.toNat / 2048 * 2048) })) ∧
    (c.state = .running → s.keysOk →
      ∃ t, exec (.contextSave asid) s = .next t ∧ t = { moved .saving with harts := t.harts } ∧
        ∀ k, t.hart k = if (s.hart k).asid = asid ∧ (s.hart k).run = .running then
          { s.hart k with preempt := (s.hart k).preempt ++ [⟨s.beacon, some (if (s.hart k).system then 0 else 2 ^ 20)⟩] } else s.hart k) ∧
    (c.state = .saving → Vacant s asid →
      exec (.saveComplete asid) s = .next { moved .saved with records := s.records ++ [⟨1, asid, 0xFFFF, 0, 0, 0, 0⟩] }) ∧
    (c.state = .saved → ∀ st, (if ∃ e, e ∈ s.groups ∧ e.2.asid = asid ∧ (e.2.state = .pending ∨ e.2.state = .running) then st = CtxState.running else st = .loaded) →
      exec (.contextRestore asid) s = .next (moved st)) ∧
    ((c.state = .loaded ∨ c.state = .running ∨ c.state = .saving ∨ c.state = .saved) →
      (∃ t, exec (.contextTearDown asid) s = .next t ∧ (∀ f, f ∈ t.faults → f.asid ≠ asid) ∧ ∀ w, w ∈ t.walks → w.asid ≠ asid) ∧
      (Vacant s asid → (∀ k, k ∈ s.kernels → k.asid = asid → k.retired = true) →
        (∀ e, e ∈ s.groups → e.2.asid = asid → ∃ g, s.group? e.1 = some g ∧ g.state ≠ .pending ∧ g.state ≠ .running) →
        exec (.contextTearDown asid) s = .next { moved .dying with
          faults := s.faults.filter fun f => f.asid != asid
          ports := s.ports.map fun p => (p.1, { p.2 with
            q0 := if p.2.fault0.any asked then p.2.q0.drop 1 else p.2.q0
            q1 := if p.2.fault1.any asked then p.2.q1.drop 1 else p.2.q1
            fault0 := p.2.fault0.filter fun n => !asked n
            fault1 := p.2.fault1.filter fun n => !asked n })
          walks := s.walks.filter fun w => w.asid != asid })) ∧
    (c.state = .dying → Vacant s asid →
      ∃ t, exec (.contextTorn asid) s = .next t ∧ t = { moved .torn with queues := t.queues, reserved := t.reserved } ∧
        ∀ q, t.queue q = if q < 64 ∧ (s.queue q).state ≠ .off ∧ (s.queue q).asid = asid then Queue.off else s.queue q) ∧
    (c.state = .torn → asid < 4096 → s.keysOk →
      ∃ t, exec (.contextRelease asid) s = .next t ∧ t = { s with tlbs := t.tlbs, pins := t.pins, kernels := t.kernels, owed := s.owed.filter fun w => w.1 != asid, ctxs := t.ctxs } ∧
        t.ctx asid = Ctx.free ∧ (∀ a, a ≠ asid → t.ctx a = s.ctx a) ∧ (∀ q e, e ∈ t.tlbs.get [] q ↔ e ∈ s.tlbs.get [] q ∧ e.asid ≠ asid) ∧
        t.pins = (s.pins.filter fun p => p.trans.asid != asid) ∧ t.kernels = s.kernels.filter fun k => k.asid != asid)

/-- R306, R364 to R367, R373, R374: a pre-emption request waits at its hart, in system mode for its first boundary in task mode; one whose bound has passed, at a hart whose next
instruction raises no trap of its own and whose task is not committing (R354), or a save that goes on after its fault, saves the hart, none of whose buffered lines holds a soft error, into its area, frees the slot and leaves
a ready record; releasing a frozen hart frees its slot. The host has unmapped no page of the area meanwhile (log 53).
It rests on the model's own choices of logs 10, 24 and 53. -/
def Sys2Proof.Claim.HartsLeave : Prop :=
  ∀ (s : State) (k : Nat),
    let h := s.hart k
    (∀ bound, bound = 2 ^ 16 ∨ bound = 2 ^ 20 → h.run = .running →
      exec (.preemptionRequest k bound) s = .next (s.setHart k { h with preempt := h.preempt ++ [⟨s.beacon, some (if h.system then 0 else bound)⟩] })) ∧
    ((h.run = .frozen ∨ ∃ u n v w, h.run = .saveFault u n v w) → ∃ t, exec (.hostReleaseHart k) s = .next t ∧ (t.hart k).run = .free) ∧
    ∀ id g m area loc, h.member = some id → s.group? id.group = some g → g.members.find id.key = some m → h.saveArea = some area →
      AreaKnown s k area loc → AreaMapped s k area → s.recess.start = none →
        (∀ u u' n v w, h.run = .saveFault u n v w → h.wound = false →
          ∃ t, exec (.resumeSave k u') s = .next t ∧ SavedOut s t k id fun x => x.s = h.s ∧ x.lepc = h.lepc ∧ x.laddr = h.laddr ∧ x.w = h.w) ∧
        (h.run = .running → h.system = false → h.wait = none → h.blk = none → h.wound = false → h.bad = [] → s.holdsLocket k = false → h.task.committing = false →
          ({ s with cur := k } : State).ownTrap = false → (∃ p b, p ∈ h.preempt ∧ p.bound = some b ∧ p.at_ + b ≤ s.beacon) →
          ∃ t, exec (.forcedPreemption k) s = .next t ∧ SavedOut s t k id fun x =>
            x.lcause = 0x18 ∧ x.lepc = h.pc ∧ x.laddr = 1 ∧ x.lhold = h.sget 29 ∧ x.w = h.w ∧ x.v = h.v)

namespace Sys2Proof.Claim

/-- Beacon count at which recess `n` starts, and the published length of a class (R389, R390). -/
def startOf (n : Nat) : Nat := (n + 1) * 2 ^ 23
def lengthOf (cls : Nat) : Nat := [12000, 36000, 120000].getD cls 120000

/-- A hart whose `IDLE` or `RCWAIT` has ended: it goes on at the next word, its vector unit as it stands (R104, R112, R393). -/
def goneOn (h : Hart) : Hart := { h with pc := h.pc + 4, velem := if h.blk.isSome then h.velem else velemAfter h, wait := none }

/-- The hart in slot `k` after a recess of number `n` that outlasted its length by `past` cycles: it is to report the overrun that stalled an
access of its vector unit or its scalar stream; its `IDLE` or `RCWAIT` has ended, unless a pre-emption takes it there; a frozen hart stays as it is
(R100, R104, R366, R369, R371, R393). -/
def afterRecess (s : State) (n : Nat) (past : Option Nat) (k : Nat) : Hart :=
  let h := s.hart k
  let late := fun (w : Option Wait) => match w with | some w => s.stalledWait k h w | none => false
  let g := match past with
    | some c =>
      if h.run ≠ .running then h
      else if late (match h.blk with | some b => b.wait | none => none) then { h with overrun := some (c, true) }
      else if late h.wait then { h with overrun := some (c, false) }
      else h
    | none => h
  match h.wait with
  | some ⟨.idle t _, _, _, _⟩ => if t = n ∧ h.run = .running ∧ h.yields = false then goneOn g else g
  | some ⟨.recessEnd t, _, _, _⟩ => if t = n ∧ h.run = .running ∧ h.yields = false then goneOn g else g
  | _ => g

/-- The dispatchers hold nothing back: no word is owed, and no node whose counter has reached 0 waits. -/
def NothingHeld (s : State) : Prop :=
  s.owed = [] ∧ ∀ q n, q < 64 → (s.queue q).graph = .running → (s.queue q).state ≠ .fault → n ∈ (s.queue q).nodes → n.state = .waiting → n.counter ≠ 0

/-- The end of a recess: the timetable moves on, the harts go on, ports that did not retrain have failed, an overrun is recorded. Beside that the device writes the words it
owes and makes the nodes ready whose reads waited (R312, R394). -/
def RecessOver (e : Instr) (s : State) (b : Nat) (past : Option Nat) (unfinished : Bool) : Prop :=
  let r := s.recess
  let next := r.number + 1
  let two := unfinished = true ∨ s.c2req = true ∨ (r.retrain = true ∧ ∀ m, r.lastClass2 = some m → m + 64 ≤ r.number)
  let told := s.records ++ match past with | some c => [⟨5, 0, 0xFFFF, 0, 0, BitVec.ofNat 64 c, 0⟩] | none => []
  ∃ t, exec e s = .next t ∧ t.beacon = b ∧ t.c2req = false ∧
    (NothingHeld s → t = { s with beacon := b, cores := t.cores, harts := t.harts, ports := t.ports, records := told, recess := t.recess, c2req := false }) ∧
    t.recess.number = next ∧ t.recess.start = none ∧ t.recess.lastClass2 = r.lastClass2 ∧ t.recess.retrain = r.retrain ∧
    (two → t.recess.cls = 2) ∧ (¬two → t.recess.cls = if next % 16 = 15 then 1 else 0) ∧
    (∀ k, t.hart k = afterRecess s r.number past k) ∧
    (∀ p, p < 16 → t.port p = if (s.port p).state = .retraining then
      { s.port p with state := .down, since := b, failed := (s.port p).failed + 1, retrain := true } else s.port p) ∧
    told <+: t.records

end Sys2Proof.Claim

/-- R389 to R396, R400, R407: a recess starts at its instant, with 32 temperatures taken, in class 1 and 2 voltages and process too; a cluster whose reading has passed 95 °C and not fallen below
it has its lane caps lowered, one above 105 °C brings every cap to one lane, every soft error it finds is recorded (log 26), and in class 2 the ports that asked for it train again; in A4 only the
temperatures are taken. The drain window opens 2,048 cycles before; a recess ends on time, when overdue work ends, or at four times its length, the rest of the work then making
the next recess one of class 2.
It rests on the model's own choices of logs 10, 26, 36, 38 and 41. -/
def Sys2Proof.Claim.RecessSteps : Prop :=
  ∀ (s : State),
    let r := s.recess
    let at_ := startOf r.number
    let deep := s.devicePower = 4
    (r.start = none →
      (∀ readings mv, ∃ t, exec (.recessStart readings mv) s = .next t ∧
        let given := fun (f : Nat → Prop) => ∀ c, c < 32 → ∃ x, readings[c]? = some x ∧ f x
        t = { s with
          beacon := t.beacon
          cores := t.cores
          recess := t.recess
          temps := t.temps
          volts := t.volts
          process := t.process
          hot := t.hot
          ramping := t.ramping
          freeCtr := t.freeCtr
          records := t.records
          ports := t.ports } ∧
        t.beacon = max s.beacon at_ ∧
        (r.cls ≠ 2 → t.recess = { r with start := some at_ }) ∧
        (r.cls = 2 → t.recess = { r with start := some at_, lastClass2 := some r.number, retrain := if deep then r.retrain else false }) ∧
        (∀ c, c < 32 → t.temps.get 0 c = readings.getD c (Config.monitor s.freeCtr (c + 64))) ∧
        (r.cls ≠ 0 → ¬deep → ∀ c v, c < 32 → mv[c]? = some (some v) → t.volts.get 0 c = v) ∧
        ((r.cls = 0 ∨ deep) → t.volts = s.volts ∧ t.process = s.process) ∧
        ((r.cls ≠ 2 ∨ deep) → t.ports = s.ports) ∧
        (r.cls = 2 → ¬deep → ∀ p, p < 16 → t.port p =
          if (s.port p).retrain = true ∧ (s.port p).state = .up then { s.port p with state := .retraining, since := t.beacon }
          else if (s.port p).retrain = true ∧ (s.port p).state = .down then { s.port p with state := .training, since := t.beacon }
          else s.port p) ∧
        (given (· ≤ 1050) →
          let bands := if r.cls = 0 ∨ deep then [] else
            (mv.take 32).zipIdx.filterMap fun e => e.1.map fun v => (⟨9, 0, 0xFFFF, 0, 0, BitVec.ofNat 64 e.2, v⟩ : HostRecord)
          t.records = s.records ++ bands ++ if deep then [] else s.soft.map fun a => ⟨4, 0, 0xFFFF, 0x1A, 0, BitVec.ofNat 64 a, 0⟩) ∧
        (∀ c x, c < 32 → readings[c]? = some x → (c ∈ t.hot ↔ 950 < x ∨ (x = 950 ∧ c ∈ s.hot))) ∧
        (given (fun _ => True) → ∀ c x, c < 256 → readings[c / 8]? = some x → (t.core c).lanes =
          if ∃ y, y ∈ readings.take 32 ∧ 1050 < y then 1
          else if 950 < x ∨ (x = 950 ∧ c / 8 ∈ s.hot) then max 1 ((s.core c).lanes - 1) else (s.core c).lanes)) ∧
      (s.beacon + 2048 < at_ →
        ∃ t, exec .drainWindowOpen s = .next t ∧ t = { s with beacon := at_ - 2048, cores := t.cores } ∧ t.draining = true ∧
          ∀ c, t.core c = { s.core c with
            lag := (s.core c).lag + if (s.core c).power = 2 then at_ - 2048 - s.beacon else 0
            lastBlock := (t.core c).lastBlock })) ∧
    (∀ t, r.start = some t →
      let published := t + lengthOf r.cls
      (s.beacon ≤ published → RecessOver .recessEnd s published none false) ∧
      (published < s.beacon → RecessOver .maintenanceWorkEnd s s.beacon (some (s.beacon - published)) false) ∧
      RecessOver .recessOverrunEnd s (max s.beacon (t + 4 * lengthOf r.cls)) (some (3 * lengthOf r.cls)) true) ∧
    ∀ d, d < 32 → exec (.gddr7RetrainingRequest d) s = .next { s with recess := { r with retrain := true } }

/-- R396 to R401, R399: a part enters a power state that the tolerance allows once it has been idle long enough and no ramp-down is in progress, and wakes to full power;
a lane cap moves between 1 and 32, upwards only where it is cool and no ramp is held; the rise that would begin a ramp takes an armed stagger first; the
host's writes of `pwrctl`.
It rests on the model's own choice of log 38. -/
def Sys2Proof.Claim.PowerSteps : Prop :=
  ∀ (s : State) (n : Nat),
    let x := s.core n
    let slots := [4 * n, 4 * n + 1, 4 * n + 2, 4 * n + 3]
    let still := fun (p : Nat) => (s.port p).q0 = [] ∧ (s.port p).q1 = []
    (s.rampDown = true → ∀ l, exec (.powerStateEntry l n) s = .next s) ∧
    (s.rampDown = false → 2 ≤ s.tol → n < 256 → x.power = 0 → (∀ k, k ∈ slots → (s.hart k).blk = none ∧ (s.hart k).vq = []) → x.lastBlock + 4096 ≤ s.beacon →
      exec (.powerStateEntry 1 n) s = .next (s.setCore n { x with power := 1 })) ∧
    (s.rampDown = false → 40 ≤ s.tol → n < 256 → (∀ k, k ∈ slots → (s.hart k).run = .free) → x.lastBusy + 65536 ≤ s.beacon →
      exec (.powerStateEntry 2 n) s = .next (s.setCore n { x with power := 2 })) ∧
    (s.rampDown = false → 800 ≤ s.tol → n < 4 → (∀ c, c < 64 → (s.core (64 * n + c)).power = 2) → (∀ c, c < 8 → (s.cluster (8 * n + c)).cmds = []) →
      (∀ p, p < 4 → still (4 * n + p)) →
      exec (.powerStateEntry 3 n) s = .next { s with quarterPower := s.quarterPower.put n 3 }) ∧
    (s.rampDown = false → 20000 ≤ s.tol → (∀ q, q < 4 → s.quarterPower.get 0 q = 3) → (∀ p, p < 16 → still p) →
      exec (.powerStateEntry 4 n) s = .next { s with devicePower := 4 }) ∧
    (n < 256 → ∀ l, l ∈ [1, 2] → exec (.powerWake l n) s = .next (s.setCore n { x with power := 0 })) ∧
    (n < 4 → exec (.powerWake 3 n) s = .next { s with quarterPower := s.quarterPower.put n 0 }) ∧
    exec (.powerWake 4 n) s = .next { s with devicePower := 0 } ∧
    (∀ l, n < 256 → 1 ≤ l → l ≤ 32 →
      let armed := fun (e : Nat × Nat) => s.beacon < e.2 + 300000000
      let cool := s.temps.get 0 (n / 8) < 950 ∧ ∀ e, e ∈ s.temps → e.2 < 1050
      let free := ∀ b, s.capHold = some b → b ≤ s.beacon
      let moved := { s.setCore n { x with lanes := l } with ramping := !(List.range 256).all fun c => (if c = n then l else (s.core c).lanes) == 32 }
      (l = x.lanes → exec (.laneCapChange n l) s = .next s) ∧
      (l < x.lanes → exec (.laneCapChange n l) s = .next { s.setCore n { x with lanes := l } with ramping := false }) ∧
      (x.lanes < l → ¬(cool ∧ free) → exec (.laneCapChange n l) s = .next s) ∧
      (x.lanes < l → cool → free → (s.ramping = true ∨ ∀ e, e ∈ s.stagger → ¬armed e) → exec (.laneCapChange n l) s = .next moved) ∧
      (x.lanes < l → cool → free → s.ramping = false → ∀ o e, e ∈ s.stagger → armed e → e.1 = o → (∀ y, y ∈ s.stagger → armed y → y.1 ≤ o) →
        exec (.laneCapChange n l) s = .next { s with stagger := [], capHold := some (s.beacon + 3000 * o), ramping := true })) ∧
    exec .staggerLapse s = .next { s with stagger := s.stagger.filter fun e => decide (s.beacon < e.2 + 300000000) } ∧
    (2 ≤ n → n ≤ 40 → exec (.pwrctlSlewWrite n) s = .next { s with slew := n }) ∧
    (∃ t, exec (.pwrctlTolWrite n) s = .next t ∧
      t = { s with tol := n % 2 ^ 24, cores := t.cores, quarterPower := t.quarterPower, devicePower := t.devicePower } ∧
      let keep := fun (p : Nat) => if n % 2 ^ 24 < [0, 2, 40, 800].getD p 20000 then 0 else p
      (∀ c, t.core c = { s.core c with power := keep (s.core c).power }) ∧
      (∀ q, t.quarterPower.get 0 q = keep (s.quarterPower.get 0 q)) ∧ t.devicePower = keep s.devicePower) ∧
    ∀ b, exec (.pwrctlC2reqWrite b) s = .next { s with c2req := b }

/-- R9, R243, R413: a device reset leaves the reset state, but for the records, the count of corrected errors and the side-band port, whose
staged firmware takes effect, and the count of boots. It keeps memory where the host asks for it: every path then shows the same
bytes.
It rests on the model's own choice of log 39. -/
def Sys2Proof.Claim.DeviceResets : Prop :=
  ∀ (s : State),
    let reset := { State.reset with
      schedule := s.schedule
      freeCtr := s.freeCtr
      boots := s.boots + 1
      corrected := s.corrected
      records := s.records
      sideband := { s.sideband with staged := none, running := s.sideband.staged.getD s.sideband.running, mainUp := true } }
    exec (.deviceReset false) s = .next reset ∧
      ∃ t, exec (.deviceReset true) s = .next t ∧ t = { reset with views := t.views, soft := s.soft } ∧
        (s.writes = [] → ∀ r p a, r < 4 → t.viewByte r p a = s.viewByte 0 .h a)

/-- R306, R359, R364 to R367, R373, R375: the steps of contexts and of harts that leave their slots.
It rests on the model's own choices of logs 10, 24, 35 and 40. -/
def Obligations.ContextEvents : Prop := ContextLife ∧ HartsLeave

/-- R9, R243, R389 to R401: the steps of time, of power and of reset.
It rests on the model's own choices of logs 10, 26, 36, 38, 39 and 41. -/
def Obligations.RecessAndPowerEvents : Prop := RecessSteps ∧ PowerSteps ∧ DeviceResets

/-! ## Steps of the links and of the side-band port, and illegal words (24_link, 03_encoding) -/

/-- R7, R405, R407, R391: training of the host's link at a rate and width of the table, without the options that the table does not have, upon which what the dispatchers
held back for it goes on; a port that is down trains when it is enabled, comes up
with its partner's hallmark within 100 ms, or fails and is tried again; errors ask for retraining; a lost partner takes it down until the host enables it.
It rests on the model's own choices of logs 34 and 35. -/
def Sys2Proof.Claim.LinksTrain : Prop :=
  ∀ (s : State) (p : Nat), p < 16 →
    let x := s.port p
    (∀ rate width asks, rate ∈ [64, 32, 16] → width ∈ [16, 8, 4] →
      ∃ t, exec (.hostLinkTraining 2 true rate ⟨width, asks⟩) s = .next t ∧ t.hostLink = some ⟨rate, width, asks⟩ ∧
        (s.hostLink ≠ none ∨ s.recess.start ≠ none ∨ NothingHeld s → t = { s with hostLink := some ⟨rate, width, asks⟩ })) ∧
    (∀ ty rate asks, exec (.hostLinkTraining ty false rate asks) s = .next { s with hostLink := none }) ∧
    (∀ ty rate width asks, (ty ≠ 2 ∨ rate ∉ [64, 32, 16] ∨ width ∉ [16, 8, 4]) → exec (.hostLinkTraining ty true rate ⟨width, asks⟩) s = .next s) ∧
    (x.state = .down → exec (.portEnable p) s = .next (s.setPort p { x with state := .training, since := s.beacon })) ∧
    (∀ hm, (x.state = .training ∧ s.beacon ≤ x.since + 300000000 ∨ x.state = .retraining) →
      exec (.portTrained p hm) s = .next (s.setPort p { x with state := .up, since := s.beacon, peer := hm, retrain := false })) ∧
    (x.state = .training → x.since + 300000000 ≤ s.beacon →
      exec (.portTrainingTimeout p) s = .next (s.setPort p { x with state := .down, since := s.beacon, failed := x.failed + 1, retrain := true })) ∧
    (x.state = .up →
      exec (.portErrorThreshold p) s = .next { s.setPort p { x with retrain := true } with recess := { s.recess with retrain := true } } ∧
      exec (.partnerLost p) s = .next (s.setPort p { x with state := .down, since := s.beacon, retrain := false })) ∧
    (x.state = .down → x.since + 300000000 ≤ s.beacon →
      exec (.portQueueDiscard p) s = .next (s.setPort p { x with
        q0 := []
        q1 := []
        fault0 := none
        fault1 := none
        discarded := x.discarded + x.q0.length + x.q1.length }))

namespace Sys2Proof.Claim

/-- A context after a message has entered its ring of a class, in the form in which it is received (R409, R410). -/
def withMessage (c : Ctx) (p : Nat) (cls : Nat) (m : BitVec 512) : Ctx :=
  if cls = 0 then { c with ring0 := c.ring0 ++ [msgReceived p m] } else { c with ring1 := c.ring1 ++ [msgReceived p m] }

/-- A message has come to a context: it is the last of its ring, and the context's harts parked in `IDLE` have gone on, but for one that a
pre-emption takes there (R104, R412). -/
def Delivered (s t : State) (a p cls : Nat) (m : BitVec 512) : Prop :=
  t.ctx a = withMessage (s.ctx a) p cls m ∧ (∀ n, n ≠ a → t.ctx n = s.ctx n) ∧
    ∀ k, t.hart k = match (s.hart k).wait with
      | some ⟨.idle _ _, _, _, _⟩ =>
        if (s.hart k).asid = a ∧ (s.hart k).run = .running ∧ (s.hart k).yields = false then goneOn (s.hart k) else s.hart k
      | _ => s.hart k

end Sys2Proof.Claim

/-- R408 to R412, R397, R399: outside a recess and its drain window the head of a queue that is no put leaves an open port, and a put leaves it
once every page of its source has a known translation, as beats of its 256-byte blocks, raw where none is stored compressed, waking the home quarters of its source. A message of kind data, and a put once its bytes stand in the L view of
every quarter, enters the ring of its channel's context; one of an unbound channel, and a put with a block that fails its check, is counted as dropped; a raw block is the bytes that crossed; a stagger is armed.
It rests on the model's own choices of logs 16, 34, 38, 41 and 50. -/
def Sys2Proof.Claim.MessagesMove : Prop :=
  ∀ (s : State) (p cls : Nat) (m : BitVec 512), p < 16 → cls < 2 → (s.port p).state = .up →
    let x := s.port p
    let queue := if cls = 0 then x.q0 else x.q1
    let popped := if cls = 0 then { x with q0 := x.q0.drop 1, fault0 := none } else { x with q1 := x.q1.drop 1, fault1 := none }
    let open_ := s.recess.start = none ∧ s.beacon + 2048 < startOf s.recess.number
    let dropped := s.setPort p { x with dropped := x.dropped + 1 }
    let ring := fun (a : Nat) => if cls = 0 then (s.ctx a).ring0 else (s.ctx a).ring1
    (∀ asid r, open_ → (if cls = 0 then x.fault0 else x.fault1) = none → queue = (asid, m) :: r →
      (m.extractLsb' 16 8 ≠ 2 → exec (.messageTransmit p cls) s =
        .next { s.setPort p popped with quarterPower := s.quarterPower.put (p / 4) 0, devicePower := 0 }) ∧
      (m.extractLsb' 16 8 = 2 → s.soft = [] → (∀ y, y ∈ partsOf (msgSource m) (msgLength m) → ∃ l, s.translate (p / 4) (64 * (p / 4)) asid .load y.1 = .ok s l) →
        ∃ t, exec (.messageTransmit p cls) s = .next t ∧ (∀ n, n ≠ p → t.port n = s.port n) ∧
          t = { s with ports := t.ports, quarterPower := t.quarterPower, devicePower := 0 } ∧
          (let woken := fun (q : Nat) => q = p / 4 ∨ ∃ y l, y ∈ partsOf (msgSource m) (msgLength m) ∧ s.translate (p / 4) (64 * (p / 4)) asid .load y.1 = .ok s l ∧ homeOf l = q
           ∀ q, (woken q → t.quarterPower.get 0 q = 0) ∧ (¬woken q → t.quarterPower.get 0 q = s.quarterPower.get 0 q)) ∧
          t.port p = { popped with beats := (t.port p).beats } ∧
          (s.regions = [] → s.slabForms = [] → ∀ b, b ∈ (t.port p).beats → b.1 = false ∧ b.2.length = 256))) ∧
    (msgBad m = false → m.extractLsb' 16 8 = 0 →
      (s.receiver p (msgChannel m) = none → exec (.messageReceive p cls m) s = .next dropped) ∧
      ∀ a, s.receiver p (msgChannel m) = some a → (ring a).length < 256 →
        ∃ t, exec (.messageReceive p cls m) s = .next t ∧ Delivered s t a p cls m ∧
          t = { s with ctxs := t.ctxs, harts := t.harts, quarterPower := s.quarterPower.put (p / 4) 0, devicePower := 0 }) ∧
    (msgBad m = false → m.extractLsb' 16 8 = 1 →
      exec (.messageReceive p cls m) s = .next { s with stagger := s.stagger ++ [((m.extractLsb' 64 16).toNat, s.beacon)] }) ∧
    (∀ (hm : BitVec 32) (bs : List (Bool × List Byte)), (∀ b, b ∈ bs → b.1 = false ∧ b.2.length = 256) → receiveBlocks hm bs = some (bs.flatMap (·.2))) ∧
    ∀ blocks : List (Bool × List Byte), msgBad m = false → m.extractLsb' 16 8 = 2 → 256 * blocks.length = msgLength m → open_ →
      let got := receiveBlocks (Config.hallmark s.boots) blocks
      ((s.receiver p (msgChannel m) = none ∨ got = none) → exec (.putExecute p cls m blocks) s = .next dropped) ∧
      ∀ a data, got = some data → s.receiver p (msgChannel m) = some a → (ring a).length < 256 → msgOffset m + data.length ≤ (s.ctx a).putLen →
        (s.ctx a).putBase.toNat + (s.ctx a).putLen < 2 ^ 64 →
        (∀ j, j < data.length → inDram ((s.ctx a).putBase.toNat + msgOffset m + j) = true) →
          ∃ t, exec (.putExecute p cls m blocks) s = .next t ∧ Delivered s t a p cls m ∧
            t = { s with
              ctxs := t.ctxs
              harts := t.harts
              views := t.views
              writes := t.writes
              applied := t.applied
              issued := t.issued
              freeCtr := t.freeCtr
              regions := t.regions
              records := t.records
              slabForms := t.slabForms
              quarterPower := t.quarterPower
              devicePower := 0 } ∧
            t.quarterPower.get 0 (p / 4) = 0 ∧ (∀ j, j < data.length → t.quarterPower.get 0 (homeOf ((s.ctx a).putBase.toNat + msgOffset m + j)) = 0) ∧
            (∀ q, t.quarterPower.get 0 q = 0 ∨ t.quarterPower.get 0 q = s.quarterPower.get 0 q) ∧
            (s.memoryOk → s.writes = [] →
              (∀ r, r < 4 → quarterClock s.applied r = quarterClock s.issued (p / 4) ∧
                ∀ y, Clock.le ((s.view r .l).stamps.get ⟨Clock.zero, 0⟩ y).clk (quarterClock s.applied r) = true) →
              ∀ r k b, r < 4 → data[k]? = some b → t.viewByte r .l ((s.ctx a).putBase.toNat + msgOffset m + k) = b)

/-- R413, R375, R401: the side-band port stages a signed image and discards another, answers with the monitors and with the records of its
kinds one by one, and with a value of its own to an attestation request (log 10); the main side's power may go. -/
def Sys2Proof.Claim.SideBand : Prop :=
  ∀ (s : State),
    let answers := fun (a : List Nat) => Host.Outcome.next { s with sideband := { s.sideband with answer := a } }
    (∀ image ok, exec (.sidebandFirmwareUpdate image ok) s =
      .next { s with sideband := { s.sideband with staged := if ok then some image else none } }) ∧
    (∃ v : Word, v.extractLsb' 0 6 = BitVec.ofNat 6 s.slew ∧ v.extractLsb' 6 2 = 0 ∧ v.extractLsb' 8 24 = BitVec.ofNat 24 s.tol ∧
      v.getLsbD 48 = s.c2req ∧
      exec .sidebandMonitoring s = answers ([v.toNat, s.corrected] ++ ((List.range 32).map fun c => s.temps.get 0 c) ++
        ((List.range 32).map fun c => s.volts.get 0 c) ++ ((List.range 32).map fun c => s.process.get 0 c) ++
        (List.range 16).flatMap fun p =>
          [(match (s.port p).state with | .down => 0 | .training => 1 | .up => 2 | .retraining => 3), (s.port p).failed, (s.port p).discarded, (s.port p).dropped])) ∧
    (let found := s.records.filter fun r => decide (r.kind ∈ [2, 4, 5, 7, 8, 9])
     (found.length ≤ s.sideband.read → exec .sidebandRecordRead s = answers []) ∧
     ∀ r, found[s.sideband.read]? = some r → exec .sidebandRecordRead s = .next { s with sideband := { s.sideband with
       read := s.sideband.read + 1
       answer := [r.kind % 2 ^ 16 + r.asid % 2 ^ 16 * 2 ^ 16 + r.hart % 2 ^ 16 * 2 ^ 32 + r.cause % 2 ^ 8 * 2 ^ 48, r.lepc.toNat, r.laddr.toNat,
         r.extra % 2 ^ 32] } }) ∧
    (∀ q, exec (.spdmAttestation q) s =
      .next { s with freeCtr := s.freeCtr + 1, sideband := { s.sideband with answer := [Config.spdmAnswer s.freeCtr q] } }) ∧
    exec .mainSideDown s = .next { s with sideband := { s.sideband with mainUp := false } }

/-- R81, R101, R222: a word that the decoder refuses takes the illegal-instruction trap, with the word in `laddr`, where the hart stands in the
scalar stream in task mode; nothing of it is carried out. A matrix word's trap has `lvelem` 0. A vector major's word is refused by the vector unit (log 49).
It rests on the model's own choices of logs 42 and 49. -/
def Sys2Proof.Claim.IllegalWords : Prop :=
  ∀ (s : State) (w : IWord) (e : DecodeError), decode w = .error e → s.me.blk = none → s.me.system = false →
    (¬impliedBlock (w.extractLsb' 26 6).toNat → TrapTaken (exec (.illegalInstruction w) s) (beforeIllegal s w) 0x01 s.me.pc (BitVec.ofNat 64 w.toNat)) ∧
    (impliedBlock (w.extractLsb' 26 6).toNat → UnitRefuses (exec (.illegalInstruction w) s) s w)

/-- R81, R391, R399, R405, R407, R409 to R413: the steps of the links and of the side-band port, and illegal words.
It rests on the model's own choices of logs 10, 16, 34, 35, 38, 41, 42, 49 and 50. -/
def Obligations.LinkEvents : Prop := LinksTrain ∧ MessagesMove ∧ SideBand ∧ IllegalWords
end

