-- ==== Sys2Proof/Laws/State.lean ====
section
/-! SUPPORT. One lemma per field per update of the state and of a hart, so that no proof unfolds a record update. -/

namespace Sys2Proof.Machine

/-! ## Updates of the device -/

@[simp] theorem State.setHart_schedule (s : State) (k : Nat) (h : Hart) : (s.setHart k h).schedule = s.schedule := rfl
@[simp] theorem State.setHart_cur (s : State) (k : Nat) (h : Hart) : (s.setHart k h).cur = s.cur := rfl
@[simp] theorem State.setHart_freeCtr (s : State) (k : Nat) (h : Hart) : (s.setHart k h).freeCtr = s.freeCtr := rfl
@[simp] theorem State.setHart_cores (s : State) (k : Nat) (h : Hart) : (s.setHart k h).cores = s.cores := rfl
@[simp] theorem State.setHart_clusters (s : State) (k : Nat) (h : Hart) : (s.setHart k h).clusters = s.clusters := rfl
@[simp] theorem State.setHart_views (s : State) (k : Nat) (h : Hart) : (s.setHart k h).views = s.views := rfl
@[simp] theorem State.setHart_writes (s : State) (k : Nat) (h : Hart) : (s.setHart k h).writes = s.writes := rfl
@[simp] theorem State.setHart_applied (s : State) (k : Nat) (h : Hart) : (s.setHart k h).applied = s.applied := rfl
@[simp] theorem State.setHart_issued (s : State) (k : Nat) (h : Hart) : (s.setHart k h).issued = s.issued := rfl
@[simp] theorem State.setHart_regions (s : State) (k : Nat) (h : Hart) : (s.setHart k h).regions = s.regions := rfl
@[simp] theorem State.setHart_slabForms (s : State) (k : Nat) (h : Hart) : (s.setHart k h).slabForms = s.slabForms := rfl
@[simp] theorem State.setHart_boots (s : State) (k : Nat) (h : Hart) : (s.setHart k h).boots = s.boots := rfl
@[simp] theorem State.setHart_soft (s : State) (k : Nat) (h : Hart) : (s.setHart k h).soft = s.soft := rfl
@[simp] theorem State.setHart_corrected (s : State) (k : Nat) (h : Hart) : (s.setHart k h).corrected = s.corrected := rfl
@[simp] theorem State.setHart_tlbs (s : State) (k : Nat) (h : Hart) : (s.setHart k h).tlbs = s.tlbs := rfl
@[simp] theorem State.setHart_walks (s : State) (k : Nat) (h : Hart) : (s.setHart k h).walks = s.walks := rfl
@[simp] theorem State.setHart_pins (s : State) (k : Nat) (h : Hart) : (s.setHart k h).pins = s.pins := rfl
@[simp] theorem State.setHart_ctxs (s : State) (k : Nat) (h : Hart) : (s.setHart k h).ctxs = s.ctxs := rfl
@[simp] theorem State.setHart_groups (s : State) (k : Nat) (h : Hart) : (s.setHart k h).groups = s.groups := rfl
@[simp] theorem State.setHart_nextGroup (s : State) (k : Nat) (h : Hart) : (s.setHart k h).nextGroup = s.nextGroup := rfl
@[simp] theorem State.setHart_nextStamp (s : State) (k : Nat) (h : Hart) : (s.setHart k h).nextStamp = s.nextStamp := rfl
@[simp] theorem State.setHart_kernels (s : State) (k : Nat) (h : Hart) : (s.setHart k h).kernels = s.kernels := rfl
@[simp] theorem State.setHart_queues (s : State) (k : Nat) (h : Hart) : (s.setHart k h).queues = s.queues := rfl
@[simp] theorem State.setHart_lastGrant (s : State) (k : Nat) (h : Hart) : (s.setHart k h).lastGrant = s.lastGrant := rfl
@[simp] theorem State.setHart_reserved (s : State) (k : Nat) (h : Hart) : (s.setHart k h).reserved = s.reserved := rfl
@[simp] theorem State.setHart_steals (s : State) (k : Nat) (h : Hart) : (s.setHart k h).steals = s.steals := rfl
@[simp] theorem State.setHart_records (s : State) (k : Nat) (h : Hart) : (s.setHart k h).records = s.records := rfl
@[simp] theorem State.setHart_faults (s : State) (k : Nat) (h : Hart) : (s.setHart k h).faults = s.faults := rfl
@[simp] theorem State.setHart_nextTicket (s : State) (k : Nat) (h : Hart) : (s.setHart k h).nextTicket = s.nextTicket := rfl
@[simp] theorem State.setHart_engineSeq (s : State) (k : Nat) (h : Hart) : (s.setHart k h).engineSeq = s.engineSeq := rfl
@[simp] theorem State.setHart_beacon (s : State) (k : Nat) (h : Hart) : (s.setHart k h).beacon = s.beacon := rfl
@[simp] theorem State.setHart_recess (s : State) (k : Nat) (h : Hart) : (s.setHart k h).recess = s.recess := rfl
@[simp] theorem State.setHart_slew (s : State) (k : Nat) (h : Hart) : (s.setHart k h).slew = s.slew := rfl
@[simp] theorem State.setHart_tol (s : State) (k : Nat) (h : Hart) : (s.setHart k h).tol = s.tol := rfl
@[simp] theorem State.setHart_c2req (s : State) (k : Nat) (h : Hart) : (s.setHart k h).c2req = s.c2req := rfl
@[simp] theorem State.setHart_stagger (s : State) (k : Nat) (h : Hart) : (s.setHart k h).stagger = s.stagger := rfl
@[simp] theorem State.setHart_capHold (s : State) (k : Nat) (h : Hart) : (s.setHart k h).capHold = s.capHold := rfl
@[simp] theorem State.setHart_quarterPower (s : State) (k : Nat) (h : Hart) : (s.setHart k h).quarterPower = s.quarterPower := rfl
@[simp] theorem State.setHart_devicePower (s : State) (k : Nat) (h : Hart) : (s.setHart k h).devicePower = s.devicePower := rfl
@[simp] theorem State.setHart_temps (s : State) (k : Nat) (h : Hart) : (s.setHart k h).temps = s.temps := rfl
@[simp] theorem State.setHart_volts (s : State) (k : Nat) (h : Hart) : (s.setHart k h).volts = s.volts := rfl
@[simp] theorem State.setHart_process (s : State) (k : Nat) (h : Hart) : (s.setHart k h).process = s.process := rfl
@[simp] theorem State.setHart_hostLink (s : State) (k : Nat) (h : Hart) : (s.setHart k h).hostLink = s.hostLink := rfl
@[simp] theorem State.setHart_hostData (s : State) (k : Nat) (h : Hart) : (s.setHart k h).hostData = s.hostData := rfl
@[simp] theorem State.setHart_hot (s : State) (k : Nat) (h : Hart) : (s.setHart k h).hot = s.hot := rfl
@[simp] theorem State.setHart_ramping (s : State) (k : Nat) (h : Hart) : (s.setHart k h).ramping = s.ramping := rfl
@[simp] theorem State.setHart_rampDown (s : State) (k : Nat) (h : Hart) : (s.setHart k h).rampDown = s.rampDown := rfl
@[simp] theorem State.setHart_invals (s : State) (k : Nat) (h : Hart) : (s.setHart k h).invals = s.invals := rfl
@[simp] theorem State.setHart_owed (s : State) (k : Nat) (h : Hart) : (s.setHart k h).owed = s.owed := rfl
@[simp] theorem State.setHart_ports (s : State) (k : Nat) (h : Hart) : (s.setHart k h).ports = s.ports := rfl
@[simp] theorem State.setHart_sideband (s : State) (k : Nat) (h : Hart) : (s.setHart k h).sideband = s.sideband := rfl

@[simp] theorem State.setMe_schedule (s : State) (h : Hart) : (s.setMe h).schedule = s.schedule := rfl
@[simp] theorem State.setMe_cur (s : State) (h : Hart) : (s.setMe h).cur = s.cur := rfl
@[simp] theorem State.setMe_freeCtr (s : State) (h : Hart) : (s.setMe h).freeCtr = s.freeCtr := rfl
@[simp] theorem State.setMe_cores (s : State) (h : Hart) : (s.setMe h).cores = s.cores := rfl
@[simp] theorem State.setMe_clusters (s : State) (h : Hart) : (s.setMe h).clusters = s.clusters := rfl
@[simp] theorem State.setMe_views (s : State) (h : Hart) : (s.setMe h).views = s.views := rfl
@[simp] theorem State.setMe_writes (s : State) (h : Hart) : (s.setMe h).writes = s.writes := rfl
@[simp] theorem State.setMe_applied (s : State) (h : Hart) : (s.setMe h).applied = s.applied := rfl
@[simp] theorem State.setMe_issued (s : State) (h : Hart) : (s.setMe h).issued = s.issued := rfl
@[simp] theorem State.setMe_regions (s : State) (h : Hart) : (s.setMe h).regions = s.regions := rfl
@[simp] theorem State.setMe_slabForms (s : State) (h : Hart) : (s.setMe h).slabForms = s.slabForms := rfl
@[simp] theorem State.setMe_boots (s : State) (h : Hart) : (s.setMe h).boots = s.boots := rfl
@[simp] theorem State.setMe_soft (s : State) (h : Hart) : (s.setMe h).soft = s.soft := rfl
@[simp] theorem State.setMe_corrected (s : State) (h : Hart) : (s.setMe h).corrected = s.corrected := rfl
@[simp] theorem State.setMe_tlbs (s : State) (h : Hart) : (s.setMe h).tlbs = s.tlbs := rfl
@[simp] theorem State.setMe_walks (s : State) (h : Hart) : (s.setMe h).walks = s.walks := rfl
@[simp] theorem State.setMe_pins (s : State) (h : Hart) : (s.setMe h).pins = s.pins := rfl
@[simp] theorem State.setMe_ctxs (s : State) (h : Hart) : (s.setMe h).ctxs = s.ctxs := rfl
@[simp] theorem State.setMe_groups (s : State) (h : Hart) : (s.setMe h).groups = s.groups := rfl
@[simp] theorem State.setMe_nextGroup (s : State) (h : Hart) : (s.setMe h).nextGroup = s.nextGroup := rfl
@[simp] theorem State.setMe_nextStamp (s : State) (h : Hart) : (s.setMe h).nextStamp = s.nextStamp := rfl
@[simp] theorem State.setMe_kernels (s : State) (h : Hart) : (s.setMe h).kernels = s.kernels := rfl
@[simp] theorem State.setMe_queues (s : State) (h : Hart) : (s.setMe h).queues = s.queues := rfl
@[simp] theorem State.setMe_lastGrant (s : State) (h : Hart) : (s.setMe h).lastGrant = s.lastGrant := rfl
@[simp] theorem State.setMe_reserved (s : State) (h : Hart) : (s.setMe h).reserved = s.reserved := rfl
@[simp] theorem State.setMe_steals (s : State) (h : Hart) : (s.setMe h).steals = s.steals := rfl
@[simp] theorem State.setMe_records (s : State) (h : Hart) : (s.setMe h).records = s.records := rfl
@[simp] theorem State.setMe_faults (s : State) (h : Hart) : (s.setMe h).faults = s.faults := rfl
@[simp] theorem State.setMe_nextTicket (s : State) (h : Hart) : (s.setMe h).nextTicket = s.nextTicket := rfl
@[simp] theorem State.setMe_engineSeq (s : State) (h : Hart) : (s.setMe h).engineSeq = s.engineSeq := rfl
@[simp] theorem State.setMe_beacon (s : State) (h : Hart) : (s.setMe h).beacon = s.beacon := rfl
@[simp] theorem State.setMe_recess (s : State) (h : Hart) : (s.setMe h).recess = s.recess := rfl
@[simp] theorem State.setMe_slew (s : State) (h : Hart) : (s.setMe h).slew = s.slew := rfl
@[simp] theorem State.setMe_tol (s : State) (h : Hart) : (s.setMe h).tol = s.tol := rfl
@[simp] theorem State.setMe_c2req (s : State) (h : Hart) : (s.setMe h).c2req = s.c2req := rfl
@[simp] theorem State.setMe_stagger (s : State) (h : Hart) : (s.setMe h).stagger = s.stagger := rfl
@[simp] theorem State.setMe_capHold (s : State) (h : Hart) : (s.setMe h).capHold = s.capHold := rfl
@[simp] theorem State.setMe_quarterPower (s : State) (h : Hart) : (s.setMe h).quarterPower = s.quarterPower := rfl
@[simp] theorem State.setMe_devicePower (s : State) (h : Hart) : (s.setMe h).devicePower = s.devicePower := rfl
@[simp] theorem State.setMe_temps (s : State) (h : Hart) : (s.setMe h).temps = s.temps := rfl
@[simp] theorem State.setMe_volts (s : State) (h : Hart) : (s.setMe h).volts = s.volts := rfl
@[simp] theorem State.setMe_process (s : State) (h : Hart) : (s.setMe h).process = s.process := rfl
@[simp] theorem State.setMe_hostLink (s : State) (h : Hart) : (s.setMe h).hostLink = s.hostLink := rfl
@[simp] theorem State.setMe_hostData (s : State) (h : Hart) : (s.setMe h).hostData = s.hostData := rfl
@[simp] theorem State.setMe_hot (s : State) (h : Hart) : (s.setMe h).hot = s.hot := rfl
@[simp] theorem State.setMe_ramping (s : State) (h : Hart) : (s.setMe h).ramping = s.ramping := rfl
@[simp] theorem State.setMe_rampDown (s : State) (h : Hart) : (s.setMe h).rampDown = s.rampDown := rfl
@[simp] theorem State.setMe_invals (s : State) (h : Hart) : (s.setMe h).invals = s.invals := rfl
@[simp] theorem State.setMe_owed (s : State) (h : Hart) : (s.setMe h).owed = s.owed := rfl
@[simp] theorem State.setMe_ports (s : State) (h : Hart) : (s.setMe h).ports = s.ports := rfl
@[simp] theorem State.setMe_sideband (s : State) (h : Hart) : (s.setMe h).sideband = s.sideband := rfl

@[simp] theorem State.upd_schedule (s : State) (f : Hart → Hart) : (s.upd f).schedule = s.schedule := rfl
@[simp] theorem State.upd_cur (s : State) (f : Hart → Hart) : (s.upd f).cur = s.cur := rfl
@[simp] theorem State.upd_freeCtr (s : State) (f : Hart → Hart) : (s.upd f).freeCtr = s.freeCtr := rfl
@[simp] theorem State.upd_cores (s : State) (f : Hart → Hart) : (s.upd f).cores = s.cores := rfl
@[simp] theorem State.upd_clusters (s : State) (f : Hart → Hart) : (s.upd f).clusters = s.clusters := rfl
@[simp] theorem State.upd_views (s : State) (f : Hart → Hart) : (s.upd f).views = s.views := rfl
@[simp] theorem State.upd_writes (s : State) (f : Hart → Hart) : (s.upd f).writes = s.writes := rfl
@[simp] theorem State.upd_applied (s : State) (f : Hart → Hart) : (s.upd f).applied = s.applied := rfl
@[simp] theorem State.upd_issued (s : State) (f : Hart → Hart) : (s.upd f).issued = s.issued := rfl
@[simp] theorem State.upd_regions (s : State) (f : Hart → Hart) : (s.upd f).regions = s.regions := rfl
@[simp] theorem State.upd_slabForms (s : State) (f : Hart → Hart) : (s.upd f).slabForms = s.slabForms := rfl
@[simp] theorem State.upd_boots (s : State) (f : Hart → Hart) : (s.upd f).boots = s.boots := rfl
@[simp] theorem State.upd_soft (s : State) (f : Hart → Hart) : (s.upd f).soft = s.soft := rfl
@[simp] theorem State.upd_corrected (s : State) (f : Hart → Hart) : (s.upd f).corrected = s.corrected := rfl
@[simp] theorem State.upd_tlbs (s : State) (f : Hart → Hart) : (s.upd f).tlbs = s.tlbs := rfl
@[simp] theorem State.upd_walks (s : State) (f : Hart → Hart) : (s.upd f).walks = s.walks := rfl
@[simp] theorem State.upd_pins (s : State) (f : Hart → Hart) : (s.upd f).pins = s.pins := rfl
@[simp] theorem State.upd_ctxs (s : State) (f : Hart → Hart) : (s.upd f).ctxs = s.ctxs := rfl
@[simp] theorem State.upd_groups (s : State) (f : Hart → Hart) : (s.upd f).groups = s.groups := rfl
@[simp] theorem State.upd_nextGroup (s : State) (f : Hart → Hart) : (s.upd f).nextGroup = s.nextGroup := rfl
@[simp] theorem State.upd_nextStamp (s : State) (f : Hart → Hart) : (s.upd f).nextStamp = s.nextStamp := rfl
@[simp] theorem State.upd_kernels (s : State) (f : Hart → Hart) : (s.upd f).kernels = s.kernels := rfl
@[simp] theorem State.upd_queues (s : State) (f : Hart → Hart) : (s.upd f).queues = s.queues := rfl
@[simp] theorem State.upd_lastGrant (s : State) (f : Hart → Hart) : (s.upd f).lastGrant = s.lastGrant := rfl
@[simp] theorem State.upd_reserved (s : State) (f : Hart → Hart) : (s.upd f).reserved = s.reserved := rfl
@[simp] theorem State.upd_steals (s : State) (f : Hart → Hart) : (s.upd f).steals = s.steals := rfl
@[simp] theorem State.upd_records (s : State) (f : Hart → Hart) : (s.upd f).records = s.records := rfl
@[simp] theorem State.upd_faults (s : State) (f : Hart → Hart) : (s.upd f).faults = s.faults := rfl
@[simp] theorem State.upd_nextTicket (s : State) (f : Hart → Hart) : (s.upd f).nextTicket = s.nextTicket := rfl
@[simp] theorem State.upd_engineSeq (s : State) (f : Hart → Hart) : (s.upd f).engineSeq = s.engineSeq := rfl
@[simp] theorem State.upd_beacon (s : State) (f : Hart → Hart) : (s.upd f).beacon = s.beacon := rfl
@[simp] theorem State.upd_recess (s : State) (f : Hart → Hart) : (s.upd f).recess = s.recess := rfl
@[simp] theorem State.upd_slew (s : State) (f : Hart → Hart) : (s.upd f).slew = s.slew := rfl
@[simp] theorem State.upd_tol (s : State) (f : Hart → Hart) : (s.upd f).tol = s.tol := rfl
@[simp] theorem State.upd_c2req (s : State) (f : Hart → Hart) : (s.upd f).c2req = s.c2req := rfl
@[simp] theorem State.upd_stagger (s : State) (f : Hart → Hart) : (s.upd f).stagger = s.stagger := rfl
@[simp] theorem State.upd_capHold (s : State) (f : Hart → Hart) : (s.upd f).capHold = s.capHold := rfl
@[simp] theorem State.upd_quarterPower (s : State) (f : Hart → Hart) : (s.upd f).quarterPower = s.quarterPower := rfl
@[simp] theorem State.upd_devicePower (s : State) (f : Hart → Hart) : (s.upd f).devicePower = s.devicePower := rfl
@[simp] theorem State.upd_temps (s : State) (f : Hart → Hart) : (s.upd f).temps = s.temps := rfl
@[simp] theorem State.upd_volts (s : State) (f : Hart → Hart) : (s.upd f).volts = s.volts := rfl
@[simp] theorem State.upd_process (s : State) (f : Hart → Hart) : (s.upd f).process = s.process := rfl
@[simp] theorem State.upd_hostLink (s : State) (f : Hart → Hart) : (s.upd f).hostLink = s.hostLink := rfl
@[simp] theorem State.upd_hostData (s : State) (f : Hart → Hart) : (s.upd f).hostData = s.hostData := rfl
@[simp] theorem State.upd_hot (s : State) (f : Hart → Hart) : (s.upd f).hot = s.hot := rfl
@[simp] theorem State.upd_ramping (s : State) (f : Hart → Hart) : (s.upd f).ramping = s.ramping := rfl
@[simp] theorem State.upd_rampDown (s : State) (f : Hart → Hart) : (s.upd f).rampDown = s.rampDown := rfl
@[simp] theorem State.upd_invals (s : State) (f : Hart → Hart) : (s.upd f).invals = s.invals := rfl
@[simp] theorem State.upd_owed (s : State) (f : Hart → Hart) : (s.upd f).owed = s.owed := rfl
@[simp] theorem State.upd_ports (s : State) (f : Hart → Hart) : (s.upd f).ports = s.ports := rfl
@[simp] theorem State.upd_sideband (s : State) (f : Hart → Hart) : (s.upd f).sideband = s.sideband := rfl

@[simp] theorem State.setCore_schedule (s : State) (c : Nat) (x : Core) : (s.setCore c x).schedule = s.schedule := rfl
@[simp] theorem State.setCore_cur (s : State) (c : Nat) (x : Core) : (s.setCore c x).cur = s.cur := rfl
@[simp] theorem State.setCore_freeCtr (s : State) (c : Nat) (x : Core) : (s.setCore c x).freeCtr = s.freeCtr := rfl
@[simp] theorem State.setCore_harts (s : State) (c : Nat) (x : Core) : (s.setCore c x).harts = s.harts := rfl
@[simp] theorem State.setCore_clusters (s : State) (c : Nat) (x : Core) : (s.setCore c x).clusters = s.clusters := rfl
@[simp] theorem State.setCore_views (s : State) (c : Nat) (x : Core) : (s.setCore c x).views = s.views := rfl
@[simp] theorem State.setCore_writes (s : State) (c : Nat) (x : Core) : (s.setCore c x).writes = s.writes := rfl
@[simp] theorem State.setCore_applied (s : State) (c : Nat) (x : Core) : (s.setCore c x).applied = s.applied := rfl
@[simp] theorem State.setCore_issued (s : State) (c : Nat) (x : Core) : (s.setCore c x).issued = s.issued := rfl
@[simp] theorem State.setCore_regions (s : State) (c : Nat) (x : Core) : (s.setCore c x).regions = s.regions := rfl
@[simp] theorem State.setCore_slabForms (s : State) (c : Nat) (x : Core) : (s.setCore c x).slabForms = s.slabForms := rfl
@[simp] theorem State.setCore_boots (s : State) (c : Nat) (x : Core) : (s.setCore c x).boots = s.boots := rfl
@[simp] theorem State.setCore_soft (s : State) (c : Nat) (x : Core) : (s.setCore c x).soft = s.soft := rfl
@[simp] theorem State.setCore_corrected (s : State) (c : Nat) (x : Core) : (s.setCore c x).corrected = s.corrected := rfl
@[simp] theorem State.setCore_tlbs (s : State) (c : Nat) (x : Core) : (s.setCore c x).tlbs = s.tlbs := rfl
@[simp] theorem State.setCore_walks (s : State) (c : Nat) (x : Core) : (s.setCore c x).walks = s.walks := rfl
@[simp] theorem State.setCore_pins (s : State) (c : Nat) (x : Core) : (s.setCore c x).pins = s.pins := rfl
@[simp] theorem State.setCore_ctxs (s : State) (c : Nat) (x : Core) : (s.setCore c x).ctxs = s.ctxs := rfl
@[simp] theorem State.setCore_groups (s : State) (c : Nat) (x : Core) : (s.setCore c x).groups = s.groups := rfl
@[simp] theorem State.setCore_nextGroup (s : State) (c : Nat) (x : Core) : (s.setCore c x).nextGroup = s.nextGroup := rfl
@[simp] theorem State.setCore_nextStamp (s : State) (c : Nat) (x : Core) : (s.setCore c x).nextStamp = s.nextStamp := rfl
@[simp] theorem State.setCore_kernels (s : State) (c : Nat) (x : Core) : (s.setCore c x).kernels = s.kernels := rfl
@[simp] theorem State.setCore_queues (s : State) (c : Nat) (x : Core) : (s.setCore c x).queues = s.queues := rfl
@[simp] theorem State.setCore_lastGrant (s : State) (c : Nat) (x : Core) : (s.setCore c x).lastGrant = s.lastGrant := rfl
@[simp] theorem State.setCore_reserved (s : State) (c : Nat) (x : Core) : (s.setCore c x).reserved = s.reserved := rfl
@[simp] theorem State.setCore_steals (s : State) (c : Nat) (x : Core) : (s.setCore c x).steals = s.steals := rfl
@[simp] theorem State.setCore_records (s : State) (c : Nat) (x : Core) : (s.setCore c x).records = s.records := rfl
@[simp] theorem State.setCore_faults (s : State) (c : Nat) (x : Core) : (s.setCore c x).faults = s.faults := rfl
@[simp] theorem State.setCore_nextTicket (s : State) (c : Nat) (x : Core) : (s.setCore c x).nextTicket = s.nextTicket := rfl
@[simp] theorem State.setCore_engineSeq (s : State) (c : Nat) (x : Core) : (s.setCore c x).engineSeq = s.engineSeq := rfl
@[simp] theorem State.setCore_beacon (s : State) (c : Nat) (x : Core) : (s.setCore c x).beacon = s.beacon := rfl
@[simp] theorem State.setCore_recess (s : State) (c : Nat) (x : Core) : (s.setCore c x).recess = s.recess := rfl
@[simp] theorem State.setCore_slew (s : State) (c : Nat) (x : Core) : (s.setCore c x).slew = s.slew := rfl
@[simp] theorem State.setCore_tol (s : State) (c : Nat) (x : Core) : (s.setCore c x).tol = s.tol := rfl
@[simp] theorem State.setCore_c2req (s : State) (c : Nat) (x : Core) : (s.setCore c x).c2req = s.c2req := rfl
@[simp] theorem State.setCore_stagger (s : State) (c : Nat) (x : Core) : (s.setCore c x).stagger = s.stagger := rfl
@[simp] theorem State.setCore_capHold (s : State) (c : Nat) (x : Core) : (s.setCore c x).capHold = s.capHold := rfl
@[simp] theorem State.setCore_quarterPower (s : State) (c : Nat) (x : Core) : (s.setCore c x).quarterPower = s.quarterPower := rfl
@[simp] theorem State.setCore_devicePower (s : State) (c : Nat) (x : Core) : (s.setCore c x).devicePower = s.devicePower := rfl
@[simp] theorem State.setCore_temps (s : State) (c : Nat) (x : Core) : (s.setCore c x).temps = s.temps := rfl
@[simp] theorem State.setCore_volts (s : State) (c : Nat) (x : Core) : (s.setCore c x).volts = s.volts := rfl
@[simp] theorem State.setCore_process (s : State) (c : Nat) (x : Core) : (s.setCore c x).process = s.process := rfl
@[simp] theorem State.setCore_hostLink (s : State) (c : Nat) (x : Core) : (s.setCore c x).hostLink = s.hostLink := rfl
@[simp] theorem State.setCore_hostData (s : State) (c : Nat) (x : Core) : (s.setCore c x).hostData = s.hostData := rfl
@[simp] theorem State.setCore_hot (s : State) (c : Nat) (x : Core) : (s.setCore c x).hot = s.hot := rfl
@[simp] theorem State.setCore_ramping (s : State) (c : Nat) (x : Core) : (s.setCore c x).ramping = s.ramping := rfl
@[simp] theorem State.setCore_rampDown (s : State) (c : Nat) (x : Core) : (s.setCore c x).rampDown = s.rampDown := rfl
@[simp] theorem State.setCore_invals (s : State) (c : Nat) (x : Core) : (s.setCore c x).invals = s.invals := rfl
@[simp] theorem State.setCore_owed (s : State) (c : Nat) (x : Core) : (s.setCore c x).owed = s.owed := rfl
@[simp] theorem State.setCore_ports (s : State) (c : Nat) (x : Core) : (s.setCore c x).ports = s.ports := rfl
@[simp] theorem State.setCore_sideband (s : State) (c : Nat) (x : Core) : (s.setCore c x).sideband = s.sideband := rfl

@[simp] theorem State.setCluster_schedule (s : State) (c : Nat) (x : Cluster) : (s.setCluster c x).schedule = s.schedule := rfl
@[simp] theorem State.setCluster_cur (s : State) (c : Nat) (x : Cluster) : (s.setCluster c x).cur = s.cur := rfl
@[simp] theorem State.setCluster_freeCtr (s : State) (c : Nat) (x : Cluster) : (s.setCluster c x).freeCtr = s.freeCtr := rfl
@[simp] theorem State.setCluster_harts (s : State) (c : Nat) (x : Cluster) : (s.setCluster c x).harts = s.harts := rfl
@[simp] theorem State.setCluster_cores (s : State) (c : Nat) (x : Cluster) : (s.setCluster c x).cores = s.cores := rfl
@[simp] theorem State.setCluster_views (s : State) (c : Nat) (x : Cluster) : (s.setCluster c x).views = s.views := rfl
@[simp] theorem State.setCluster_writes (s : State) (c : Nat) (x : Cluster) : (s.setCluster c x).writes = s.writes := rfl
@[simp] theorem State.setCluster_applied (s : State) (c : Nat) (x : Cluster) : (s.setCluster c x).applied = s.applied := rfl
@[simp] theorem State.setCluster_issued (s : State) (c : Nat) (x : Cluster) : (s.setCluster c x).issued = s.issued := rfl
@[simp] theorem State.setCluster_regions (s : State) (c : Nat) (x : Cluster) : (s.setCluster c x).regions = s.regions := rfl
@[simp] theorem State.setCluster_slabForms (s : State) (c : Nat) (x : Cluster) : (s.setCluster c x).slabForms = s.slabForms := rfl
@[simp] theorem State.setCluster_boots (s : State) (c : Nat) (x : Cluster) : (s.setCluster c x).boots = s.boots := rfl
@[simp] theorem State.setCluster_soft (s : State) (c : Nat) (x : Cluster) : (s.setCluster c x).soft = s.soft := rfl
@[simp] theorem State.setCluster_corrected (s : State) (c : Nat) (x : Cluster) : (s.setCluster c x).corrected = s.corrected := rfl
@[simp] theorem State.setCluster_tlbs (s : State) (c : Nat) (x : Cluster) : (s.setCluster c x).tlbs = s.tlbs := rfl
@[simp] theorem State.setCluster_walks (s : State) (c : Nat) (x : Cluster) : (s.setCluster c x).walks = s.walks := rfl
@[simp] theorem State.setCluster_pins (s : State) (c : Nat) (x : Cluster) : (s.setCluster c x).pins = s.pins := rfl
@[simp] theorem State.setCluster_ctxs (s : State) (c : Nat) (x : Cluster) : (s.setCluster c x).ctxs = s.ctxs := rfl
@[simp] theorem State.setCluster_groups (s : State) (c : Nat) (x : Cluster) : (s.setCluster c x).groups = s.groups := rfl
@[simp] theorem State.setCluster_nextGroup (s : State) (c : Nat) (x : Cluster) : (s.setCluster c x).nextGroup = s.nextGroup := rfl
@[simp] theorem State.setCluster_nextStamp (s : State) (c : Nat) (x : Cluster) : (s.setCluster c x).nextStamp = s.nextStamp := rfl
@[simp] theorem State.setCluster_kernels (s : State) (c : Nat) (x : Cluster) : (s.setCluster c x).kernels = s.kernels := rfl
@[simp] theorem State.setCluster_queues (s : State) (c : Nat) (x : Cluster) : (s.setCluster c x).queues = s.queues := rfl
@[simp] theorem State.setCluster_lastGrant (s : State) (c : Nat) (x : Cluster) : (s.setCluster c x).lastGrant = s.lastGrant := rfl
@[simp] theorem State.setCluster_reserved (s : State) (c : Nat) (x : Cluster) : (s.setCluster c x).reserved = s.reserved := rfl
@[simp] theorem State.setCluster_steals (s : State) (c : Nat) (x : Cluster) : (s.setCluster c x).steals = s.steals := rfl
@[simp] theorem State.setCluster_records (s : State) (c : Nat) (x : Cluster) : (s.setCluster c x).records = s.records := rfl
@[simp] theorem State.setCluster_faults (s : State) (c : Nat) (x : Cluster) : (s.setCluster c x).faults = s.faults := rfl
@[simp] theorem State.setCluster_nextTicket (s : State) (c : Nat) (x : Cluster) : (s.setCluster c x).nextTicket = s.nextTicket := rfl
@[simp] theorem State.setCluster_engineSeq (s : State) (c : Nat) (x : Cluster) : (s.setCluster c x).engineSeq = s.engineSeq := rfl
@[simp] theorem State.setCluster_beacon (s : State) (c : Nat) (x : Cluster) : (s.setCluster c x).beacon = s.beacon := rfl
@[simp] theorem State.setCluster_recess (s : State) (c : Nat) (x : Cluster) : (s.setCluster c x).recess = s.recess := rfl
@[simp] theorem State.setCluster_slew (s : State) (c : Nat) (x : Cluster) : (s.setCluster c x).slew = s.slew := rfl
@[simp] theorem State.setCluster_tol (s : State) (c : Nat) (x : Cluster) : (s.setCluster c x).tol = s.tol := rfl
@[simp] theorem State.setCluster_c2req (s : State) (c : Nat) (x : Cluster) : (s.setCluster c x).c2req = s.c2req := rfl
@[simp] theorem State.setCluster_stagger (s : State) (c : Nat) (x : Cluster) : (s.setCluster c x).stagger = s.stagger := rfl
@[simp] theorem State.setCluster_capHold (s : State) (c : Nat) (x : Cluster) : (s.setCluster c x).capHold = s.capHold := rfl
@[simp] theorem State.setCluster_quarterPower (s : State) (c : Nat) (x : Cluster) : (s.setCluster c x).quarterPower = s.quarterPower := rfl
@[simp] theorem State.setCluster_devicePower (s : State) (c : Nat) (x : Cluster) : (s.setCluster c x).devicePower = s.devicePower := rfl
@[simp] theorem State.setCluster_temps (s : State) (c : Nat) (x : Cluster) : (s.setCluster c x).temps = s.temps := rfl
@[simp] theorem State.setCluster_volts (s : State) (c : Nat) (x : Cluster) : (s.setCluster c x).volts = s.volts := rfl
@[simp] theorem State.setCluster_process (s : State) (c : Nat) (x : Cluster) : (s.setCluster c x).process = s.process := rfl
@[simp] theorem State.setCluster_hostLink (s : State) (c : Nat) (x : Cluster) : (s.setCluster c x).hostLink = s.hostLink := rfl
@[simp] theorem State.setCluster_hostData (s : State) (c : Nat) (x : Cluster) : (s.setCluster c x).hostData = s.hostData := rfl
@[simp] theorem State.setCluster_hot (s : State) (c : Nat) (x : Cluster) : (s.setCluster c x).hot = s.hot := rfl
@[simp] theorem State.setCluster_ramping (s : State) (c : Nat) (x : Cluster) : (s.setCluster c x).ramping = s.ramping := rfl
@[simp] theorem State.setCluster_rampDown (s : State) (c : Nat) (x : Cluster) : (s.setCluster c x).rampDown = s.rampDown := rfl
@[simp] theorem State.setCluster_invals (s : State) (c : Nat) (x : Cluster) : (s.setCluster c x).invals = s.invals := rfl
@[simp] theorem State.setCluster_owed (s : State) (c : Nat) (x : Cluster) : (s.setCluster c x).owed = s.owed := rfl
@[simp] theorem State.setCluster_ports (s : State) (c : Nat) (x : Cluster) : (s.setCluster c x).ports = s.ports := rfl
@[simp] theorem State.setCluster_sideband (s : State) (c : Nat) (x : Cluster) : (s.setCluster c x).sideband = s.sideband := rfl

@[simp] theorem State.setCtx_schedule (s : State) (a : Nat) (x : Ctx) : (s.setCtx a x).schedule = s.schedule := rfl
@[simp] theorem State.setCtx_cur (s : State) (a : Nat) (x : Ctx) : (s.setCtx a x).cur = s.cur := rfl
@[simp] theorem State.setCtx_freeCtr (s : State) (a : Nat) (x : Ctx) : (s.setCtx a x).freeCtr = s.freeCtr := rfl
@[simp] theorem State.setCtx_harts (s : State) (a : Nat) (x : Ctx) : (s.setCtx a x).harts = s.harts := rfl
@[simp] theorem State.setCtx_cores (s : State) (a : Nat) (x : Ctx) : (s.setCtx a x).cores = s.cores := rfl
@[simp] theorem State.setCtx_clusters (s : State) (a : Nat) (x : Ctx) : (s.setCtx a x).clusters = s.clusters := rfl
@[simp] theorem State.setCtx_views (s : State) (a : Nat) (x : Ctx) : (s.setCtx a x).views = s.views := rfl
@[simp] theorem State.setCtx_writes (s : State) (a : Nat) (x : Ctx) : (s.setCtx a x).writes = s.writes := rfl
@[simp] theorem State.setCtx_applied (s : State) (a : Nat) (x : Ctx) : (s.setCtx a x).applied = s.applied := rfl
@[simp] theorem State.setCtx_issued (s : State) (a : Nat) (x : Ctx) : (s.setCtx a x).issued = s.issued := rfl
@[simp] theorem State.setCtx_regions (s : State) (a : Nat) (x : Ctx) : (s.setCtx a x).regions = s.regions := rfl
@[simp] theorem State.setCtx_slabForms (s : State) (a : Nat) (x : Ctx) : (s.setCtx a x).slabForms = s.slabForms := rfl
@[simp] theorem State.setCtx_boots (s : State) (a : Nat) (x : Ctx) : (s.setCtx a x).boots = s.boots := rfl
@[simp] theorem State.setCtx_soft (s : State) (a : Nat) (x : Ctx) : (s.setCtx a x).soft = s.soft := rfl
@[simp] theorem State.setCtx_corrected (s : State) (a : Nat) (x : Ctx) : (s.setCtx a x).corrected = s.corrected := rfl
@[simp] theorem State.setCtx_tlbs (s : State) (a : Nat) (x : Ctx) : (s.setCtx a x).tlbs = s.tlbs := rfl
@[simp] theorem State.setCtx_walks (s : State) (a : Nat) (x : Ctx) : (s.setCtx a x).walks = s.walks := rfl
@[simp] theorem State.setCtx_pins (s : State) (a : Nat) (x : Ctx) : (s.setCtx a x).pins = s.pins := rfl
@[simp] theorem State.setCtx_groups (s : State) (a : Nat) (x : Ctx) : (s.setCtx a x).groups = s.groups := rfl
@[simp] theorem State.setCtx_nextGroup (s : State) (a : Nat) (x : Ctx) : (s.setCtx a x).nextGroup = s.nextGroup := rfl
@[simp] theorem State.setCtx_nextStamp (s : State) (a : Nat) (x : Ctx) : (s.setCtx a x).nextStamp = s.nextStamp := rfl
@[simp] theorem State.setCtx_kernels (s : State) (a : Nat) (x : Ctx) : (s.setCtx a x).kernels = s.kernels := rfl
@[simp] theorem State.setCtx_queues (s : State) (a : Nat) (x : Ctx) : (s.setCtx a x).queues = s.queues := rfl
@[simp] theorem State.setCtx_lastGrant (s : State) (a : Nat) (x : Ctx) : (s.setCtx a x).lastGrant = s.lastGrant := rfl
@[simp] theorem State.setCtx_reserved (s : State) (a : Nat) (x : Ctx) : (s.setCtx a x).reserved = s.reserved := rfl
@[simp] theorem State.setCtx_steals (s : State) (a : Nat) (x : Ctx) : (s.setCtx a x).steals = s.steals := rfl
@[simp] theorem State.setCtx_records (s : State) (a : Nat) (x : Ctx) : (s.setCtx a x).records = s.records := rfl
@[simp] theorem State.setCtx_faults (s : State) (a : Nat) (x : Ctx) : (s.setCtx a x).faults = s.faults := rfl
@[simp] theorem State.setCtx_nextTicket (s : State) (a : Nat) (x : Ctx) : (s.setCtx a x).nextTicket = s.nextTicket := rfl
@[simp] theorem State.setCtx_engineSeq (s : State) (a : Nat) (x : Ctx) : (s.setCtx a x).engineSeq = s.engineSeq := rfl
@[simp] theorem State.setCtx_beacon (s : State) (a : Nat) (x : Ctx) : (s.setCtx a x).beacon = s.beacon := rfl
@[simp] theorem State.setCtx_recess (s : State) (a : Nat) (x : Ctx) : (s.setCtx a x).recess = s.recess := rfl
@[simp] theorem State.setCtx_slew (s : State) (a : Nat) (x : Ctx) : (s.setCtx a x).slew = s.slew := rfl
@[simp] theorem State.setCtx_tol (s : State) (a : Nat) (x : Ctx) : (s.setCtx a x).tol = s.tol := rfl
@[simp] theorem State.setCtx_c2req (s : State) (a : Nat) (x : Ctx) : (s.setCtx a x).c2req = s.c2req := rfl
@[simp] theorem State.setCtx_stagger (s : State) (a : Nat) (x : Ctx) : (s.setCtx a x).stagger = s.stagger := rfl
@[simp] theorem State.setCtx_capHold (s : State) (a : Nat) (x : Ctx) : (s.setCtx a x).capHold = s.capHold := rfl
@[simp] theorem State.setCtx_quarterPower (s : State) (a : Nat) (x : Ctx) : (s.setCtx a x).quarterPower = s.quarterPower := rfl
@[simp] theorem State.setCtx_devicePower (s : State) (a : Nat) (x : Ctx) : (s.setCtx a x).devicePower = s.devicePower := rfl
@[simp] theorem State.setCtx_temps (s : State) (a : Nat) (x : Ctx) : (s.setCtx a x).temps = s.temps := rfl
@[simp] theorem State.setCtx_volts (s : State) (a : Nat) (x : Ctx) : (s.setCtx a x).volts = s.volts := rfl
@[simp] theorem State.setCtx_process (s : State) (a : Nat) (x : Ctx) : (s.setCtx a x).process = s.process := rfl
@[simp] theorem State.setCtx_hostLink (s : State) (a : Nat) (x : Ctx) : (s.setCtx a x).hostLink = s.hostLink := rfl
@[simp] theorem State.setCtx_hostData (s : State) (a : Nat) (x : Ctx) : (s.setCtx a x).hostData = s.hostData := rfl
@[simp] theorem State.setCtx_hot (s : State) (a : Nat) (x : Ctx) : (s.setCtx a x).hot = s.hot := rfl
@[simp] theorem State.setCtx_ramping (s : State) (a : Nat) (x : Ctx) : (s.setCtx a x).ramping = s.ramping := rfl
@[simp] theorem State.setCtx_rampDown (s : State) (a : Nat) (x : Ctx) : (s.setCtx a x).rampDown = s.rampDown := rfl
@[simp] theorem State.setCtx_invals (s : State) (a : Nat) (x : Ctx) : (s.setCtx a x).invals = s.invals := rfl
@[simp] theorem State.setCtx_owed (s : State) (a : Nat) (x : Ctx) : (s.setCtx a x).owed = s.owed := rfl
@[simp] theorem State.setCtx_ports (s : State) (a : Nat) (x : Ctx) : (s.setCtx a x).ports = s.ports := rfl
@[simp] theorem State.setCtx_sideband (s : State) (a : Nat) (x : Ctx) : (s.setCtx a x).sideband = s.sideband := rfl

@[simp] theorem State.setGroup_schedule (s : State) (g : Nat) (x : Group) : (s.setGroup g x).schedule = s.schedule := rfl
@[simp] theorem State.setGroup_cur (s : State) (g : Nat) (x : Group) : (s.setGroup g x).cur = s.cur := rfl
@[simp] theorem State.setGroup_freeCtr (s : State) (g : Nat) (x : Group) : (s.setGroup g x).freeCtr = s.freeCtr := rfl
@[simp] theorem State.setGroup_harts (s : State) (g : Nat) (x : Group) : (s.setGroup g x).harts = s.harts := rfl
@[simp] theorem State.setGroup_cores (s : State) (g : Nat) (x : Group) : (s.setGroup g x).cores = s.cores := rfl
@[simp] theorem State.setGroup_clusters (s : State) (g : Nat) (x : Group) : (s.setGroup g x).clusters = s.clusters := rfl
@[simp] theorem State.setGroup_views (s : State) (g : Nat) (x : Group) : (s.setGroup g x).views = s.views := rfl
@[simp] theorem State.setGroup_writes (s : State) (g : Nat) (x : Group) : (s.setGroup g x).writes = s.writes := rfl
@[simp] theorem State.setGroup_applied (s : State) (g : Nat) (x : Group) : (s.setGroup g x).applied = s.applied := rfl
@[simp] theorem State.setGroup_issued (s : State) (g : Nat) (x : Group) : (s.setGroup g x).issued = s.issued := rfl
@[simp] theorem State.setGroup_regions (s : State) (g : Nat) (x : Group) : (s.setGroup g x).regions = s.regions := rfl
@[simp] theorem State.setGroup_slabForms (s : State) (g : Nat) (x : Group) : (s.setGroup g x).slabForms = s.slabForms := rfl
@[simp] theorem State.setGroup_boots (s : State) (g : Nat) (x : Group) : (s.setGroup g x).boots = s.boots := rfl
@[simp] theorem State.setGroup_soft (s : State) (g : Nat) (x : Group) : (s.setGroup g x).soft = s.soft := rfl
@[simp] theorem State.setGroup_corrected (s : State) (g : Nat) (x : Group) : (s.setGroup g x).corrected = s.corrected := rfl
@[simp] theorem State.setGroup_tlbs (s : State) (g : Nat) (x : Group) : (s.setGroup g x).tlbs = s.tlbs := rfl
@[simp] theorem State.setGroup_walks (s : State) (g : Nat) (x : Group) : (s.setGroup g x).walks = s.walks := rfl
@[simp] theorem State.setGroup_pins (s : State) (g : Nat) (x : Group) : (s.setGroup g x).pins = s.pins := rfl
@[simp] theorem State.setGroup_ctxs (s : State) (g : Nat) (x : Group) : (s.setGroup g x).ctxs = s.ctxs := rfl
@[simp] theorem State.setGroup_nextGroup (s : State) (g : Nat) (x : Group) : (s.setGroup g x).nextGroup = s.nextGroup := rfl
@[simp] theorem State.setGroup_nextStamp (s : State) (g : Nat) (x : Group) : (s.setGroup g x).nextStamp = s.nextStamp := rfl
@[simp] theorem State.setGroup_kernels (s : State) (g : Nat) (x : Group) : (s.setGroup g x).kernels = s.kernels := rfl
@[simp] theorem State.setGroup_queues (s : State) (g : Nat) (x : Group) : (s.setGroup g x).queues = s.queues := rfl
@[simp] theorem State.setGroup_lastGrant (s : State) (g : Nat) (x : Group) : (s.setGroup g x).lastGrant = s.lastGrant := rfl
@[simp] theorem State.setGroup_reserved (s : State) (g : Nat) (x : Group) : (s.setGroup g x).reserved = s.reserved := rfl
@[simp] theorem State.setGroup_steals (s : State) (g : Nat) (x : Group) : (s.setGroup g x).steals = s.steals := rfl
@[simp] theorem State.setGroup_records (s : State) (g : Nat) (x : Group) : (s.setGroup g x).records = s.records := rfl
@[simp] theorem State.setGroup_faults (s : State) (g : Nat) (x : Group) : (s.setGroup g x).faults = s.faults := rfl
@[simp] theorem State.setGroup_nextTicket (s : State) (g : Nat) (x : Group) : (s.setGroup g x).nextTicket = s.nextTicket := rfl
@[simp] theorem State.setGroup_engineSeq (s : State) (g : Nat) (x : Group) : (s.setGroup g x).engineSeq = s.engineSeq := rfl
@[simp] theorem State.setGroup_beacon (s : State) (g : Nat) (x : Group) : (s.setGroup g x).beacon = s.beacon := rfl
@[simp] theorem State.setGroup_recess (s : State) (g : Nat) (x : Group) : (s.setGroup g x).recess = s.recess := rfl
@[simp] theorem State.setGroup_slew (s : State) (g : Nat) (x : Group) : (s.setGroup g x).slew = s.slew := rfl
@[simp] theorem State.setGroup_tol (s : State) (g : Nat) (x : Group) : (s.setGroup g x).tol = s.tol := rfl
@[simp] theorem State.setGroup_c2req (s : State) (g : Nat) (x : Group) : (s.setGroup g x).c2req = s.c2req := rfl
@[simp] theorem State.setGroup_stagger (s : State) (g : Nat) (x : Group) : (s.setGroup g x).stagger = s.stagger := rfl
@[simp] theorem State.setGroup_capHold (s : State) (g : Nat) (x : Group) : (s.setGroup g x).capHold = s.capHold := rfl
@[simp] theorem State.setGroup_quarterPower (s : State) (g : Nat) (x : Group) : (s.setGroup g x).quarterPower = s.quarterPower := rfl
@[simp] theorem State.setGroup_devicePower (s : State) (g : Nat) (x : Group) : (s.setGroup g x).devicePower = s.devicePower := rfl
@[simp] theorem State.setGroup_temps (s : State) (g : Nat) (x : Group) : (s.setGroup g x).temps = s.temps := rfl
@[simp] theorem State.setGroup_volts (s : State) (g : Nat) (x : Group) : (s.setGroup g x).volts = s.volts := rfl
@[simp] theorem State.setGroup_process (s : State) (g : Nat) (x : Group) : (s.setGroup g x).process = s.process := rfl
@[simp] theorem State.setGroup_hostLink (s : State) (g : Nat) (x : Group) : (s.setGroup g x).hostLink = s.hostLink := rfl
@[simp] theorem State.setGroup_hostData (s : State) (g : Nat) (x : Group) : (s.setGroup g x).hostData = s.hostData := rfl
@[simp] theorem State.setGroup_hot (s : State) (g : Nat) (x : Group) : (s.setGroup g x).hot = s.hot := rfl
@[simp] theorem State.setGroup_ramping (s : State) (g : Nat) (x : Group) : (s.setGroup g x).ramping = s.ramping := rfl
@[simp] theorem State.setGroup_rampDown (s : State) (g : Nat) (x : Group) : (s.setGroup g x).rampDown = s.rampDown := rfl
@[simp] theorem State.setGroup_invals (s : State) (g : Nat) (x : Group) : (s.setGroup g x).invals = s.invals := rfl
@[simp] theorem State.setGroup_owed (s : State) (g : Nat) (x : Group) : (s.setGroup g x).owed = s.owed := rfl
@[simp] theorem State.setGroup_ports (s : State) (g : Nat) (x : Group) : (s.setGroup g x).ports = s.ports := rfl
@[simp] theorem State.setGroup_sideband (s : State) (g : Nat) (x : Group) : (s.setGroup g x).sideband = s.sideband := rfl

@[simp] theorem State.setQueue_schedule (s : State) (q : Nat) (x : Queue) : (s.setQueue q x).schedule = s.schedule := rfl
@[simp] theorem State.setQueue_cur (s : State) (q : Nat) (x : Queue) : (s.setQueue q x).cur = s.cur := rfl
@[simp] theorem State.setQueue_freeCtr (s : State) (q : Nat) (x : Queue) : (s.setQueue q x).freeCtr = s.freeCtr := rfl
@[simp] theorem State.setQueue_harts (s : State) (q : Nat) (x : Queue) : (s.setQueue q x).harts = s.harts := rfl
@[simp] theorem State.setQueue_cores (s : State) (q : Nat) (x : Queue) : (s.setQueue q x).cores = s.cores := rfl
@[simp] theorem State.setQueue_clusters (s : State) (q : Nat) (x : Queue) : (s.setQueue q x).clusters = s.clusters := rfl
@[simp] theorem State.setQueue_views (s : State) (q : Nat) (x : Queue) : (s.setQueue q x).views = s.views := rfl
@[simp] theorem State.setQueue_writes (s : State) (q : Nat) (x : Queue) : (s.setQueue q x).writes = s.writes := rfl
@[simp] theorem State.setQueue_applied (s : State) (q : Nat) (x : Queue) : (s.setQueue q x).applied = s.applied := rfl
@[simp] theorem State.setQueue_issued (s : State) (q : Nat) (x : Queue) : (s.setQueue q x).issued = s.issued := rfl
@[simp] theorem State.setQueue_regions (s : State) (q : Nat) (x : Queue) : (s.setQueue q x).regions = s.regions := rfl
@[simp] theorem State.setQueue_slabForms (s : State) (q : Nat) (x : Queue) : (s.setQueue q x).slabForms = s.slabForms := rfl
@[simp] theorem State.setQueue_boots (s : State) (q : Nat) (x : Queue) : (s.setQueue q x).boots = s.boots := rfl
@[simp] theorem State.setQueue_soft (s : State) (q : Nat) (x : Queue) : (s.setQueue q x).soft = s.soft := rfl
@[simp] theorem State.setQueue_corrected (s : State) (q : Nat) (x : Queue) : (s.setQueue q x).corrected = s.corrected := rfl
@[simp] theorem State.setQueue_tlbs (s : State) (q : Nat) (x : Queue) : (s.setQueue q x).tlbs = s.tlbs := rfl
@[simp] theorem State.setQueue_walks (s : State) (q : Nat) (x : Queue) : (s.setQueue q x).walks = s.walks := rfl
@[simp] theorem State.setQueue_pins (s : State) (q : Nat) (x : Queue) : (s.setQueue q x).pins = s.pins := rfl
@[simp] theorem State.setQueue_ctxs (s : State) (q : Nat) (x : Queue) : (s.setQueue q x).ctxs = s.ctxs := rfl
@[simp] theorem State.setQueue_groups (s : State) (q : Nat) (x : Queue) : (s.setQueue q x).groups = s.groups := rfl
@[simp] theorem State.setQueue_nextGroup (s : State) (q : Nat) (x : Queue) : (s.setQueue q x).nextGroup = s.nextGroup := rfl
@[simp] theorem State.setQueue_nextStamp (s : State) (q : Nat) (x : Queue) : (s.setQueue q x).nextStamp = s.nextStamp := rfl
@[simp] theorem State.setQueue_kernels (s : State) (q : Nat) (x : Queue) : (s.setQueue q x).kernels = s.kernels := rfl
@[simp] theorem State.setQueue_lastGrant (s : State) (q : Nat) (x : Queue) : (s.setQueue q x).lastGrant = s.lastGrant := rfl
@[simp] theorem State.setQueue_reserved (s : State) (q : Nat) (x : Queue) : (s.setQueue q x).reserved = s.reserved := rfl
@[simp] theorem State.setQueue_steals (s : State) (q : Nat) (x : Queue) : (s.setQueue q x).steals = s.steals := rfl
@[simp] theorem State.setQueue_records (s : State) (q : Nat) (x : Queue) : (s.setQueue q x).records = s.records := rfl
@[simp] theorem State.setQueue_faults (s : State) (q : Nat) (x : Queue) : (s.setQueue q x).faults = s.faults := rfl
@[simp] theorem State.setQueue_nextTicket (s : State) (q : Nat) (x : Queue) : (s.setQueue q x).nextTicket = s.nextTicket := rfl
@[simp] theorem State.setQueue_engineSeq (s : State) (q : Nat) (x : Queue) : (s.setQueue q x).engineSeq = s.engineSeq := rfl
@[simp] theorem State.setQueue_beacon (s : State) (q : Nat) (x : Queue) : (s.setQueue q x).beacon = s.beacon := rfl
@[simp] theorem State.setQueue_recess (s : State) (q : Nat) (x : Queue) : (s.setQueue q x).recess = s.recess := rfl
@[simp] theorem State.setQueue_slew (s : State) (q : Nat) (x : Queue) : (s.setQueue q x).slew = s.slew := rfl
@[simp] theorem State.setQueue_tol (s : State) (q : Nat) (x : Queue) : (s.setQueue q x).tol = s.tol := rfl
@[simp] theorem State.setQueue_c2req (s : State) (q : Nat) (x : Queue) : (s.setQueue q x).c2req = s.c2req := rfl
@[simp] theorem State.setQueue_stagger (s : State) (q : Nat) (x : Queue) : (s.setQueue q x).stagger = s.stagger := rfl
@[simp] theorem State.setQueue_capHold (s : State) (q : Nat) (x : Queue) : (s.setQueue q x).capHold = s.capHold := rfl
@[simp] theorem State.setQueue_quarterPower (s : State) (q : Nat) (x : Queue) : (s.setQueue q x).quarterPower = s.quarterPower := rfl
@[simp] theorem State.setQueue_devicePower (s : State) (q : Nat) (x : Queue) : (s.setQueue q x).devicePower = s.devicePower := rfl
@[simp] theorem State.setQueue_temps (s : State) (q : Nat) (x : Queue) : (s.setQueue q x).temps = s.temps := rfl
@[simp] theorem State.setQueue_volts (s : State) (q : Nat) (x : Queue) : (s.setQueue q x).volts = s.volts := rfl
@[simp] theorem State.setQueue_process (s : State) (q : Nat) (x : Queue) : (s.setQueue q x).process = s.process := rfl
@[simp] theorem State.setQueue_hostLink (s : State) (q : Nat) (x : Queue) : (s.setQueue q x).hostLink = s.hostLink := rfl
@[simp] theorem State.setQueue_hostData (s : State) (q : Nat) (x : Queue) : (s.setQueue q x).hostData = s.hostData := rfl
@[simp] theorem State.setQueue_hot (s : State) (q : Nat) (x : Queue) : (s.setQueue q x).hot = s.hot := rfl
@[simp] theorem State.setQueue_ramping (s : State) (q : Nat) (x : Queue) : (s.setQueue q x).ramping = s.ramping := rfl
@[simp] theorem State.setQueue_rampDown (s : State) (q : Nat) (x : Queue) : (s.setQueue q x).rampDown = s.rampDown := rfl
@[simp] theorem State.setQueue_invals (s : State) (q : Nat) (x : Queue) : (s.setQueue q x).invals = s.invals := rfl
@[simp] theorem State.setQueue_owed (s : State) (q : Nat) (x : Queue) : (s.setQueue q x).owed = s.owed := rfl
@[simp] theorem State.setQueue_ports (s : State) (q : Nat) (x : Queue) : (s.setQueue q x).ports = s.ports := rfl
@[simp] theorem State.setQueue_sideband (s : State) (q : Nat) (x : Queue) : (s.setQueue q x).sideband = s.sideband := rfl

@[simp] theorem State.setPort_schedule (s : State) (p : Nat) (x : Port) : (s.setPort p x).schedule = s.schedule := rfl
@[simp] theorem State.setPort_cur (s : State) (p : Nat) (x : Port) : (s.setPort p x).cur = s.cur := rfl
@[simp] theorem State.setPort_freeCtr (s : State) (p : Nat) (x : Port) : (s.setPort p x).freeCtr = s.freeCtr := rfl
@[simp] theorem State.setPort_harts (s : State) (p : Nat) (x : Port) : (s.setPort p x).harts = s.harts := rfl
@[simp] theorem State.setPort_cores (s : State) (p : Nat) (x : Port) : (s.setPort p x).cores = s.cores := rfl
@[simp] theorem State.setPort_clusters (s : State) (p : Nat) (x : Port) : (s.setPort p x).clusters = s.clusters := rfl
@[simp] theorem State.setPort_views (s : State) (p : Nat) (x : Port) : (s.setPort p x).views = s.views := rfl
@[simp] theorem State.setPort_writes (s : State) (p : Nat) (x : Port) : (s.setPort p x).writes = s.writes := rfl
@[simp] theorem State.setPort_applied (s : State) (p : Nat) (x : Port) : (s.setPort p x).applied = s.applied := rfl
@[simp] theorem State.setPort_issued (s : State) (p : Nat) (x : Port) : (s.setPort p x).issued = s.issued := rfl
@[simp] theorem State.setPort_regions (s : State) (p : Nat) (x : Port) : (s.setPort p x).regions = s.regions := rfl
@[simp] theorem State.setPort_slabForms (s : State) (p : Nat) (x : Port) : (s.setPort p x).slabForms = s.slabForms := rfl
@[simp] theorem State.setPort_boots (s : State) (p : Nat) (x : Port) : (s.setPort p x).boots = s.boots := rfl
@[simp] theorem State.setPort_soft (s : State) (p : Nat) (x : Port) : (s.setPort p x).soft = s.soft := rfl
@[simp] theorem State.setPort_corrected (s : State) (p : Nat) (x : Port) : (s.setPort p x).corrected = s.corrected := rfl
@[simp] theorem State.setPort_tlbs (s : State) (p : Nat) (x : Port) : (s.setPort p x).tlbs = s.tlbs := rfl
@[simp] theorem State.setPort_walks (s : State) (p : Nat) (x : Port) : (s.setPort p x).walks = s.walks := rfl
@[simp] theorem State.setPort_pins (s : State) (p : Nat) (x : Port) : (s.setPort p x).pins = s.pins := rfl
@[simp] theorem State.setPort_ctxs (s : State) (p : Nat) (x : Port) : (s.setPort p x).ctxs = s.ctxs := rfl
@[simp] theorem State.setPort_groups (s : State) (p : Nat) (x : Port) : (s.setPort p x).groups = s.groups := rfl
@[simp] theorem State.setPort_nextGroup (s : State) (p : Nat) (x : Port) : (s.setPort p x).nextGroup = s.nextGroup := rfl
@[simp] theorem State.setPort_nextStamp (s : State) (p : Nat) (x : Port) : (s.setPort p x).nextStamp = s.nextStamp := rfl
@[simp] theorem State.setPort_kernels (s : State) (p : Nat) (x : Port) : (s.setPort p x).kernels = s.kernels := rfl
@[simp] theorem State.setPort_queues (s : State) (p : Nat) (x : Port) : (s.setPort p x).queues = s.queues := rfl
@[simp] theorem State.setPort_lastGrant (s : State) (p : Nat) (x : Port) : (s.setPort p x).lastGrant = s.lastGrant := rfl
@[simp] theorem State.setPort_reserved (s : State) (p : Nat) (x : Port) : (s.setPort p x).reserved = s.reserved := rfl
@[simp] theorem State.setPort_steals (s : State) (p : Nat) (x : Port) : (s.setPort p x).steals = s.steals := rfl
@[simp] theorem State.setPort_records (s : State) (p : Nat) (x : Port) : (s.setPort p x).records = s.records := rfl
@[simp] theorem State.setPort_faults (s : State) (p : Nat) (x : Port) : (s.setPort p x).faults = s.faults := rfl
@[simp] theorem State.setPort_nextTicket (s : State) (p : Nat) (x : Port) : (s.setPort p x).nextTicket = s.nextTicket := rfl
@[simp] theorem State.setPort_engineSeq (s : State) (p : Nat) (x : Port) : (s.setPort p x).engineSeq = s.engineSeq := rfl
@[simp] theorem State.setPort_beacon (s : State) (p : Nat) (x : Port) : (s.setPort p x).beacon = s.beacon := rfl
@[simp] theorem State.setPort_recess (s : State) (p : Nat) (x : Port) : (s.setPort p x).recess = s.recess := rfl
@[simp] theorem State.setPort_slew (s : State) (p : Nat) (x : Port) : (s.setPort p x).slew = s.slew := rfl
@[simp] theorem State.setPort_tol (s : State) (p : Nat) (x : Port) : (s.setPort p x).tol = s.tol := rfl
@[simp] theorem State.setPort_c2req (s : State) (p : Nat) (x : Port) : (s.setPort p x).c2req = s.c2req := rfl
@[simp] theorem State.setPort_stagger (s : State) (p : Nat) (x : Port) : (s.setPort p x).stagger = s.stagger := rfl
@[simp] theorem State.setPort_capHold (s : State) (p : Nat) (x : Port) : (s.setPort p x).capHold = s.capHold := rfl
@[simp] theorem State.setPort_quarterPower (s : State) (p : Nat) (x : Port) : (s.setPort p x).quarterPower = s.quarterPower := rfl
@[simp] theorem State.setPort_devicePower (s : State) (p : Nat) (x : Port) : (s.setPort p x).devicePower = s.devicePower := rfl
@[simp] theorem State.setPort_temps (s : State) (p : Nat) (x : Port) : (s.setPort p x).temps = s.temps := rfl
@[simp] theorem State.setPort_volts (s : State) (p : Nat) (x : Port) : (s.setPort p x).volts = s.volts := rfl
@[simp] theorem State.setPort_process (s : State) (p : Nat) (x : Port) : (s.setPort p x).process = s.process := rfl
@[simp] theorem State.setPort_hostLink (s : State) (p : Nat) (x : Port) : (s.setPort p x).hostLink = s.hostLink := rfl
@[simp] theorem State.setPort_hostData (s : State) (p : Nat) (x : Port) : (s.setPort p x).hostData = s.hostData := rfl
@[simp] theorem State.setPort_hot (s : State) (p : Nat) (x : Port) : (s.setPort p x).hot = s.hot := rfl
@[simp] theorem State.setPort_ramping (s : State) (p : Nat) (x : Port) : (s.setPort p x).ramping = s.ramping := rfl
@[simp] theorem State.setPort_rampDown (s : State) (p : Nat) (x : Port) : (s.setPort p x).rampDown = s.rampDown := rfl
@[simp] theorem State.setPort_invals (s : State) (p : Nat) (x : Port) : (s.setPort p x).invals = s.invals := rfl
@[simp] theorem State.setPort_owed (s : State) (p : Nat) (x : Port) : (s.setPort p x).owed = s.owed := rfl
@[simp] theorem State.setPort_sideband (s : State) (p : Nat) (x : Port) : (s.setPort p x).sideband = s.sideband := rfl

@[simp] theorem State.setView_schedule (s : State) (r : Nat) (p : Path) (v : View) : (s.setView r p v).schedule = s.schedule := rfl
@[simp] theorem State.setView_cur (s : State) (r : Nat) (p : Path) (v : View) : (s.setView r p v).cur = s.cur := rfl
@[simp] theorem State.setView_freeCtr (s : State) (r : Nat) (p : Path) (v : View) : (s.setView r p v).freeCtr = s.freeCtr := rfl
@[simp] theorem State.setView_harts (s : State) (r : Nat) (p : Path) (v : View) : (s.setView r p v).harts = s.harts := rfl
@[simp] theorem State.setView_cores (s : State) (r : Nat) (p : Path) (v : View) : (s.setView r p v).cores = s.cores := rfl
@[simp] theorem State.setView_clusters (s : State) (r : Nat) (p : Path) (v : View) : (s.setView r p v).clusters = s.clusters := rfl
@[simp] theorem State.setView_writes (s : State) (r : Nat) (p : Path) (v : View) : (s.setView r p v).writes = s.writes := rfl
@[simp] theorem State.setView_applied (s : State) (r : Nat) (p : Path) (v : View) : (s.setView r p v).applied = s.applied := rfl
@[simp] theorem State.setView_issued (s : State) (r : Nat) (p : Path) (v : View) : (s.setView r p v).issued = s.issued := rfl
@[simp] theorem State.setView_regions (s : State) (r : Nat) (p : Path) (v : View) : (s.setView r p v).regions = s.regions := rfl
@[simp] theorem State.setView_slabForms (s : State) (r : Nat) (p : Path) (v : View) : (s.setView r p v).slabForms = s.slabForms := rfl
@[simp] theorem State.setView_boots (s : State) (r : Nat) (p : Path) (v : View) : (s.setView r p v).boots = s.boots := rfl
@[simp] theorem State.setView_soft (s : State) (r : Nat) (p : Path) (v : View) : (s.setView r p v).soft = s.soft := rfl
@[simp] theorem State.setView_corrected (s : State) (r : Nat) (p : Path) (v : View) : (s.setView r p v).corrected = s.corrected := rfl
@[simp] theorem State.setView_tlbs (s : State) (r : Nat) (p : Path) (v : View) : (s.setView r p v).tlbs = s.tlbs := rfl
@[simp] theorem State.setView_walks (s : State) (r : Nat) (p : Path) (v : View) : (s.setView r p v).walks = s.walks := rfl
@[simp] theorem State.setView_pins (s : State) (r : Nat) (p : Path) (v : View) : (s.setView r p v).pins = s.pins := rfl
@[simp] theorem State.setView_ctxs (s : State) (r : Nat) (p : Path) (v : View) : (s.setView r p v).ctxs = s.ctxs := rfl
@[simp] theorem State.setView_groups (s : State) (r : Nat) (p : Path) (v : View) : (s.setView r p v).groups = s.groups := rfl
@[simp] theorem State.setView_nextGroup (s : State) (r : Nat) (p : Path) (v : View) : (s.setView r p v).nextGroup = s.nextGroup := rfl
@[simp] theorem State.setView_nextStamp (s : State) (r : Nat) (p : Path) (v : View) : (s.setView r p v).nextStamp = s.nextStamp := rfl
@[simp] theorem State.setView_kernels (s : State) (r : Nat) (p : Path) (v : View) : (s.setView r p v).kernels = s.kernels := rfl
@[simp] theorem State.setView_queues (s : State) (r : Nat) (p : Path) (v : View) : (s.setView r p v).queues = s.queues := rfl
@[simp] theorem State.setView_lastGrant (s : State) (r : Nat) (p : Path) (v : View) : (s.setView r p v).lastGrant = s.lastGrant := rfl
@[simp] theorem State.setView_reserved (s : State) (r : Nat) (p : Path) (v : View) : (s.setView r p v).reserved = s.reserved := rfl
@[simp] theorem State.setView_steals (s : State) (r : Nat) (p : Path) (v : View) : (s.setView r p v).steals = s.steals := rfl
@[simp] theorem State.setView_records (s : State) (r : Nat) (p : Path) (v : View) : (s.setView r p v).records = s.records := rfl
@[simp] theorem State.setView_faults (s : State) (r : Nat) (p : Path) (v : View) : (s.setView r p v).faults = s.faults := rfl
@[simp] theorem State.setView_nextTicket (s : State) (r : Nat) (p : Path) (v : View) : (s.setView r p v).nextTicket = s.nextTicket := rfl
@[simp] theorem State.setView_engineSeq (s : State) (r : Nat) (p : Path) (v : View) : (s.setView r p v).engineSeq = s.engineSeq := rfl
@[simp] theorem State.setView_beacon (s : State) (r : Nat) (p : Path) (v : View) : (s.setView r p v).beacon = s.beacon := rfl
@[simp] theorem State.setView_recess (s : State) (r : Nat) (p : Path) (v : View) : (s.setView r p v).recess = s.recess := rfl
@[simp] theorem State.setView_slew (s : State) (r : Nat) (p : Path) (v : View) : (s.setView r p v).slew = s.slew := rfl
@[simp] theorem State.setView_tol (s : State) (r : Nat) (p : Path) (v : View) : (s.setView r p v).tol = s.tol := rfl
@[simp] theorem State.setView_c2req (s : State) (r : Nat) (p : Path) (v : View) : (s.setView r p v).c2req = s.c2req := rfl
@[simp] theorem State.setView_stagger (s : State) (r : Nat) (p : Path) (v : View) : (s.setView r p v).stagger = s.stagger := rfl
@[simp] theorem State.setView_capHold (s : State) (r : Nat) (p : Path) (v : View) : (s.setView r p v).capHold = s.capHold := rfl
@[simp] theorem State.setView_quarterPower (s : State) (r : Nat) (p : Path) (v : View) : (s.setView r p v).quarterPower = s.quarterPower := rfl
@[simp] theorem State.setView_devicePower (s : State) (r : Nat) (p : Path) (v : View) : (s.setView r p v).devicePower = s.devicePower := rfl
@[simp] theorem State.setView_temps (s : State) (r : Nat) (p : Path) (v : View) : (s.setView r p v).temps = s.temps := rfl
@[simp] theorem State.setView_volts (s : State) (r : Nat) (p : Path) (v : View) : (s.setView r p v).volts = s.volts := rfl
@[simp] theorem State.setView_process (s : State) (r : Nat) (p : Path) (v : View) : (s.setView r p v).process = s.process := rfl
@[simp] theorem State.setView_hostLink (s : State) (r : Nat) (p : Path) (v : View) : (s.setView r p v).hostLink = s.hostLink := rfl
@[simp] theorem State.setView_hostData (s : State) (r : Nat) (p : Path) (v : View) : (s.setView r p v).hostData = s.hostData := rfl
@[simp] theorem State.setView_hot (s : State) (r : Nat) (p : Path) (v : View) : (s.setView r p v).hot = s.hot := rfl
@[simp] theorem State.setView_ramping (s : State) (r : Nat) (p : Path) (v : View) : (s.setView r p v).ramping = s.ramping := rfl
@[simp] theorem State.setView_rampDown (s : State) (r : Nat) (p : Path) (v : View) : (s.setView r p v).rampDown = s.rampDown := rfl
@[simp] theorem State.setView_invals (s : State) (r : Nat) (p : Path) (v : View) : (s.setView r p v).invals = s.invals := rfl
@[simp] theorem State.setView_owed (s : State) (r : Nat) (p : Path) (v : View) : (s.setView r p v).owed = s.owed := rfl
@[simp] theorem State.setView_ports (s : State) (r : Nat) (p : Path) (v : View) : (s.setView r p v).ports = s.ports := rfl
@[simp] theorem State.setView_sideband (s : State) (r : Nat) (p : Path) (v : View) : (s.setView r p v).sideband = s.sideband := rfl

@[simp] theorem State.record_schedule (s : State) (r : HostRecord) : (s.record r).schedule = s.schedule := rfl
@[simp] theorem State.record_cur (s : State) (r : HostRecord) : (s.record r).cur = s.cur := rfl
@[simp] theorem State.record_freeCtr (s : State) (r : HostRecord) : (s.record r).freeCtr = s.freeCtr := rfl
@[simp] theorem State.record_harts (s : State) (r : HostRecord) : (s.record r).harts = s.harts := rfl
@[simp] theorem State.record_cores (s : State) (r : HostRecord) : (s.record r).cores = s.cores := rfl
@[simp] theorem State.record_clusters (s : State) (r : HostRecord) : (s.record r).clusters = s.clusters := rfl
@[simp] theorem State.record_views (s : State) (r : HostRecord) : (s.record r).views = s.views := rfl
@[simp] theorem State.record_writes (s : State) (r : HostRecord) : (s.record r).writes = s.writes := rfl
@[simp] theorem State.record_applied (s : State) (r : HostRecord) : (s.record r).applied = s.applied := rfl
@[simp] theorem State.record_issued (s : State) (r : HostRecord) : (s.record r).issued = s.issued := rfl
@[simp] theorem State.record_regions (s : State) (r : HostRecord) : (s.record r).regions = s.regions := rfl
@[simp] theorem State.record_slabForms (s : State) (r : HostRecord) : (s.record r).slabForms = s.slabForms := rfl
@[simp] theorem State.record_boots (s : State) (r : HostRecord) : (s.record r).boots = s.boots := rfl
@[simp] theorem State.record_soft (s : State) (r : HostRecord) : (s.record r).soft = s.soft := rfl
@[simp] theorem State.record_corrected (s : State) (r : HostRecord) : (s.record r).corrected = s.corrected := rfl
@[simp] theorem State.record_tlbs (s : State) (r : HostRecord) : (s.record r).tlbs = s.tlbs := rfl
@[simp] theorem State.record_walks (s : State) (r : HostRecord) : (s.record r).walks = s.walks := rfl
@[simp] theorem State.record_pins (s : State) (r : HostRecord) : (s.record r).pins = s.pins := rfl
@[simp] theorem State.record_ctxs (s : State) (r : HostRecord) : (s.record r).ctxs = s.ctxs := rfl
@[simp] theorem State.record_groups (s : State) (r : HostRecord) : (s.record r).groups = s.groups := rfl
@[simp] theorem State.record_nextGroup (s : State) (r : HostRecord) : (s.record r).nextGroup = s.nextGroup := rfl
@[simp] theorem State.record_nextStamp (s : State) (r : HostRecord) : (s.record r).nextStamp = s.nextStamp := rfl
@[simp] theorem State.record_kernels (s : State) (r : HostRecord) : (s.record r).kernels = s.kernels := rfl
@[simp] theorem State.record_queues (s : State) (r : HostRecord) : (s.record r).queues = s.queues := rfl
@[simp] theorem State.record_lastGrant (s : State) (r : HostRecord) : (s.record r).lastGrant = s.lastGrant := rfl
@[simp] theorem State.record_reserved (s : State) (r : HostRecord) : (s.record r).reserved = s.reserved := rfl
@[simp] theorem State.record_steals (s : State) (r : HostRecord) : (s.record r).steals = s.steals := rfl
@[simp] theorem State.record_faults (s : State) (r : HostRecord) : (s.record r).faults = s.faults := rfl
@[simp] theorem State.record_nextTicket (s : State) (r : HostRecord) : (s.record r).nextTicket = s.nextTicket := rfl
@[simp] theorem State.record_engineSeq (s : State) (r : HostRecord) : (s.record r).engineSeq = s.engineSeq := rfl
@[simp] theorem State.record_beacon (s : State) (r : HostRecord) : (s.record r).beacon = s.beacon := rfl
@[simp] theorem State.record_recess (s : State) (r : HostRecord) : (s.record r).recess = s.recess := rfl
@[simp] theorem State.record_slew (s : State) (r : HostRecord) : (s.record r).slew = s.slew := rfl
@[simp] theorem State.record_tol (s : State) (r : HostRecord) : (s.record r).tol = s.tol := rfl
@[simp] theorem State.record_c2req (s : State) (r : HostRecord) : (s.record r).c2req = s.c2req := rfl
@[simp] theorem State.record_stagger (s : State) (r : HostRecord) : (s.record r).stagger = s.stagger := rfl
@[simp] theorem State.record_capHold (s : State) (r : HostRecord) : (s.record r).capHold = s.capHold := rfl
@[simp] theorem State.record_quarterPower (s : State) (r : HostRecord) : (s.record r).quarterPower = s.quarterPower := rfl
@[simp] theorem State.record_devicePower (s : State) (r : HostRecord) : (s.record r).devicePower = s.devicePower := rfl
@[simp] theorem State.record_temps (s : State) (r : HostRecord) : (s.record r).temps = s.temps := rfl
@[simp] theorem State.record_volts (s : State) (r : HostRecord) : (s.record r).volts = s.volts := rfl
@[simp] theorem State.record_process (s : State) (r : HostRecord) : (s.record r).process = s.process := rfl
@[simp] theorem State.record_hostLink (s : State) (r : HostRecord) : (s.record r).hostLink = s.hostLink := rfl
@[simp] theorem State.record_hostData (s : State) (r : HostRecord) : (s.record r).hostData = s.hostData := rfl
@[simp] theorem State.record_hot (s : State) (r : HostRecord) : (s.record r).hot = s.hot := rfl
@[simp] theorem State.record_ramping (s : State) (r : HostRecord) : (s.record r).ramping = s.ramping := rfl
@[simp] theorem State.record_rampDown (s : State) (r : HostRecord) : (s.record r).rampDown = s.rampDown := rfl
@[simp] theorem State.record_invals (s : State) (r : HostRecord) : (s.record r).invals = s.invals := rfl
@[simp] theorem State.record_owed (s : State) (r : HostRecord) : (s.record r).owed = s.owed := rfl
@[simp] theorem State.record_ports (s : State) (r : HostRecord) : (s.record r).ports = s.ports := rfl
@[simp] theorem State.record_sideband (s : State) (r : HostRecord) : (s.record r).sideband = s.sideband := rfl

@[simp] theorem State.wakeCore_schedule (s : State) (c : Nat) : (s.wakeCore c).schedule = s.schedule := rfl
@[simp] theorem State.wakeCore_cur (s : State) (c : Nat) : (s.wakeCore c).cur = s.cur := rfl
@[simp] theorem State.wakeCore_freeCtr (s : State) (c : Nat) : (s.wakeCore c).freeCtr = s.freeCtr := rfl
@[simp] theorem State.wakeCore_harts (s : State) (c : Nat) : (s.wakeCore c).harts = s.harts := rfl
@[simp] theorem State.wakeCore_clusters (s : State) (c : Nat) : (s.wakeCore c).clusters = s.clusters := rfl
@[simp] theorem State.wakeCore_views (s : State) (c : Nat) : (s.wakeCore c).views = s.views := rfl
@[simp] theorem State.wakeCore_writes (s : State) (c : Nat) : (s.wakeCore c).writes = s.writes := rfl
@[simp] theorem State.wakeCore_applied (s : State) (c : Nat) : (s.wakeCore c).applied = s.applied := rfl
@[simp] theorem State.wakeCore_issued (s : State) (c : Nat) : (s.wakeCore c).issued = s.issued := rfl
@[simp] theorem State.wakeCore_regions (s : State) (c : Nat) : (s.wakeCore c).regions = s.regions := rfl
@[simp] theorem State.wakeCore_slabForms (s : State) (c : Nat) : (s.wakeCore c).slabForms = s.slabForms := rfl
@[simp] theorem State.wakeCore_boots (s : State) (c : Nat) : (s.wakeCore c).boots = s.boots := rfl
@[simp] theorem State.wakeCore_soft (s : State) (c : Nat) : (s.wakeCore c).soft = s.soft := rfl
@[simp] theorem State.wakeCore_corrected (s : State) (c : Nat) : (s.wakeCore c).corrected = s.corrected := rfl
@[simp] theorem State.wakeCore_tlbs (s : State) (c : Nat) : (s.wakeCore c).tlbs = s.tlbs := rfl
@[simp] theorem State.wakeCore_walks (s : State) (c : Nat) : (s.wakeCore c).walks = s.walks := rfl
@[simp] theorem State.wakeCore_pins (s : State) (c : Nat) : (s.wakeCore c).pins = s.pins := rfl
@[simp] theorem State.wakeCore_ctxs (s : State) (c : Nat) : (s.wakeCore c).ctxs = s.ctxs := rfl
@[simp] theorem State.wakeCore_groups (s : State) (c : Nat) : (s.wakeCore c).groups = s.groups := rfl
@[simp] theorem State.wakeCore_nextGroup (s : State) (c : Nat) : (s.wakeCore c).nextGroup = s.nextGroup := rfl
@[simp] theorem State.wakeCore_nextStamp (s : State) (c : Nat) : (s.wakeCore c).nextStamp = s.nextStamp := rfl
@[simp] theorem State.wakeCore_kernels (s : State) (c : Nat) : (s.wakeCore c).kernels = s.kernels := rfl
@[simp] theorem State.wakeCore_queues (s : State) (c : Nat) : (s.wakeCore c).queues = s.queues := rfl
@[simp] theorem State.wakeCore_lastGrant (s : State) (c : Nat) : (s.wakeCore c).lastGrant = s.lastGrant := rfl
@[simp] theorem State.wakeCore_reserved (s : State) (c : Nat) : (s.wakeCore c).reserved = s.reserved := rfl
@[simp] theorem State.wakeCore_steals (s : State) (c : Nat) : (s.wakeCore c).steals = s.steals := rfl
@[simp] theorem State.wakeCore_records (s : State) (c : Nat) : (s.wakeCore c).records = s.records := rfl
@[simp] theorem State.wakeCore_faults (s : State) (c : Nat) : (s.wakeCore c).faults = s.faults := rfl
@[simp] theorem State.wakeCore_nextTicket (s : State) (c : Nat) : (s.wakeCore c).nextTicket = s.nextTicket := rfl
@[simp] theorem State.wakeCore_engineSeq (s : State) (c : Nat) : (s.wakeCore c).engineSeq = s.engineSeq := rfl
@[simp] theorem State.wakeCore_beacon (s : State) (c : Nat) : (s.wakeCore c).beacon = s.beacon := rfl
@[simp] theorem State.wakeCore_recess (s : State) (c : Nat) : (s.wakeCore c).recess = s.recess := rfl
@[simp] theorem State.wakeCore_slew (s : State) (c : Nat) : (s.wakeCore c).slew = s.slew := rfl
@[simp] theorem State.wakeCore_tol (s : State) (c : Nat) : (s.wakeCore c).tol = s.tol := rfl
@[simp] theorem State.wakeCore_c2req (s : State) (c : Nat) : (s.wakeCore c).c2req = s.c2req := rfl
@[simp] theorem State.wakeCore_stagger (s : State) (c : Nat) : (s.wakeCore c).stagger = s.stagger := rfl
@[simp] theorem State.wakeCore_capHold (s : State) (c : Nat) : (s.wakeCore c).capHold = s.capHold := rfl
@[simp] theorem State.wakeCore_temps (s : State) (c : Nat) : (s.wakeCore c).temps = s.temps := rfl
@[simp] theorem State.wakeCore_volts (s : State) (c : Nat) : (s.wakeCore c).volts = s.volts := rfl
@[simp] theorem State.wakeCore_process (s : State) (c : Nat) : (s.wakeCore c).process = s.process := rfl
@[simp] theorem State.wakeCore_hostLink (s : State) (c : Nat) : (s.wakeCore c).hostLink = s.hostLink := rfl
@[simp] theorem State.wakeCore_hostData (s : State) (c : Nat) : (s.wakeCore c).hostData = s.hostData := rfl
@[simp] theorem State.wakeCore_hot (s : State) (c : Nat) : (s.wakeCore c).hot = s.hot := rfl
@[simp] theorem State.wakeCore_ramping (s : State) (c : Nat) : (s.wakeCore c).ramping = s.ramping := rfl
@[simp] theorem State.wakeCore_rampDown (s : State) (c : Nat) : (s.wakeCore c).rampDown = s.rampDown := rfl
@[simp] theorem State.wakeCore_invals (s : State) (c : Nat) : (s.wakeCore c).invals = s.invals := rfl
@[simp] theorem State.wakeCore_owed (s : State) (c : Nat) : (s.wakeCore c).owed = s.owed := rfl
@[simp] theorem State.wakeCore_ports (s : State) (c : Nat) : (s.wakeCore c).ports = s.ports := rfl
@[simp] theorem State.wakeCore_sideband (s : State) (c : Nat) : (s.wakeCore c).sideband = s.sideband := rfl

@[simp] theorem State.wakeQuarter_schedule (s : State) (q : Nat) : (s.wakeQuarter q).schedule = s.schedule := rfl
@[simp] theorem State.wakeQuarter_cur (s : State) (q : Nat) : (s.wakeQuarter q).cur = s.cur := rfl
@[simp] theorem State.wakeQuarter_freeCtr (s : State) (q : Nat) : (s.wakeQuarter q).freeCtr = s.freeCtr := rfl
@[simp] theorem State.wakeQuarter_harts (s : State) (q : Nat) : (s.wakeQuarter q).harts = s.harts := rfl
@[simp] theorem State.wakeQuarter_cores (s : State) (q : Nat) : (s.wakeQuarter q).cores = s.cores := rfl
@[simp] theorem State.wakeQuarter_clusters (s : State) (q : Nat) : (s.wakeQuarter q).clusters = s.clusters := rfl
@[simp] theorem State.wakeQuarter_views (s : State) (q : Nat) : (s.wakeQuarter q).views = s.views := rfl
@[simp] theorem State.wakeQuarter_writes (s : State) (q : Nat) : (s.wakeQuarter q).writes = s.writes := rfl
@[simp] theorem State.wakeQuarter_applied (s : State) (q : Nat) : (s.wakeQuarter q).applied = s.applied := rfl
@[simp] theorem State.wakeQuarter_issued (s : State) (q : Nat) : (s.wakeQuarter q).issued = s.issued := rfl
@[simp] theorem State.wakeQuarter_regions (s : State) (q : Nat) : (s.wakeQuarter q).regions = s.regions := rfl
@[simp] theorem State.wakeQuarter_slabForms (s : State) (q : Nat) : (s.wakeQuarter q).slabForms = s.slabForms := rfl
@[simp] theorem State.wakeQuarter_boots (s : State) (q : Nat) : (s.wakeQuarter q).boots = s.boots := rfl
@[simp] theorem State.wakeQuarter_soft (s : State) (q : Nat) : (s.wakeQuarter q).soft = s.soft := rfl
@[simp] theorem State.wakeQuarter_corrected (s : State) (q : Nat) : (s.wakeQuarter q).corrected = s.corrected := rfl
@[simp] theorem State.wakeQuarter_tlbs (s : State) (q : Nat) : (s.wakeQuarter q).tlbs = s.tlbs := rfl
@[simp] theorem State.wakeQuarter_walks (s : State) (q : Nat) : (s.wakeQuarter q).walks = s.walks := rfl
@[simp] theorem State.wakeQuarter_pins (s : State) (q : Nat) : (s.wakeQuarter q).pins = s.pins := rfl
@[simp] theorem State.wakeQuarter_ctxs (s : State) (q : Nat) : (s.wakeQuarter q).ctxs = s.ctxs := rfl
@[simp] theorem State.wakeQuarter_groups (s : State) (q : Nat) : (s.wakeQuarter q).groups = s.groups := rfl
@[simp] theorem State.wakeQuarter_nextGroup (s : State) (q : Nat) : (s.wakeQuarter q).nextGroup = s.nextGroup := rfl
@[simp] theorem State.wakeQuarter_nextStamp (s : State) (q : Nat) : (s.wakeQuarter q).nextStamp = s.nextStamp := rfl
@[simp] theorem State.wakeQuarter_kernels (s : State) (q : Nat) : (s.wakeQuarter q).kernels = s.kernels := rfl
@[simp] theorem State.wakeQuarter_queues (s : State) (q : Nat) : (s.wakeQuarter q).queues = s.queues := rfl
@[simp] theorem State.wakeQuarter_lastGrant (s : State) (q : Nat) : (s.wakeQuarter q).lastGrant = s.lastGrant := rfl
@[simp] theorem State.wakeQuarter_reserved (s : State) (q : Nat) : (s.wakeQuarter q).reserved = s.reserved := rfl
@[simp] theorem State.wakeQuarter_steals (s : State) (q : Nat) : (s.wakeQuarter q).steals = s.steals := rfl
@[simp] theorem State.wakeQuarter_records (s : State) (q : Nat) : (s.wakeQuarter q).records = s.records := rfl
@[simp] theorem State.wakeQuarter_faults (s : State) (q : Nat) : (s.wakeQuarter q).faults = s.faults := rfl
@[simp] theorem State.wakeQuarter_nextTicket (s : State) (q : Nat) : (s.wakeQuarter q).nextTicket = s.nextTicket := rfl
@[simp] theorem State.wakeQuarter_engineSeq (s : State) (q : Nat) : (s.wakeQuarter q).engineSeq = s.engineSeq := rfl
@[simp] theorem State.wakeQuarter_beacon (s : State) (q : Nat) : (s.wakeQuarter q).beacon = s.beacon := rfl
@[simp] theorem State.wakeQuarter_recess (s : State) (q : Nat) : (s.wakeQuarter q).recess = s.recess := rfl
@[simp] theorem State.wakeQuarter_slew (s : State) (q : Nat) : (s.wakeQuarter q).slew = s.slew := rfl
@[simp] theorem State.wakeQuarter_tol (s : State) (q : Nat) : (s.wakeQuarter q).tol = s.tol := rfl
@[simp] theorem State.wakeQuarter_c2req (s : State) (q : Nat) : (s.wakeQuarter q).c2req = s.c2req := rfl
@[simp] theorem State.wakeQuarter_stagger (s : State) (q : Nat) : (s.wakeQuarter q).stagger = s.stagger := rfl
@[simp] theorem State.wakeQuarter_capHold (s : State) (q : Nat) : (s.wakeQuarter q).capHold = s.capHold := rfl
@[simp] theorem State.wakeQuarter_temps (s : State) (q : Nat) : (s.wakeQuarter q).temps = s.temps := rfl
@[simp] theorem State.wakeQuarter_volts (s : State) (q : Nat) : (s.wakeQuarter q).volts = s.volts := rfl
@[simp] theorem State.wakeQuarter_process (s : State) (q : Nat) : (s.wakeQuarter q).process = s.process := rfl
@[simp] theorem State.wakeQuarter_hostLink (s : State) (q : Nat) : (s.wakeQuarter q).hostLink = s.hostLink := rfl
@[simp] theorem State.wakeQuarter_hostData (s : State) (q : Nat) : (s.wakeQuarter q).hostData = s.hostData := rfl
@[simp] theorem State.wakeQuarter_hot (s : State) (q : Nat) : (s.wakeQuarter q).hot = s.hot := rfl
@[simp] theorem State.wakeQuarter_ramping (s : State) (q : Nat) : (s.wakeQuarter q).ramping = s.ramping := rfl
@[simp] theorem State.wakeQuarter_rampDown (s : State) (q : Nat) : (s.wakeQuarter q).rampDown = s.rampDown := rfl
@[simp] theorem State.wakeQuarter_invals (s : State) (q : Nat) : (s.wakeQuarter q).invals = s.invals := rfl
@[simp] theorem State.wakeQuarter_owed (s : State) (q : Nat) : (s.wakeQuarter q).owed = s.owed := rfl
@[simp] theorem State.wakeQuarter_ports (s : State) (q : Nat) : (s.wakeQuarter q).ports = s.ports := rfl
@[simp] theorem State.wakeQuarter_sideband (s : State) (q : Nat) : (s.wakeQuarter q).sideband = s.sideband := rfl

/-! ## Updates of a hart -/

@[simp] theorem Hart.next_run (h : Hart) : (h.next).run = h.run := rfl
@[simp] theorem Hart.next_member (h : Hart) : (h.next).member = h.member := rfl
@[simp] theorem Hart.next_s (h : Hart) : (h.next).s = h.s := rfl
@[simp] theorem Hart.next_v (h : Hart) : (h.next).v = h.v := rfl
@[simp] theorem Hart.next_m (h : Hart) : (h.next).m = h.m := rfl
@[simp] theorem Hart.next_p (h : Hart) : (h.next).p = h.p := rfl
@[simp] theorem Hart.next_d (h : Hart) : (h.next).d = h.d := rfl
@[simp] theorem Hart.next_z (h : Hart) : (h.next).z = h.z := rfl
@[simp] theorem Hart.next_w (h : Hart) : (h.next).w = h.w := rfl
@[simp] theorem Hart.next_wclk (h : Hart) : (h.next).wclk = h.wclk := rfl
@[simp] theorem Hart.next_marks (h : Hart) : (h.next).marks = h.marks := rfl
@[simp] theorem Hart.next_inFlight (h : Hart) : (h.next).inFlight = h.inFlight := rfl
@[simp] theorem Hart.next_fmode (h : Hart) : (h.next).fmode = h.fmode := rfl
@[simp] theorem Hart.next_vcfg (h : Hart) : (h.next).vcfg = h.vcfg := rfl
@[simp] theorem Hart.next_vlgrant (h : Hart) : (h.next).vlgrant = h.vlgrant := rfl
@[simp] theorem Hart.next_seniority (h : Hart) : (h.next).seniority = h.seniority := rfl
@[simp] theorem Hart.next_grpcoord (h : Hart) : (h.next).grpcoord = h.grpcoord := rfl
@[simp] theorem Hart.next_asid (h : Hart) : (h.next).asid = h.asid := rfl
@[simp] theorem Hart.next_lcause (h : Hart) : (h.next).lcause = h.lcause := rfl
@[simp] theorem Hart.next_lepc (h : Hart) : (h.next).lepc = h.lepc := rfl
@[simp] theorem Hart.next_lvelem (h : Hart) : (h.next).lvelem = h.lvelem := rfl
@[simp] theorem Hart.next_laddr (h : Hart) : (h.next).laddr = h.laddr := rfl
@[simp] theorem Hart.next_system (h : Hart) : (h.next).system = h.system := rfl
@[simp] theorem Hart.next_ltvec (h : Hart) : (h.next).ltvec = h.ltvec := rfl
@[simp] theorem Hart.next_lhold (h : Hart) : (h.next).lhold = h.lhold := rfl
@[simp] theorem Hart.next_satchel (h : Hart) : (h.next).satchel = h.satchel := rfl
@[simp] theorem Hart.next_slates (h : Hart) : (h.next).slates = h.slates := rfl
@[simp] theorem Hart.next_arrival (h : Hart) : (h.next).arrival = h.arrival := rfl
@[simp] theorem Hart.next_blk (h : Hart) : (h.next).blk = h.blk := rfl
@[simp] theorem Hart.next_vq (h : Hart) : (h.next).vq = h.vq := rfl
@[simp] theorem Hart.next_vrs (h : Hart) : (h.next).vrs = h.vrs := rfl
@[simp] theorem Hart.next_lines (h : Hart) : (h.next).lines = h.lines := rfl
@[simp] theorem Hart.next_spill (h : Hart) : (h.next).spill = h.spill := rfl
@[simp] theorem Hart.next_task (h : Hart) : (h.next).task = h.task := rfl
@[simp] theorem Hart.next_wound (h : Hart) : (h.next).wound = h.wound := rfl
@[simp] theorem Hart.next_preempt (h : Hart) : (h.next).preempt = h.preempt := rfl
@[simp] theorem Hart.next_overrun (h : Hart) : (h.next).overrun = h.overrun := rfl
@[simp] theorem Hart.next_clock (h : Hart) : (h.next).clock = h.clock := rfl
@[simp] theorem Hart.next_seen (h : Hart) : (h.next).seen = h.seen := rfl
@[simp] theorem Hart.next_seenV (h : Hart) : (h.next).seenV = h.seenV := rfl
@[simp] theorem Hart.next_saveArea (h : Hart) : (h.next).saveArea = h.saveArea := rfl
@[simp] theorem Hart.next_image (h : Hart) : (h.next).image = h.image := rfl
@[simp] theorem Hart.next_missed (h : Hart) : (h.next).missed = h.missed := rfl
@[simp] theorem Hart.next_faultSeq (h : Hart) : (h.next).faultSeq = h.faultSeq := rfl
@[simp] theorem Hart.next_bad (h : Hart) : (h.next).bad = h.bad := rfl

@[simp] theorem Hart.jump_run (h : Hart) (t : Word) : (h.jump t).run = h.run := rfl
@[simp] theorem Hart.jump_member (h : Hart) (t : Word) : (h.jump t).member = h.member := rfl
@[simp] theorem Hart.jump_s (h : Hart) (t : Word) : (h.jump t).s = h.s := rfl
@[simp] theorem Hart.jump_v (h : Hart) (t : Word) : (h.jump t).v = h.v := rfl
@[simp] theorem Hart.jump_m (h : Hart) (t : Word) : (h.jump t).m = h.m := rfl
@[simp] theorem Hart.jump_p (h : Hart) (t : Word) : (h.jump t).p = h.p := rfl
@[simp] theorem Hart.jump_d (h : Hart) (t : Word) : (h.jump t).d = h.d := rfl
@[simp] theorem Hart.jump_z (h : Hart) (t : Word) : (h.jump t).z = h.z := rfl
@[simp] theorem Hart.jump_w (h : Hart) (t : Word) : (h.jump t).w = h.w := rfl
@[simp] theorem Hart.jump_wclk (h : Hart) (t : Word) : (h.jump t).wclk = h.wclk := rfl
@[simp] theorem Hart.jump_marks (h : Hart) (t : Word) : (h.jump t).marks = h.marks := rfl
@[simp] theorem Hart.jump_inFlight (h : Hart) (t : Word) : (h.jump t).inFlight = h.inFlight := rfl
@[simp] theorem Hart.jump_fmode (h : Hart) (t : Word) : (h.jump t).fmode = h.fmode := rfl
@[simp] theorem Hart.jump_vcfg (h : Hart) (t : Word) : (h.jump t).vcfg = h.vcfg := rfl
@[simp] theorem Hart.jump_vlgrant (h : Hart) (t : Word) : (h.jump t).vlgrant = h.vlgrant := rfl
@[simp] theorem Hart.jump_seniority (h : Hart) (t : Word) : (h.jump t).seniority = h.seniority := rfl
@[simp] theorem Hart.jump_grpcoord (h : Hart) (t : Word) : (h.jump t).grpcoord = h.grpcoord := rfl
@[simp] theorem Hart.jump_asid (h : Hart) (t : Word) : (h.jump t).asid = h.asid := rfl
@[simp] theorem Hart.jump_lcause (h : Hart) (t : Word) : (h.jump t).lcause = h.lcause := rfl
@[simp] theorem Hart.jump_lepc (h : Hart) (t : Word) : (h.jump t).lepc = h.lepc := rfl
@[simp] theorem Hart.jump_lvelem (h : Hart) (t : Word) : (h.jump t).lvelem = h.lvelem := rfl
@[simp] theorem Hart.jump_laddr (h : Hart) (t : Word) : (h.jump t).laddr = h.laddr := rfl
@[simp] theorem Hart.jump_system (h : Hart) (t : Word) : (h.jump t).system = h.system := rfl
@[simp] theorem Hart.jump_ltvec (h : Hart) (t : Word) : (h.jump t).ltvec = h.ltvec := rfl
@[simp] theorem Hart.jump_lhold (h : Hart) (t : Word) : (h.jump t).lhold = h.lhold := rfl
@[simp] theorem Hart.jump_satchel (h : Hart) (t : Word) : (h.jump t).satchel = h.satchel := rfl
@[simp] theorem Hart.jump_slates (h : Hart) (t : Word) : (h.jump t).slates = h.slates := rfl
@[simp] theorem Hart.jump_arrival (h : Hart) (t : Word) : (h.jump t).arrival = h.arrival := rfl
@[simp] theorem Hart.jump_blk (h : Hart) (t : Word) : (h.jump t).blk = h.blk := rfl
@[simp] theorem Hart.jump_vq (h : Hart) (t : Word) : (h.jump t).vq = h.vq := rfl
@[simp] theorem Hart.jump_vrs (h : Hart) (t : Word) : (h.jump t).vrs = h.vrs := rfl
@[simp] theorem Hart.jump_lines (h : Hart) (t : Word) : (h.jump t).lines = h.lines := rfl
@[simp] theorem Hart.jump_spill (h : Hart) (t : Word) : (h.jump t).spill = h.spill := rfl
@[simp] theorem Hart.jump_task (h : Hart) (t : Word) : (h.jump t).task = h.task := rfl
@[simp] theorem Hart.jump_wound (h : Hart) (t : Word) : (h.jump t).wound = h.wound := rfl
@[simp] theorem Hart.jump_preempt (h : Hart) (t : Word) : (h.jump t).preempt = h.preempt := rfl
@[simp] theorem Hart.jump_overrun (h : Hart) (t : Word) : (h.jump t).overrun = h.overrun := rfl
@[simp] theorem Hart.jump_clock (h : Hart) (t : Word) : (h.jump t).clock = h.clock := rfl
@[simp] theorem Hart.jump_seen (h : Hart) (t : Word) : (h.jump t).seen = h.seen := rfl
@[simp] theorem Hart.jump_seenV (h : Hart) (t : Word) : (h.jump t).seenV = h.seenV := rfl
@[simp] theorem Hart.jump_saveArea (h : Hart) (t : Word) : (h.jump t).saveArea = h.saveArea := rfl
@[simp] theorem Hart.jump_image (h : Hart) (t : Word) : (h.jump t).image = h.image := rfl
@[simp] theorem Hart.jump_missed (h : Hart) (t : Word) : (h.jump t).missed = h.missed := rfl
@[simp] theorem Hart.jump_faultSeq (h : Hart) (t : Word) : (h.jump t).faultSeq = h.faultSeq := rfl
@[simp] theorem Hart.jump_bad (h : Hart) (t : Word) : (h.jump t).bad = h.bad := rfl

@[simp] theorem Hart.raise_run (h : Hart) (f : FlagSet) : (h.raise f).run = h.run := rfl
@[simp] theorem Hart.raise_member (h : Hart) (f : FlagSet) : (h.raise f).member = h.member := rfl
@[simp] theorem Hart.raise_s (h : Hart) (f : FlagSet) : (h.raise f).s = h.s := rfl
@[simp] theorem Hart.raise_pc (h : Hart) (f : FlagSet) : (h.raise f).pc = h.pc := rfl
@[simp] theorem Hart.raise_v (h : Hart) (f : FlagSet) : (h.raise f).v = h.v := rfl
@[simp] theorem Hart.raise_m (h : Hart) (f : FlagSet) : (h.raise f).m = h.m := rfl
@[simp] theorem Hart.raise_p (h : Hart) (f : FlagSet) : (h.raise f).p = h.p := rfl
@[simp] theorem Hart.raise_d (h : Hart) (f : FlagSet) : (h.raise f).d = h.d := rfl
@[simp] theorem Hart.raise_z (h : Hart) (f : FlagSet) : (h.raise f).z = h.z := rfl
@[simp] theorem Hart.raise_w (h : Hart) (f : FlagSet) : (h.raise f).w = h.w := rfl
@[simp] theorem Hart.raise_wclk (h : Hart) (f : FlagSet) : (h.raise f).wclk = h.wclk := rfl
@[simp] theorem Hart.raise_marks (h : Hart) (f : FlagSet) : (h.raise f).marks = h.marks := rfl
@[simp] theorem Hart.raise_inFlight (h : Hart) (f : FlagSet) : (h.raise f).inFlight = h.inFlight := rfl
@[simp] theorem Hart.raise_vcfg (h : Hart) (f : FlagSet) : (h.raise f).vcfg = h.vcfg := rfl
@[simp] theorem Hart.raise_vlgrant (h : Hart) (f : FlagSet) : (h.raise f).vlgrant = h.vlgrant := rfl
@[simp] theorem Hart.raise_velem (h : Hart) (f : FlagSet) : (h.raise f).velem = h.velem := rfl
@[simp] theorem Hart.raise_seniority (h : Hart) (f : FlagSet) : (h.raise f).seniority = h.seniority := rfl
@[simp] theorem Hart.raise_grpcoord (h : Hart) (f : FlagSet) : (h.raise f).grpcoord = h.grpcoord := rfl
@[simp] theorem Hart.raise_asid (h : Hart) (f : FlagSet) : (h.raise f).asid = h.asid := rfl
@[simp] theorem Hart.raise_lcause (h : Hart) (f : FlagSet) : (h.raise f).lcause = h.lcause := rfl
@[simp] theorem Hart.raise_lepc (h : Hart) (f : FlagSet) : (h.raise f).lepc = h.lepc := rfl
@[simp] theorem Hart.raise_lvelem (h : Hart) (f : FlagSet) : (h.raise f).lvelem = h.lvelem := rfl
@[simp] theorem Hart.raise_laddr (h : Hart) (f : FlagSet) : (h.raise f).laddr = h.laddr := rfl
@[simp] theorem Hart.raise_system (h : Hart) (f : FlagSet) : (h.raise f).system = h.system := rfl
@[simp] theorem Hart.raise_ltvec (h : Hart) (f : FlagSet) : (h.raise f).ltvec = h.ltvec := rfl
@[simp] theorem Hart.raise_lhold (h : Hart) (f : FlagSet) : (h.raise f).lhold = h.lhold := rfl
@[simp] theorem Hart.raise_satchel (h : Hart) (f : FlagSet) : (h.raise f).satchel = h.satchel := rfl
@[simp] theorem Hart.raise_slates (h : Hart) (f : FlagSet) : (h.raise f).slates = h.slates := rfl
@[simp] theorem Hart.raise_arrival (h : Hart) (f : FlagSet) : (h.raise f).arrival = h.arrival := rfl
@[simp] theorem Hart.raise_blk (h : Hart) (f : FlagSet) : (h.raise f).blk = h.blk := rfl
@[simp] theorem Hart.raise_vq (h : Hart) (f : FlagSet) : (h.raise f).vq = h.vq := rfl
@[simp] theorem Hart.raise_vrs (h : Hart) (f : FlagSet) : (h.raise f).vrs = h.vrs := rfl
@[simp] theorem Hart.raise_wait (h : Hart) (f : FlagSet) : (h.raise f).wait = h.wait := rfl
@[simp] theorem Hart.raise_lines (h : Hart) (f : FlagSet) : (h.raise f).lines = h.lines := rfl
@[simp] theorem Hart.raise_spill (h : Hart) (f : FlagSet) : (h.raise f).spill = h.spill := rfl
@[simp] theorem Hart.raise_task (h : Hart) (f : FlagSet) : (h.raise f).task = h.task := rfl
@[simp] theorem Hart.raise_wound (h : Hart) (f : FlagSet) : (h.raise f).wound = h.wound := rfl
@[simp] theorem Hart.raise_preempt (h : Hart) (f : FlagSet) : (h.raise f).preempt = h.preempt := rfl
@[simp] theorem Hart.raise_overrun (h : Hart) (f : FlagSet) : (h.raise f).overrun = h.overrun := rfl
@[simp] theorem Hart.raise_clock (h : Hart) (f : FlagSet) : (h.raise f).clock = h.clock := rfl
@[simp] theorem Hart.raise_seen (h : Hart) (f : FlagSet) : (h.raise f).seen = h.seen := rfl
@[simp] theorem Hart.raise_seenV (h : Hart) (f : FlagSet) : (h.raise f).seenV = h.seenV := rfl
@[simp] theorem Hart.raise_saveArea (h : Hart) (f : FlagSet) : (h.raise f).saveArea = h.saveArea := rfl
@[simp] theorem Hart.raise_image (h : Hart) (f : FlagSet) : (h.raise f).image = h.image := rfl
@[simp] theorem Hart.raise_missed (h : Hart) (f : FlagSet) : (h.raise f).missed = h.missed := rfl
@[simp] theorem Hart.raise_faultSeq (h : Hart) (f : FlagSet) : (h.raise f).faultSeq = h.faultSeq := rfl
@[simp] theorem Hart.raise_bad (h : Hart) (f : FlagSet) : (h.raise f).bad = h.bad := rfl

@[simp] theorem Hart.exchange_run (h : Hart) : (h.exchange).run = h.run := rfl
@[simp] theorem Hart.exchange_member (h : Hart) : (h.exchange).member = h.member := rfl
@[simp] theorem Hart.exchange_pc (h : Hart) : (h.exchange).pc = h.pc := rfl
@[simp] theorem Hart.exchange_v (h : Hart) : (h.exchange).v = h.v := rfl
@[simp] theorem Hart.exchange_m (h : Hart) : (h.exchange).m = h.m := rfl
@[simp] theorem Hart.exchange_p (h : Hart) : (h.exchange).p = h.p := rfl
@[simp] theorem Hart.exchange_d (h : Hart) : (h.exchange).d = h.d := rfl
@[simp] theorem Hart.exchange_z (h : Hart) : (h.exchange).z = h.z := rfl
@[simp] theorem Hart.exchange_w (h : Hart) : (h.exchange).w = h.w := rfl
@[simp] theorem Hart.exchange_wclk (h : Hart) : (h.exchange).wclk = h.wclk := rfl
@[simp] theorem Hart.exchange_marks (h : Hart) : (h.exchange).marks = h.marks := rfl
@[simp] theorem Hart.exchange_inFlight (h : Hart) : (h.exchange).inFlight = h.inFlight := rfl
@[simp] theorem Hart.exchange_fmode (h : Hart) : (h.exchange).fmode = h.fmode := rfl
@[simp] theorem Hart.exchange_vcfg (h : Hart) : (h.exchange).vcfg = h.vcfg := rfl
@[simp] theorem Hart.exchange_vlgrant (h : Hart) : (h.exchange).vlgrant = h.vlgrant := rfl
@[simp] theorem Hart.exchange_velem (h : Hart) : (h.exchange).velem = h.velem := rfl
@[simp] theorem Hart.exchange_seniority (h : Hart) : (h.exchange).seniority = h.seniority := rfl
@[simp] theorem Hart.exchange_grpcoord (h : Hart) : (h.exchange).grpcoord = h.grpcoord := rfl
@[simp] theorem Hart.exchange_asid (h : Hart) : (h.exchange).asid = h.asid := rfl
@[simp] theorem Hart.exchange_lcause (h : Hart) : (h.exchange).lcause = h.lcause := rfl
@[simp] theorem Hart.exchange_lepc (h : Hart) : (h.exchange).lepc = h.lepc := rfl
@[simp] theorem Hart.exchange_lvelem (h : Hart) : (h.exchange).lvelem = h.lvelem := rfl
@[simp] theorem Hart.exchange_laddr (h : Hart) : (h.exchange).laddr = h.laddr := rfl
@[simp] theorem Hart.exchange_system (h : Hart) : (h.exchange).system = h.system := rfl
@[simp] theorem Hart.exchange_ltvec (h : Hart) : (h.exchange).ltvec = h.ltvec := rfl
@[simp] theorem Hart.exchange_satchel (h : Hart) : (h.exchange).satchel = h.satchel := rfl
@[simp] theorem Hart.exchange_slates (h : Hart) : (h.exchange).slates = h.slates := rfl
@[simp] theorem Hart.exchange_arrival (h : Hart) : (h.exchange).arrival = h.arrival := rfl
@[simp] theorem Hart.exchange_blk (h : Hart) : (h.exchange).blk = h.blk := rfl
@[simp] theorem Hart.exchange_vq (h : Hart) : (h.exchange).vq = h.vq := rfl
@[simp] theorem Hart.exchange_vrs (h : Hart) : (h.exchange).vrs = h.vrs := rfl
@[simp] theorem Hart.exchange_wait (h : Hart) : (h.exchange).wait = h.wait := rfl
@[simp] theorem Hart.exchange_lines (h : Hart) : (h.exchange).lines = h.lines := rfl
@[simp] theorem Hart.exchange_spill (h : Hart) : (h.exchange).spill = h.spill := rfl
@[simp] theorem Hart.exchange_task (h : Hart) : (h.exchange).task = h.task := rfl
@[simp] theorem Hart.exchange_wound (h : Hart) : (h.exchange).wound = h.wound := rfl
@[simp] theorem Hart.exchange_preempt (h : Hart) : (h.exchange).preempt = h.preempt := rfl
@[simp] theorem Hart.exchange_overrun (h : Hart) : (h.exchange).overrun = h.overrun := rfl
@[simp] theorem Hart.exchange_clock (h : Hart) : (h.exchange).clock = h.clock := rfl
@[simp] theorem Hart.exchange_seen (h : Hart) : (h.exchange).seen = h.seen := rfl
@[simp] theorem Hart.exchange_seenV (h : Hart) : (h.exchange).seenV = h.seenV := rfl
@[simp] theorem Hart.exchange_saveArea (h : Hart) : (h.exchange).saveArea = h.saveArea := rfl
@[simp] theorem Hart.exchange_image (h : Hart) : (h.exchange).image = h.image := rfl
@[simp] theorem Hart.exchange_missed (h : Hart) : (h.exchange).missed = h.missed := rfl
@[simp] theorem Hart.exchange_faultSeq (h : Hart) : (h.exchange).faultSeq = h.faultSeq := rfl
@[simp] theorem Hart.exchange_bad (h : Hart) : (h.exchange).bad = h.bad := rfl

@[simp] theorem Hart.vput_run (h : Hart) (r : Nat) (x : VWord) : (h.vput r x).run = h.run := rfl
@[simp] theorem Hart.vput_member (h : Hart) (r : Nat) (x : VWord) : (h.vput r x).member = h.member := rfl
@[simp] theorem Hart.vput_s (h : Hart) (r : Nat) (x : VWord) : (h.vput r x).s = h.s := rfl
@[simp] theorem Hart.vput_pc (h : Hart) (r : Nat) (x : VWord) : (h.vput r x).pc = h.pc := rfl
@[simp] theorem Hart.vput_m (h : Hart) (r : Nat) (x : VWord) : (h.vput r x).m = h.m := rfl
@[simp] theorem Hart.vput_p (h : Hart) (r : Nat) (x : VWord) : (h.vput r x).p = h.p := rfl
@[simp] theorem Hart.vput_d (h : Hart) (r : Nat) (x : VWord) : (h.vput r x).d = h.d := rfl
@[simp] theorem Hart.vput_z (h : Hart) (r : Nat) (x : VWord) : (h.vput r x).z = h.z := rfl
@[simp] theorem Hart.vput_w (h : Hart) (r : Nat) (x : VWord) : (h.vput r x).w = h.w := rfl
@[simp] theorem Hart.vput_wclk (h : Hart) (r : Nat) (x : VWord) : (h.vput r x).wclk = h.wclk := rfl
@[simp] theorem Hart.vput_marks (h : Hart) (r : Nat) (x : VWord) : (h.vput r x).marks = h.marks := rfl
@[simp] theorem Hart.vput_inFlight (h : Hart) (r : Nat) (x : VWord) : (h.vput r x).inFlight = h.inFlight := rfl
@[simp] theorem Hart.vput_fmode (h : Hart) (r : Nat) (x : VWord) : (h.vput r x).fmode = h.fmode := rfl
@[simp] theorem Hart.vput_vcfg (h : Hart) (r : Nat) (x : VWord) : (h.vput r x).vcfg = h.vcfg := rfl
@[simp] theorem Hart.vput_vlgrant (h : Hart) (r : Nat) (x : VWord) : (h.vput r x).vlgrant = h.vlgrant := rfl
@[simp] theorem Hart.vput_velem (h : Hart) (r : Nat) (x : VWord) : (h.vput r x).velem = h.velem := rfl
@[simp] theorem Hart.vput_seniority (h : Hart) (r : Nat) (x : VWord) : (h.vput r x).seniority = h.seniority := rfl
@[simp] theorem Hart.vput_grpcoord (h : Hart) (r : Nat) (x : VWord) : (h.vput r x).grpcoord = h.grpcoord := rfl
@[simp] theorem Hart.vput_asid (h : Hart) (r : Nat) (x : VWord) : (h.vput r x).asid = h.asid := rfl
@[simp] theorem Hart.vput_lcause (h : Hart) (r : Nat) (x : VWord) : (h.vput r x).lcause = h.lcause := rfl
@[simp] theorem Hart.vput_lepc (h : Hart) (r : Nat) (x : VWord) : (h.vput r x).lepc = h.lepc := rfl
@[simp] theorem Hart.vput_lvelem (h : Hart) (r : Nat) (x : VWord) : (h.vput r x).lvelem = h.lvelem := rfl
@[simp] theorem Hart.vput_laddr (h : Hart) (r : Nat) (x : VWord) : (h.vput r x).laddr = h.laddr := rfl
@[simp] theorem Hart.vput_system (h : Hart) (r : Nat) (x : VWord) : (h.vput r x).system = h.system := rfl
@[simp] theorem Hart.vput_ltvec (h : Hart) (r : Nat) (x : VWord) : (h.vput r x).ltvec = h.ltvec := rfl
@[simp] theorem Hart.vput_lhold (h : Hart) (r : Nat) (x : VWord) : (h.vput r x).lhold = h.lhold := rfl
@[simp] theorem Hart.vput_satchel (h : Hart) (r : Nat) (x : VWord) : (h.vput r x).satchel = h.satchel := rfl
@[simp] theorem Hart.vput_slates (h : Hart) (r : Nat) (x : VWord) : (h.vput r x).slates = h.slates := rfl
@[simp] theorem Hart.vput_arrival (h : Hart) (r : Nat) (x : VWord) : (h.vput r x).arrival = h.arrival := rfl
@[simp] theorem Hart.vput_blk (h : Hart) (r : Nat) (x : VWord) : (h.vput r x).blk = h.blk := rfl
@[simp] theorem Hart.vput_vq (h : Hart) (r : Nat) (x : VWord) : (h.vput r x).vq = h.vq := rfl
@[simp] theorem Hart.vput_vrs (h : Hart) (r : Nat) (x : VWord) : (h.vput r x).vrs = h.vrs := rfl
@[simp] theorem Hart.vput_wait (h : Hart) (r : Nat) (x : VWord) : (h.vput r x).wait = h.wait := rfl
@[simp] theorem Hart.vput_lines (h : Hart) (r : Nat) (x : VWord) : (h.vput r x).lines = h.lines := rfl
@[simp] theorem Hart.vput_spill (h : Hart) (r : Nat) (x : VWord) : (h.vput r x).spill = h.spill := rfl
@[simp] theorem Hart.vput_task (h : Hart) (r : Nat) (x : VWord) : (h.vput r x).task = h.task := rfl
@[simp] theorem Hart.vput_wound (h : Hart) (r : Nat) (x : VWord) : (h.vput r x).wound = h.wound := rfl
@[simp] theorem Hart.vput_preempt (h : Hart) (r : Nat) (x : VWord) : (h.vput r x).preempt = h.preempt := rfl
@[simp] theorem Hart.vput_overrun (h : Hart) (r : Nat) (x : VWord) : (h.vput r x).overrun = h.overrun := rfl
@[simp] theorem Hart.vput_clock (h : Hart) (r : Nat) (x : VWord) : (h.vput r x).clock = h.clock := rfl
@[simp] theorem Hart.vput_seen (h : Hart) (r : Nat) (x : VWord) : (h.vput r x).seen = h.seen := rfl
@[simp] theorem Hart.vput_seenV (h : Hart) (r : Nat) (x : VWord) : (h.vput r x).seenV = h.seenV := rfl
@[simp] theorem Hart.vput_saveArea (h : Hart) (r : Nat) (x : VWord) : (h.vput r x).saveArea = h.saveArea := rfl
@[simp] theorem Hart.vput_image (h : Hart) (r : Nat) (x : VWord) : (h.vput r x).image = h.image := rfl
@[simp] theorem Hart.vput_missed (h : Hart) (r : Nat) (x : VWord) : (h.vput r x).missed = h.missed := rfl
@[simp] theorem Hart.vput_faultSeq (h : Hart) (r : Nat) (x : VWord) : (h.vput r x).faultSeq = h.faultSeq := rfl
@[simp] theorem Hart.vput_bad (h : Hart) (r : Nat) (x : VWord) : (h.vput r x).bad = h.bad := rfl

@[simp] theorem Hart.sput_run (h : Hart) (r : SReg) (x : Word) : (h.sput r x).run = h.run := by unfold Hart.sput; split <;> rfl
@[simp] theorem Hart.sput_member (h : Hart) (r : SReg) (x : Word) : (h.sput r x).member = h.member := by unfold Hart.sput; split <;> rfl
@[simp] theorem Hart.sput_pc (h : Hart) (r : SReg) (x : Word) : (h.sput r x).pc = h.pc := by unfold Hart.sput; split <;> rfl
@[simp] theorem Hart.sput_v (h : Hart) (r : SReg) (x : Word) : (h.sput r x).v = h.v := by unfold Hart.sput; split <;> rfl
@[simp] theorem Hart.sput_m (h : Hart) (r : SReg) (x : Word) : (h.sput r x).m = h.m := by unfold Hart.sput; split <;> rfl
@[simp] theorem Hart.sput_p (h : Hart) (r : SReg) (x : Word) : (h.sput r x).p = h.p := by unfold Hart.sput; split <;> rfl
@[simp] theorem Hart.sput_d (h : Hart) (r : SReg) (x : Word) : (h.sput r x).d = h.d := by unfold Hart.sput; split <;> rfl
@[simp] theorem Hart.sput_z (h : Hart) (r : SReg) (x : Word) : (h.sput r x).z = h.z := by unfold Hart.sput; split <;> rfl
@[simp] theorem Hart.sput_w (h : Hart) (r : SReg) (x : Word) : (h.sput r x).w = h.w := by unfold Hart.sput; split <;> rfl
@[simp] theorem Hart.sput_wclk (h : Hart) (r : SReg) (x : Word) : (h.sput r x).wclk = h.wclk := by unfold Hart.sput; split <;> rfl
@[simp] theorem Hart.sput_marks (h : Hart) (r : SReg) (x : Word) : (h.sput r x).marks = h.marks := by unfold Hart.sput; split <;> rfl
@[simp] theorem Hart.sput_inFlight (h : Hart) (r : SReg) (x : Word) : (h.sput r x).inFlight = h.inFlight := by unfold Hart.sput; split <;> rfl
@[simp] theorem Hart.sput_fmode (h : Hart) (r : SReg) (x : Word) : (h.sput r x).fmode = h.fmode := by unfold Hart.sput; split <;> rfl
@[simp] theorem Hart.sput_vcfg (h : Hart) (r : SReg) (x : Word) : (h.sput r x).vcfg = h.vcfg := by unfold Hart.sput; split <;> rfl
@[simp] theorem Hart.sput_vlgrant (h : Hart) (r : SReg) (x : Word) : (h.sput r x).vlgrant = h.vlgrant := by unfold Hart.sput; split <;> rfl
@[simp] theorem Hart.sput_velem (h : Hart) (r : SReg) (x : Word) : (h.sput r x).velem = h.velem := by unfold Hart.sput; split <;> rfl
@[simp] theorem Hart.sput_seniority (h : Hart) (r : SReg) (x : Word) : (h.sput r x).seniority = h.seniority := by unfold Hart.sput; split <;> rfl
@[simp] theorem Hart.sput_grpcoord (h : Hart) (r : SReg) (x : Word) : (h.sput r x).grpcoord = h.grpcoord := by unfold Hart.sput; split <;> rfl
@[simp] theorem Hart.sput_asid (h : Hart) (r : SReg) (x : Word) : (h.sput r x).asid = h.asid := by unfold Hart.sput; split <;> rfl
@[simp] theorem Hart.sput_lcause (h : Hart) (r : SReg) (x : Word) : (h.sput r x).lcause = h.lcause := by unfold Hart.sput; split <;> rfl
@[simp] theorem Hart.sput_lepc (h : Hart) (r : SReg) (x : Word) : (h.sput r x).lepc = h.lepc := by unfold Hart.sput; split <;> rfl
@[simp] theorem Hart.sput_lvelem (h : Hart) (r : SReg) (x : Word) : (h.sput r x).lvelem = h.lvelem := by unfold Hart.sput; split <;> rfl
@[simp] theorem Hart.sput_laddr (h : Hart) (r : SReg) (x : Word) : (h.sput r x).laddr = h.laddr := by unfold Hart.sput; split <;> rfl
@[simp] theorem Hart.sput_system (h : Hart) (r : SReg) (x : Word) : (h.sput r x).system = h.system := by unfold Hart.sput; split <;> rfl
@[simp] theorem Hart.sput_ltvec (h : Hart) (r : SReg) (x : Word) : (h.sput r x).ltvec = h.ltvec := by unfold Hart.sput; split <;> rfl
@[simp] theorem Hart.sput_lhold (h : Hart) (r : SReg) (x : Word) : (h.sput r x).lhold = h.lhold := by unfold Hart.sput; split <;> rfl
@[simp] theorem Hart.sput_satchel (h : Hart) (r : SReg) (x : Word) : (h.sput r x).satchel = h.satchel := by unfold Hart.sput; split <;> rfl
@[simp] theorem Hart.sput_slates (h : Hart) (r : SReg) (x : Word) : (h.sput r x).slates = h.slates := by unfold Hart.sput; split <;> rfl
@[simp] theorem Hart.sput_arrival (h : Hart) (r : SReg) (x : Word) : (h.sput r x).arrival = h.arrival := by unfold Hart.sput; split <;> rfl
@[simp] theorem Hart.sput_blk (h : Hart) (r : SReg) (x : Word) : (h.sput r x).blk = h.blk := by unfold Hart.sput; split <;> rfl
@[simp] theorem Hart.sput_vq (h : Hart) (r : SReg) (x : Word) : (h.sput r x).vq = h.vq := by unfold Hart.sput; split <;> rfl
@[simp] theorem Hart.sput_vrs (h : Hart) (r : SReg) (x : Word) : (h.sput r x).vrs = h.vrs := by unfold Hart.sput; split <;> rfl
@[simp] theorem Hart.sput_wait (h : Hart) (r : SReg) (x : Word) : (h.sput r x).wait = h.wait := by unfold Hart.sput; split <;> rfl
@[simp] theorem Hart.sput_lines (h : Hart) (r : SReg) (x : Word) : (h.sput r x).lines = h.lines := by unfold Hart.sput; split <;> rfl
@[simp] theorem Hart.sput_spill (h : Hart) (r : SReg) (x : Word) : (h.sput r x).spill = h.spill := by unfold Hart.sput; split <;> rfl
@[simp] theorem Hart.sput_task (h : Hart) (r : SReg) (x : Word) : (h.sput r x).task = h.task := by unfold Hart.sput; split <;> rfl
@[simp] theorem Hart.sput_wound (h : Hart) (r : SReg) (x : Word) : (h.sput r x).wound = h.wound := by unfold Hart.sput; split <;> rfl
@[simp] theorem Hart.sput_preempt (h : Hart) (r : SReg) (x : Word) : (h.sput r x).preempt = h.preempt := by unfold Hart.sput; split <;> rfl
@[simp] theorem Hart.sput_overrun (h : Hart) (r : SReg) (x : Word) : (h.sput r x).overrun = h.overrun := by unfold Hart.sput; split <;> rfl
@[simp] theorem Hart.sput_clock (h : Hart) (r : SReg) (x : Word) : (h.sput r x).clock = h.clock := by unfold Hart.sput; split <;> rfl
@[simp] theorem Hart.sput_seen (h : Hart) (r : SReg) (x : Word) : (h.sput r x).seen = h.seen := by unfold Hart.sput; split <;> rfl
@[simp] theorem Hart.sput_seenV (h : Hart) (r : SReg) (x : Word) : (h.sput r x).seenV = h.seenV := by unfold Hart.sput; split <;> rfl
@[simp] theorem Hart.sput_saveArea (h : Hart) (r : SReg) (x : Word) : (h.sput r x).saveArea = h.saveArea := by unfold Hart.sput; split <;> rfl
@[simp] theorem Hart.sput_image (h : Hart) (r : SReg) (x : Word) : (h.sput r x).image = h.image := by unfold Hart.sput; split <;> rfl
@[simp] theorem Hart.sput_missed (h : Hart) (r : SReg) (x : Word) : (h.sput r x).missed = h.missed := by unfold Hart.sput; split <;> rfl
@[simp] theorem Hart.sput_faultSeq (h : Hart) (r : SReg) (x : Word) : (h.sput r x).faultSeq = h.faultSeq := by unfold Hart.sput; split <;> rfl
@[simp] theorem Hart.sput_bad (h : Hart) (r : SReg) (x : Word) : (h.sput r x).bad = h.bad := by unfold Hart.sput; split <;> rfl

@[simp] theorem Hart.mput_run (h : Hart) (r : MReg) (x : MWord) : (h.mput r x).run = h.run := by unfold Hart.mput; split <;> rfl
@[simp] theorem Hart.mput_member (h : Hart) (r : MReg) (x : MWord) : (h.mput r x).member = h.member := by unfold Hart.mput; split <;> rfl
@[simp] theorem Hart.mput_s (h : Hart) (r : MReg) (x : MWord) : (h.mput r x).s = h.s := by unfold Hart.mput; split <;> rfl
@[simp] theorem Hart.mput_pc (h : Hart) (r : MReg) (x : MWord) : (h.mput r x).pc = h.pc := by unfold Hart.mput; split <;> rfl
@[simp] theorem Hart.mput_v (h : Hart) (r : MReg) (x : MWord) : (h.mput r x).v = h.v := by unfold Hart.mput; split <;> rfl
@[simp] theorem Hart.mput_p (h : Hart) (r : MReg) (x : MWord) : (h.mput r x).p = h.p := by unfold Hart.mput; split <;> rfl
@[simp] theorem Hart.mput_d (h : Hart) (r : MReg) (x : MWord) : (h.mput r x).d = h.d := by unfold Hart.mput; split <;> rfl
@[simp] theorem Hart.mput_z (h : Hart) (r : MReg) (x : MWord) : (h.mput r x).z = h.z := by unfold Hart.mput; split <;> rfl
@[simp] theorem Hart.mput_w (h : Hart) (r : MReg) (x : MWord) : (h.mput r x).w = h.w := by unfold Hart.mput; split <;> rfl
@[simp] theorem Hart.mput_wclk (h : Hart) (r : MReg) (x : MWord) : (h.mput r x).wclk = h.wclk := by unfold Hart.mput; split <;> rfl
@[simp] theorem Hart.mput_marks (h : Hart) (r : MReg) (x : MWord) : (h.mput r x).marks = h.marks := by unfold Hart.mput; split <;> rfl
@[simp] theorem Hart.mput_inFlight (h : Hart) (r : MReg) (x : MWord) : (h.mput r x).inFlight = h.inFlight := by unfold Hart.mput; split <;> rfl
@[simp] theorem Hart.mput_fmode (h : Hart) (r : MReg) (x : MWord) : (h.mput r x).fmode = h.fmode := by unfold Hart.mput; split <;> rfl
@[simp] theorem Hart.mput_vcfg (h : Hart) (r : MReg) (x : MWord) : (h.mput r x).vcfg = h.vcfg := by unfold Hart.mput; split <;> rfl
@[simp] theorem Hart.mput_vlgrant (h : Hart) (r : MReg) (x : MWord) : (h.mput r x).vlgrant = h.vlgrant := by unfold Hart.mput; split <;> rfl
@[simp] theorem Hart.mput_velem (h : Hart) (r : MReg) (x : MWord) : (h.mput r x).velem = h.velem := by unfold Hart.mput; split <;> rfl
@[simp] theorem Hart.mput_seniority (h : Hart) (r : MReg) (x : MWord) : (h.mput r x).seniority = h.seniority := by unfold Hart.mput; split <;> rfl
@[simp] theorem Hart.mput_grpcoord (h : Hart) (r : MReg) (x : MWord) : (h.mput r x).grpcoord = h.grpcoord := by unfold Hart.mput; split <;> rfl
@[simp] theorem Hart.mput_asid (h : Hart) (r : MReg) (x : MWord) : (h.mput r x).asid = h.asid := by unfold Hart.mput; split <;> rfl
@[simp] theorem Hart.mput_lcause (h : Hart) (r : MReg) (x : MWord) : (h.mput r x).lcause = h.lcause := by unfold Hart.mput; split <;> rfl
@[simp] theorem Hart.mput_lepc (h : Hart) (r : MReg) (x : MWord) : (h.mput r x).lepc = h.lepc := by unfold Hart.mput; split <;> rfl
@[simp] theorem Hart.mput_lvelem (h : Hart) (r : MReg) (x : MWord) : (h.mput r x).lvelem = h.lvelem := by unfold Hart.mput; split <;> rfl
@[simp] theorem Hart.mput_laddr (h : Hart) (r : MReg) (x : MWord) : (h.mput r x).laddr = h.laddr := by unfold Hart.mput; split <;> rfl
@[simp] theorem Hart.mput_system (h : Hart) (r : MReg) (x : MWord) : (h.mput r x).system = h.system := by unfold Hart.mput; split <;> rfl
@[simp] theorem Hart.mput_ltvec (h : Hart) (r : MReg) (x : MWord) : (h.mput r x).ltvec = h.ltvec := by unfold Hart.mput; split <;> rfl
@[simp] theorem Hart.mput_lhold (h : Hart) (r : MReg) (x : MWord) : (h.mput r x).lhold = h.lhold := by unfold Hart.mput; split <;> rfl
@[simp] theorem Hart.mput_satchel (h : Hart) (r : MReg) (x : MWord) : (h.mput r x).satchel = h.satchel := by unfold Hart.mput; split <;> rfl
@[simp] theorem Hart.mput_slates (h : Hart) (r : MReg) (x : MWord) : (h.mput r x).slates = h.slates := by unfold Hart.mput; split <;> rfl
@[simp] theorem Hart.mput_arrival (h : Hart) (r : MReg) (x : MWord) : (h.mput r x).arrival = h.arrival := by unfold Hart.mput; split <;> rfl
@[simp] theorem Hart.mput_blk (h : Hart) (r : MReg) (x : MWord) : (h.mput r x).blk = h.blk := by unfold Hart.mput; split <;> rfl
@[simp] theorem Hart.mput_vq (h : Hart) (r : MReg) (x : MWord) : (h.mput r x).vq = h.vq := by unfold Hart.mput; split <;> rfl
@[simp] theorem Hart.mput_vrs (h : Hart) (r : MReg) (x : MWord) : (h.mput r x).vrs = h.vrs := by unfold Hart.mput; split <;> rfl
@[simp] theorem Hart.mput_wait (h : Hart) (r : MReg) (x : MWord) : (h.mput r x).wait = h.wait := by unfold Hart.mput; split <;> rfl
@[simp] theorem Hart.mput_lines (h : Hart) (r : MReg) (x : MWord) : (h.mput r x).lines = h.lines := by unfold Hart.mput; split <;> rfl
@[simp] theorem Hart.mput_spill (h : Hart) (r : MReg) (x : MWord) : (h.mput r x).spill = h.spill := by unfold Hart.mput; split <;> rfl
@[simp] theorem Hart.mput_task (h : Hart) (r : MReg) (x : MWord) : (h.mput r x).task = h.task := by unfold Hart.mput; split <;> rfl
@[simp] theorem Hart.mput_wound (h : Hart) (r : MReg) (x : MWord) : (h.mput r x).wound = h.wound := by unfold Hart.mput; split <;> rfl
@[simp] theorem Hart.mput_preempt (h : Hart) (r : MReg) (x : MWord) : (h.mput r x).preempt = h.preempt := by unfold Hart.mput; split <;> rfl
@[simp] theorem Hart.mput_overrun (h : Hart) (r : MReg) (x : MWord) : (h.mput r x).overrun = h.overrun := by unfold Hart.mput; split <;> rfl
@[simp] theorem Hart.mput_clock (h : Hart) (r : MReg) (x : MWord) : (h.mput r x).clock = h.clock := by unfold Hart.mput; split <;> rfl
@[simp] theorem Hart.mput_seen (h : Hart) (r : MReg) (x : MWord) : (h.mput r x).seen = h.seen := by unfold Hart.mput; split <;> rfl
@[simp] theorem Hart.mput_seenV (h : Hart) (r : MReg) (x : MWord) : (h.mput r x).seenV = h.seenV := by unfold Hart.mput; split <;> rfl
@[simp] theorem Hart.mput_saveArea (h : Hart) (r : MReg) (x : MWord) : (h.mput r x).saveArea = h.saveArea := by unfold Hart.mput; split <;> rfl
@[simp] theorem Hart.mput_image (h : Hart) (r : MReg) (x : MWord) : (h.mput r x).image = h.image := by unfold Hart.mput; split <;> rfl
@[simp] theorem Hart.mput_missed (h : Hart) (r : MReg) (x : MWord) : (h.mput r x).missed = h.missed := by unfold Hart.mput; split <;> rfl
@[simp] theorem Hart.mput_faultSeq (h : Hart) (r : MReg) (x : MWord) : (h.mput r x).faultSeq = h.faultSeq := by unfold Hart.mput; split <;> rfl
@[simp] theorem Hart.mput_bad (h : Hart) (r : MReg) (x : MWord) : (h.mput r x).bad = h.bad := by unfold Hart.mput; split <;> rfl

@[simp] theorem Hart.endBlock_run (h : Hart) : (h.endBlock).run = h.run := by unfold Hart.endBlock; split <;> rfl
@[simp] theorem Hart.endBlock_member (h : Hart) : (h.endBlock).member = h.member := by unfold Hart.endBlock; split <;> rfl
@[simp] theorem Hart.endBlock_s (h : Hart) : (h.endBlock).s = h.s := by unfold Hart.endBlock; split <;> rfl
@[simp] theorem Hart.endBlock_pc (h : Hart) : (h.endBlock).pc = h.pc := by unfold Hart.endBlock; split <;> rfl
@[simp] theorem Hart.endBlock_v (h : Hart) : (h.endBlock).v = h.v := by unfold Hart.endBlock; split <;> rfl
@[simp] theorem Hart.endBlock_m (h : Hart) : (h.endBlock).m = h.m := by unfold Hart.endBlock; split <;> rfl
@[simp] theorem Hart.endBlock_p (h : Hart) : (h.endBlock).p = h.p := by unfold Hart.endBlock; split <;> rfl
@[simp] theorem Hart.endBlock_d (h : Hart) : (h.endBlock).d = h.d := by unfold Hart.endBlock; split <;> rfl
@[simp] theorem Hart.endBlock_z (h : Hart) : (h.endBlock).z = h.z := by unfold Hart.endBlock; split <;> rfl
@[simp] theorem Hart.endBlock_w (h : Hart) : (h.endBlock).w = h.w := by unfold Hart.endBlock; split <;> rfl
@[simp] theorem Hart.endBlock_wclk (h : Hart) : (h.endBlock).wclk = h.wclk := by unfold Hart.endBlock; split <;> rfl
@[simp] theorem Hart.endBlock_marks (h : Hart) : (h.endBlock).marks = h.marks := by unfold Hart.endBlock; split <;> rfl
@[simp] theorem Hart.endBlock_inFlight (h : Hart) : (h.endBlock).inFlight = h.inFlight := by unfold Hart.endBlock; split <;> rfl
@[simp] theorem Hart.endBlock_fmode (h : Hart) : (h.endBlock).fmode = h.fmode := by unfold Hart.endBlock; split <;> rfl
@[simp] theorem Hart.endBlock_vcfg (h : Hart) : (h.endBlock).vcfg = h.vcfg := by unfold Hart.endBlock; split <;> rfl
@[simp] theorem Hart.endBlock_vlgrant (h : Hart) : (h.endBlock).vlgrant = h.vlgrant := by unfold Hart.endBlock; split <;> rfl
@[simp] theorem Hart.endBlock_velem (h : Hart) : (h.endBlock).velem = h.velem := by unfold Hart.endBlock; split <;> rfl
@[simp] theorem Hart.endBlock_seniority (h : Hart) : (h.endBlock).seniority = h.seniority := by unfold Hart.endBlock; split <;> rfl
@[simp] theorem Hart.endBlock_grpcoord (h : Hart) : (h.endBlock).grpcoord = h.grpcoord := by unfold Hart.endBlock; split <;> rfl
@[simp] theorem Hart.endBlock_asid (h : Hart) : (h.endBlock).asid = h.asid := by unfold Hart.endBlock; split <;> rfl
@[simp] theorem Hart.endBlock_lcause (h : Hart) : (h.endBlock).lcause = h.lcause := by unfold Hart.endBlock; split <;> rfl
@[simp] theorem Hart.endBlock_lepc (h : Hart) : (h.endBlock).lepc = h.lepc := by unfold Hart.endBlock; split <;> rfl
@[simp] theorem Hart.endBlock_lvelem (h : Hart) : (h.endBlock).lvelem = h.lvelem := by unfold Hart.endBlock; split <;> rfl
@[simp] theorem Hart.endBlock_laddr (h : Hart) : (h.endBlock).laddr = h.laddr := by unfold Hart.endBlock; split <;> rfl
@[simp] theorem Hart.endBlock_system (h : Hart) : (h.endBlock).system = h.system := by unfold Hart.endBlock; split <;> rfl
@[simp] theorem Hart.endBlock_ltvec (h : Hart) : (h.endBlock).ltvec = h.ltvec := by unfold Hart.endBlock; split <;> rfl
@[simp] theorem Hart.endBlock_lhold (h : Hart) : (h.endBlock).lhold = h.lhold := by unfold Hart.endBlock; split <;> rfl
@[simp] theorem Hart.endBlock_satchel (h : Hart) : (h.endBlock).satchel = h.satchel := by unfold Hart.endBlock; split <;> rfl
@[simp] theorem Hart.endBlock_slates (h : Hart) : (h.endBlock).slates = h.slates := by unfold Hart.endBlock; split <;> rfl
@[simp] theorem Hart.endBlock_arrival (h : Hart) : (h.endBlock).arrival = h.arrival := by unfold Hart.endBlock; split <;> rfl
@[simp] theorem Hart.endBlock_vrs (h : Hart) : (h.endBlock).vrs = h.vrs := by unfold Hart.endBlock; split <;> rfl
@[simp] theorem Hart.endBlock_wait (h : Hart) : (h.endBlock).wait = h.wait := by unfold Hart.endBlock; split <;> rfl
@[simp] theorem Hart.endBlock_lines (h : Hart) : (h.endBlock).lines = h.lines := by unfold Hart.endBlock; split <;> rfl
@[simp] theorem Hart.endBlock_spill (h : Hart) : (h.endBlock).spill = h.spill := by unfold Hart.endBlock; split <;> rfl
@[simp] theorem Hart.endBlock_task (h : Hart) : (h.endBlock).task = h.task := by unfold Hart.endBlock; split <;> rfl
@[simp] theorem Hart.endBlock_wound (h : Hart) : (h.endBlock).wound = h.wound := by unfold Hart.endBlock; split <;> rfl
@[simp] theorem Hart.endBlock_preempt (h : Hart) : (h.endBlock).preempt = h.preempt := by unfold Hart.endBlock; split <;> rfl
@[simp] theorem Hart.endBlock_overrun (h : Hart) : (h.endBlock).overrun = h.overrun := by unfold Hart.endBlock; split <;> rfl
@[simp] theorem Hart.endBlock_clock (h : Hart) : (h.endBlock).clock = h.clock := by unfold Hart.endBlock; split <;> rfl
@[simp] theorem Hart.endBlock_seen (h : Hart) : (h.endBlock).seen = h.seen := by unfold Hart.endBlock; split <;> rfl
@[simp] theorem Hart.endBlock_seenV (h : Hart) : (h.endBlock).seenV = h.seenV := by unfold Hart.endBlock; split <;> rfl
@[simp] theorem Hart.endBlock_saveArea (h : Hart) : (h.endBlock).saveArea = h.saveArea := by unfold Hart.endBlock; split <;> rfl
@[simp] theorem Hart.endBlock_image (h : Hart) : (h.endBlock).image = h.image := by unfold Hart.endBlock; split <;> rfl
@[simp] theorem Hart.endBlock_missed (h : Hart) : (h.endBlock).missed = h.missed := by unfold Hart.endBlock; split <;> rfl
@[simp] theorem Hart.endBlock_faultSeq (h : Hart) : (h.endBlock).faultSeq = h.faultSeq := by unfold Hart.endBlock; split <;> rfl
@[simp] theorem Hart.endBlock_bad (h : Hart) : (h.endBlock).bad = h.bad := by unfold Hart.endBlock; split <;> rfl

@[simp] theorem Hart.vnext_run (h : Hart) : (h.vnext).run = h.run := by unfold Hart.vnext; split <;> (try split) <;> simp
@[simp] theorem Hart.vnext_member (h : Hart) : (h.vnext).member = h.member := by unfold Hart.vnext; split <;> (try split) <;> simp
@[simp] theorem Hart.vnext_s (h : Hart) : (h.vnext).s = h.s := by unfold Hart.vnext; split <;> (try split) <;> simp
@[simp] theorem Hart.vnext_v (h : Hart) : (h.vnext).v = h.v := by unfold Hart.vnext; split <;> (try split) <;> simp
@[simp] theorem Hart.vnext_m (h : Hart) : (h.vnext).m = h.m := by unfold Hart.vnext; split <;> (try split) <;> simp
@[simp] theorem Hart.vnext_p (h : Hart) : (h.vnext).p = h.p := by unfold Hart.vnext; split <;> (try split) <;> simp
@[simp] theorem Hart.vnext_d (h : Hart) : (h.vnext).d = h.d := by unfold Hart.vnext; split <;> (try split) <;> simp
@[simp] theorem Hart.vnext_z (h : Hart) : (h.vnext).z = h.z := by unfold Hart.vnext; split <;> (try split) <;> simp
@[simp] theorem Hart.vnext_w (h : Hart) : (h.vnext).w = h.w := by unfold Hart.vnext; split <;> (try split) <;> simp
@[simp] theorem Hart.vnext_wclk (h : Hart) : (h.vnext).wclk = h.wclk := by unfold Hart.vnext; split <;> (try split) <;> simp
@[simp] theorem Hart.vnext_marks (h : Hart) : (h.vnext).marks = h.marks := by unfold Hart.vnext; split <;> (try split) <;> simp
@[simp] theorem Hart.vnext_inFlight (h : Hart) : (h.vnext).inFlight = h.inFlight := by unfold Hart.vnext; split <;> (try split) <;> simp
@[simp] theorem Hart.vnext_fmode (h : Hart) : (h.vnext).fmode = h.fmode := by unfold Hart.vnext; split <;> (try split) <;> simp
@[simp] theorem Hart.vnext_vcfg (h : Hart) : (h.vnext).vcfg = h.vcfg := by unfold Hart.vnext; split <;> (try split) <;> simp
@[simp] theorem Hart.vnext_vlgrant (h : Hart) : (h.vnext).vlgrant = h.vlgrant := by unfold Hart.vnext; split <;> (try split) <;> simp
@[simp] theorem Hart.vnext_seniority (h : Hart) : (h.vnext).seniority = h.seniority := by unfold Hart.vnext; split <;> (try split) <;> simp
@[simp] theorem Hart.vnext_grpcoord (h : Hart) : (h.vnext).grpcoord = h.grpcoord := by unfold Hart.vnext; split <;> (try split) <;> simp
@[simp] theorem Hart.vnext_asid (h : Hart) : (h.vnext).asid = h.asid := by unfold Hart.vnext; split <;> (try split) <;> simp
@[simp] theorem Hart.vnext_lcause (h : Hart) : (h.vnext).lcause = h.lcause := by unfold Hart.vnext; split <;> (try split) <;> simp
@[simp] theorem Hart.vnext_lepc (h : Hart) : (h.vnext).lepc = h.lepc := by unfold Hart.vnext; split <;> (try split) <;> simp
@[simp] theorem Hart.vnext_lvelem (h : Hart) : (h.vnext).lvelem = h.lvelem := by unfold Hart.vnext; split <;> (try split) <;> simp
@[simp] theorem Hart.vnext_laddr (h : Hart) : (h.vnext).laddr = h.laddr := by unfold Hart.vnext; split <;> (try split) <;> simp
@[simp] theorem Hart.vnext_system (h : Hart) : (h.vnext).system = h.system := by unfold Hart.vnext; split <;> (try split) <;> simp
@[simp] theorem Hart.vnext_ltvec (h : Hart) : (h.vnext).ltvec = h.ltvec := by unfold Hart.vnext; split <;> (try split) <;> simp
@[simp] theorem Hart.vnext_lhold (h : Hart) : (h.vnext).lhold = h.lhold := by unfold Hart.vnext; split <;> (try split) <;> simp
@[simp] theorem Hart.vnext_satchel (h : Hart) : (h.vnext).satchel = h.satchel := by unfold Hart.vnext; split <;> (try split) <;> simp
@[simp] theorem Hart.vnext_slates (h : Hart) : (h.vnext).slates = h.slates := by unfold Hart.vnext; split <;> (try split) <;> simp
@[simp] theorem Hart.vnext_arrival (h : Hart) : (h.vnext).arrival = h.arrival := by unfold Hart.vnext; split <;> (try split) <;> simp
@[simp] theorem Hart.vnext_vrs (h : Hart) : (h.vnext).vrs = h.vrs := by unfold Hart.vnext; split <;> (try split) <;> simp
@[simp] theorem Hart.vnext_wait (h : Hart) : (h.vnext).wait = h.wait := by unfold Hart.vnext; split <;> (try split) <;> simp
@[simp] theorem Hart.vnext_lines (h : Hart) : (h.vnext).lines = h.lines := by unfold Hart.vnext; split <;> (try split) <;> simp
@[simp] theorem Hart.vnext_spill (h : Hart) : (h.vnext).spill = h.spill := by unfold Hart.vnext; split <;> (try split) <;> simp
@[simp] theorem Hart.vnext_task (h : Hart) : (h.vnext).task = h.task := by unfold Hart.vnext; split <;> (try split) <;> simp
@[simp] theorem Hart.vnext_wound (h : Hart) : (h.vnext).wound = h.wound := by unfold Hart.vnext; split <;> (try split) <;> simp
@[simp] theorem Hart.vnext_preempt (h : Hart) : (h.vnext).preempt = h.preempt := by unfold Hart.vnext; split <;> (try split) <;> simp
@[simp] theorem Hart.vnext_overrun (h : Hart) : (h.vnext).overrun = h.overrun := by unfold Hart.vnext; split <;> (try split) <;> simp
@[simp] theorem Hart.vnext_clock (h : Hart) : (h.vnext).clock = h.clock := by unfold Hart.vnext; split <;> (try split) <;> simp
@[simp] theorem Hart.vnext_seen (h : Hart) : (h.vnext).seen = h.seen := by unfold Hart.vnext; split <;> (try split) <;> simp
@[simp] theorem Hart.vnext_seenV (h : Hart) : (h.vnext).seenV = h.seenV := by unfold Hart.vnext; split <;> (try split) <;> simp
@[simp] theorem Hart.vnext_saveArea (h : Hart) : (h.vnext).saveArea = h.saveArea := by unfold Hart.vnext; split <;> (try split) <;> simp
@[simp] theorem Hart.vnext_image (h : Hart) : (h.vnext).image = h.image := by unfold Hart.vnext; split <;> (try split) <;> simp
@[simp] theorem Hart.vnext_missed (h : Hart) : (h.vnext).missed = h.missed := by unfold Hart.vnext; split <;> (try split) <;> simp
@[simp] theorem Hart.vnext_faultSeq (h : Hart) : (h.vnext).faultSeq = h.faultSeq := by unfold Hart.vnext; split <;> (try split) <;> simp
@[simp] theorem Hart.vnext_bad (h : Hart) : (h.vnext).bad = h.bad := by unfold Hart.vnext; split <;> (try split) <;> simp

end Sys2Proof.Machine
end

