-- ==== Sys2Proof/Laws/Memory.lean ====
section
/-! SUPPORT. Tables and memory as data: reading what was put, and the canonical form. -/

namespace Sys2Proof

/-! ## Tables -/

@[simp] theorem Tbl.get_put_self {α : Type} (t : Tbl α) (d : α) (k : Nat) (a : α) : Tbl.get (Tbl.put t k a) d k = a := by
  induction t with
  | nil => simp [Tbl.put, Tbl.get]
  | cons e r ih =>
    obtain ⟨j, b⟩ := e
    simp only [Tbl.put]
    split
    · simp [Tbl.get]
    · split
      · simp [Tbl.get]
      · rename_i h1 h2
        simp [Tbl.get, Ne.symm h2, ih]

theorem Tbl.get_put_ne {α : Type} (t : Tbl α) (d : α) (k j : Nat) (a : α) (h : j ≠ k) : Tbl.get (Tbl.put t k a) d j = Tbl.get t d j := by
  induction t with
  | nil => simp [Tbl.put, Tbl.get, Ne.symm h]
  | cons e r ih =>
    obtain ⟨i, b⟩ := e
    simp only [Tbl.put]
    split
    · simp [Tbl.get, Ne.symm h]
    · split
      · rename_i h1 h2
        subst h2
        simp [Tbl.get, Ne.symm h]
      · simp only [Tbl.get, ih]

theorem Tbl.get_put {α : Type} (t : Tbl α) (d : α) (k j : Nat) (a : α) :
    Tbl.get (Tbl.put t k a) d j = if j = k then a else Tbl.get t d j := by
  by_cases h : j = k
  · subst h; simp
  · simp [h, Tbl.get_put_ne]

@[simp] theorem Tbl.find_put_self {α : Type} (t : Tbl α) (k : Nat) (a : α) : Tbl.find (Tbl.put t k a) k = some a := by
  induction t with
  | nil => simp [Tbl.put, Tbl.find]
  | cons e r ih =>
    obtain ⟨j, b⟩ := e
    simp only [Tbl.put]
    split
    · simp [Tbl.find]
    · split
      · simp [Tbl.find]
      · rename_i h1 h2
        simp [Tbl.find, Ne.symm h2, ih]

theorem Tbl.find_put_ne {α : Type} (t : Tbl α) (k j : Nat) (a : α) (h : j ≠ k) : Tbl.find (Tbl.put t k a) j = Tbl.find t j := by
  induction t with
  | nil => simp [Tbl.put, Tbl.find, Ne.symm h]
  | cons e r ih =>
    obtain ⟨i, b⟩ := e
    simp only [Tbl.put]
    split
    · simp [Tbl.find, Ne.symm h]
    · split
      · rename_i h1 h2
        subst h2
        simp [Tbl.find, Ne.symm h]
      · simp only [Tbl.find, ih]

@[simp] theorem Tbl.put_put {α : Type} (t : Tbl α) (k : Nat) (a b : α) : Tbl.put (Tbl.put t k a) k b = Tbl.put t k b := by
  induction t with
  | nil => simp [Tbl.put]
  | cons e r ih =>
    obtain ⟨j, c⟩ := e
    by_cases h1 : k < j
    · simp [Tbl.put, h1]
    · by_cases h2 : k = j
      · simp [Tbl.put, h2]
      · simp [Tbl.put, h1, h2, ih]

theorem Tbl.mem_put {α : Type} (t : Tbl α) (k : Nat) (a : α) (e : Nat × α) (h : e ∈ Tbl.put t k a) : e = (k, a) ∨ e ∈ t := by
  induction t with
  | nil => simpa [Tbl.put] using h
  | cons x r ih =>
    obtain ⟨j, b⟩ := x
    simp only [Tbl.put] at h
    split at h
    · simpa using h
    · split at h
      · simp only [List.mem_cons] at h ⊢; tauto
      · simp only [List.mem_cons] at h ⊢
        rcases h with h | h
        · exact .inr (.inl h)
        · rcases ih h with h | h <;> tauto

/-- A property that holds of the default and of every entry holds of what is read. -/
theorem Tbl.get_of_all {α : Type} (t : Tbl α) (d : α) (k : Nat) (p : α → Prop) (hd : p d) (ht : ∀ e ∈ t, p e.2) : p (Tbl.get t d k) := by
  induction t with
  | nil => simpa [Tbl.get] using hd
  | cons e r ih =>
    obtain ⟨j, b⟩ := e
    simp only [Tbl.get]
    split
    · exact ht (j, b) (by simp)
    · exact ih fun e he => ht e (by simp [he])

theorem Tbl.find_mem {α : Type} (t : Tbl α) (k : Nat) (a : α) (h : Tbl.find t k = some a) : (k, a) ∈ t := by
  induction t with
  | nil => simp [Tbl.find] at h
  | cons e r ih =>
    obtain ⟨j, b⟩ := e
    simp only [Tbl.find] at h
    split at h
    · rename_i hj; simp at h; subst hj h; simp
    · simp [ih h]

end Sys2Proof

namespace Sys2Proof.Machine

/-! ## Memory -/

theorem Memory.wfFrom_put (m : Memory) (lo : Option Nat) (a : Nat) (b : Byte) (h : Memory.wfFrom lo m = true)
    (hlo : ∀ l, lo = some l → l < a) : Memory.wfFrom lo (Memory.put m a b) = true := by
  induction m generalizing lo with
  | nil =>
    simp only [Memory.put]
    split
    · rfl
    · rename_i hb
      cases lo with
      | none => simp [Memory.wfFrom, hb]
      | some l => simp [Memory.wfFrom, hb, hlo l rfl]
  | cons e r ih =>
    obtain ⟨j, c⟩ := e
    simp only [Memory.wfFrom, Bool.and_eq_true] at h
    obtain ⟨⟨h1, h2⟩, h3⟩ := h
    simp only [Memory.put]
    split
    · rename_i haj
      split
      · simp [Memory.wfFrom, h1, h2, h3]
      · rename_i hb
        cases lo with
        | none => simp [Memory.wfFrom, hb, haj, h2, h3]
        | some l => simp [Memory.wfFrom, hb, haj, h2, h3, hlo l rfl]
    · split
      · rename_i hn haj
        subst haj
        split
        · cases lo with
          | none =>
            cases r with
            | nil => rfl
            | cons x y => simp only [Memory.wfFrom, Bool.and_eq_true] at h3 ⊢; exact ⟨⟨trivial, h3.1.2⟩, h3.2⟩
          | some l =>
            cases r with
            | nil => rfl
            | cons x y =>
              simp only [Memory.wfFrom, Bool.and_eq_true, decide_eq_true_eq] at h1 h3 ⊢
              exact ⟨⟨by omega, h3.1.2⟩, h3.2⟩
        · rename_i hb
          simp [Memory.wfFrom, h1, hb, h3]
      · rename_i hn hne
        simp only [Memory.wfFrom, Bool.and_eq_true]
        exact ⟨⟨h1, h2⟩, ih (some j) h3 (by intro l hl; cases hl; omega)⟩

/-- A write keeps the canonical form. -/
theorem Memory.wf_put (m : Memory) (a : Nat) (b : Byte) (h : m.wf = true) : (Memory.put m a b).wf = true :=
  Memory.wfFrom_put m none a b h (by simp)

theorem Memory.wf_putAll (cs : List Host.Cell) (m : Memory) (h : m.wf = true) : (Memory.putAll m cs).wf = true := by
  unfold Memory.putAll
  induction cs generalizing m with
  | nil => exact h
  | cons c r ih => exact ih _ (Memory.wf_put m c.1 c.2 h)

theorem Memory.wfFrom_get_below (m : Memory) (lo : Nat) (a : Nat) (h : Memory.wfFrom (some lo) m = true) (ha : a ≤ lo) :
    Memory.get m a = Config.unwritten := by
  induction m generalizing lo with
  | nil => rfl
  | cons e r ih =>
    obtain ⟨j, c⟩ := e
    simp only [Memory.wfFrom, Bool.and_eq_true, decide_eq_true_eq] at h
    simp only [Memory.get]
    rw [if_neg (by omega)]
    exact ih j h.2 (by omega)

theorem Memory.get_putFrom (m : Memory) (lo : Option Nat) (a x : Nat) (b : Byte) (h : Memory.wfFrom lo m = true) :
    Memory.get (Memory.put m a b) x = if x = a then b else Memory.get m x := by
  induction m generalizing lo with
  | nil =>
    simp only [Memory.put]
    split
    · rename_i hb; simp [Memory.get, hb]
    · simp only [Memory.get, eq_comm]
  | cons e r ih =>
    obtain ⟨j, c⟩ := e
    simp only [Memory.wfFrom, Bool.and_eq_true] at h
    obtain ⟨⟨h1, h2⟩, h3⟩ := h
    simp only [Memory.put]
    split
    · rename_i haj
      split
      · rename_i hb
        split
        · rename_i hx
          subst hx
          simp only [Memory.get]
          rw [if_neg (by omega), hb]
          exact Memory.wfFrom_get_below r j x h3 (by omega)
        · rfl
      · simp only [Memory.get, eq_comm]
    · split
      · rename_i hn haj
        subst haj
        split
        · rename_i hb
          split
          · rename_i hx
            subst hx
            rw [hb]
            exact Memory.wfFrom_get_below r x x h3 (by omega)
          · rename_i hx
            simp only [Memory.get]
            rw [if_neg (by omega)]
        · simp only [Memory.get]
          by_cases hx : x = a
          · simp [hx]
          · simp [hx, Ne.symm hx]
      · rename_i hn hne
        simp only [Memory.get]
        by_cases hj : j = x
        · subst hj
          simp [Ne.symm hne]
        · simp only [hj, if_false]
          exact ih (some j) h3

/-- Read after write. -/
theorem Memory.get_put (m : Memory) (a x : Nat) (b : Byte) (h : m.wf = true) :
    Memory.get (Memory.put m a b) x = if x = a then b else Memory.get m x := Memory.get_putFrom m none a x b h

/-! ## The executing hart -/

@[simp] theorem State.me_setMe (s : State) (h : Hart) : (s.setMe h).me = h := by
  simp [State.me, State.setMe, State.setHart, State.hart]

@[simp] theorem State.setMe_setMe (s : State) (h g : Hart) : (s.setMe h).setMe g = s.setMe g := by
  simp [State.setMe, State.setHart]

theorem State.hart_setHart (s : State) (k j : Nat) (h : Hart) : (s.setHart k h).hart j = if j = k then h else s.hart j := by
  simp [State.setHart, State.hart, Tbl.get_put]

theorem State.hart_setMe (s : State) (j : Nat) (h : Hart) : (s.setMe h).hart j = if j = s.cur then h else s.hart j :=
  State.hart_setHart s s.cur j h

@[simp] theorem State.viewByte_setMe (s : State) (h : Hart) (r : Nat) (p : Path) (a : Nat) :
    (s.setMe h).viewByte r p a = s.viewByte r p a := rfl

end Sys2Proof.Machine
end

