-- ==== Sys2Proof/Laws/Ops.lean ====
section
/-! SUPPORT. What the shared operations of the registers, of moving on and of traps do, said once each. -/

namespace Sys2Proof.Machine

/-! ## Registers -/

/-- Reading a register file after a write. -/
theorem getD_set {α : Type} {n : Nat} (v : Vector α n) (i j : Nat) (x d : α) (hj : j < n) :
    (v.setIfInBounds i x).getD j d = if j = i then x else v.getD j d := by
  have h : (v.setIfInBounds i x).getD j d = (v.setIfInBounds i x)[j] := by
    unfold Vector.getD Array.getD; rw [dif_pos (by simpa using hj)]; rfl
  rw [h, Vector.getElem_setIfInBounds]
  by_cases hi : i = j
  · simp [hi]
  · rw [if_neg hi, if_neg (Ne.symm hi)]; simp [Vector.getD, hj]

/-- Reading a scalar register after a write: S0 reads 0 and takes no write (R83). -/
theorem Hart.sget_sput (h : Hart) (d r : SReg) (x : Word) : (h.sput d x).sget r = if r = d ∧ r ≠ 0 then x else h.sget r := by
  by_cases hr : r = 0
  · simp [Hart.sget, hr]
  · by_cases hd : d = 0
    · have : r ≠ d := fun e => hr (e.trans hd)
      rw [Hart.sput, if_pos hd, if_neg (by simp [this])]
    · rw [Hart.sput, if_neg hd, Hart.sget, Hart.sget, if_neg hr, if_neg hr]
      have hne : r.toNat = d.toNat ↔ r = d := BitVec.toNat_inj
      rw [getD_set _ _ _ _ _ r.isLt]
      by_cases hrd : r = d
      · rw [if_pos (hne.2 hrd), if_pos ⟨hrd, hr⟩]
      · rw [if_neg (fun e => hrd (hne.1 e)), if_neg (fun e => hrd e.1)]

@[simp] theorem Hart.sget_next (h : Hart) (r : SReg) : h.next.sget r = h.sget r := rfl
@[simp] theorem Hart.sget_jump (h : Hart) (t : Word) (r : SReg) : (h.jump t).sget r = h.sget r := rfl
@[simp] theorem Hart.sget_raise (h : Hart) (f : FlagSet) (r : SReg) : (h.raise f).sget r = h.sget r := rfl

@[simp] theorem Hart.next_pc (h : Hart) : h.next.pc = h.pc + 4 := rfl
@[simp] theorem Hart.next_velem (h : Hart) : h.next.velem = if h.system then h.velem else 0 := rfl
@[simp] theorem Hart.next_wait (h : Hart) : h.next.wait = none := rfl
@[simp] theorem Hart.jump_pc (h : Hart) (t : Word) : (h.jump t).pc = t := rfl
@[simp] theorem Hart.jump_velem (h : Hart) (t : Word) : (h.jump t).velem = if h.system then h.velem else 0 := rfl
@[simp] theorem Hart.jump_wait (h : Hart) (t : Word) : (h.jump t).wait = none := rfl
@[simp] theorem Hart.raise_fmode (h : Hart) (f : FlagSet) : (h.raise f).fmode = accrue h.fmode f := rfl

/-- A write of a scalar register changes the register file alone. -/
theorem Hart.sput_eq (h : Hart) (d : SReg) (x : Word) : h.sput d x = { h with s := (h.sput d x).s } := by
  unfold Hart.sput; split <;> rfl

/-- Reading a vector register after a write. -/
theorem Hart.vget_vput (h : Hart) (d r : Nat) (x : VWord) (hr : r < 32) : (h.vput d x).vget r = if r = d then x else h.vget r :=
  getD_set _ _ _ _ _ hr

/-- Reading a mask register after a write: M0 reads as all ones and takes no write (R106). -/
theorem Hart.mget_mput (h : Hart) (d r : MReg) (x : MWord) : (h.mput d x).mget r = if r = d ∧ r ≠ 0 then x else h.mget r := by
  by_cases hr : r = 0
  · simp [Hart.mget, hr]
  · by_cases hd : d = 0
    · have : r ≠ d := fun e => hr (e.trans hd)
      rw [Hart.mput, if_pos hd, if_neg (by simp [this])]
    · rw [Hart.mput, if_neg hd, Hart.mget, Hart.mget, if_neg hr, if_neg hr]
      have hne : r.toNat = d.toNat ↔ r = d := BitVec.toNat_inj
      rw [getD_set _ _ _ _ _ r.isLt]
      by_cases hrd : r = d
      · rw [if_pos (hne.2 hrd), if_pos ⟨hrd, hr⟩]
      · rw [if_neg (fun e => hrd (hne.1 e)), if_neg (fun e => hrd e.1)]

/-! ## The cycle counters (R87) -/

/-- No two cores are reset at one instant. -/
theorem coreSkew_inj (n : Nat) {c d : Nat} (hc : c < 256) (hd : d < 256) (h : Config.coreSkew n c = Config.coreSkew n d) : c = d := by
  have e : BitVec.ofNat 64 (c + 1) = BitVec.ofNat 64 (d + 1) := (Config.resetOrder n).injective (by simpa [Config.coreSkew] using h)
  have := congrArg BitVec.toNat e
  simp only [BitVec.toNat_ofNat] at this
  omega

/-- Two cores that have counted equally long since the beacon read unequal counts (R87). -/
theorem State.cycle_ne (s : State) {c d : Nat} (hc : c < 256) (hd : d < 256) (hne : c ≠ d) (hl : (s.core c).lag = (s.core d).lag) :
    s.cycle c ≠ s.cycle d := by
  intro h
  unfold State.cycle at h
  rw [hl] at h
  exact hne (coreSkew_inj _ hc hd (by simpa using h))

/-! ## Traps (R100, R373) -/

/-- A trap in task mode: the handler's slot, the point, the value, system mode; a trap in system mode freezes the hart. -/
theorem State.trapAt_task (s : State) (code : Nat) (vec : Bool) (lepc laddr : Word) (hm : s.me.system = false) :
    s.trapAt code vec lepc laddr =
      s.setMe { (if vec then s.me.stopVector else s.me).enter code vec lepc laddr with
        pc := (if vec then s.me.stopVector else s.me).ltvec + BitVec.ofNat 64 (64 * code) } := by
  unfold State.trapAt
  simp only [hm]
  rfl

theorem State.trapAt_system (s : State) (code : Nat) (vec : Bool) (lepc laddr : Word) (hm : s.me.system = true) :
    s.trapAt code vec lepc laddr = s.doubleTrap code := by
  unfold State.trapAt
  simp [hm]

end Sys2Proof.Machine
end

