-- ==== Sys2Proof/Laws/Access.lean ====
section
/-! SUPPORT. What applying writes, reading and writing bytes do, and what the host link holds up, said once each. -/

namespace Sys2Proof.Machine

/-- Folding keeps a reflexive and transitive relation that every step keeps. -/
theorem foldl_keep {α : Type} (P : State → State → Prop) (hr : ∀ s, P s s) (ht : ∀ a b c, P a b → P b c → P a c) (l : List α) (f : State → α → State) (h : ∀ s a, P s (f s a)) (s : State) : P s (l.foldl f s) := by
  induction l generalizing s with
  | nil => exact hr s
  | cons a r ih => exact ht _ _ _ (h s a) (ih _)

/-- The harts, who executes and the groups are the same. -/
def SameHarts (s t : State) : Prop := t.harts = s.harts ∧ t.cur = s.cur ∧ t.groups = s.groups
theorem SameHarts.refl (s : State) : SameHarts s s := ⟨rfl, rfl, rfl⟩
theorem SameHarts.trans {a b c : State} (h : SameHarts a b) (g : SameHarts b c) : SameHarts a c := ⟨g.1.trans h.1, g.2.1.trans h.2.1, g.2.2.trans h.2.2⟩
theorem SameHarts.me {a b : State} (h : SameHarts a b) : b.me = a.me := by simp [State.me, State.hart, h.1, h.2.1]

theorem noteBlock_SameHarts (s : State) (b : Nat) : SameHarts s (s.noteBlock b) := by
  unfold State.noteBlock
  split
  · exact SameHarts.refl s
  · split <;> exact ⟨rfl, rfl, rfl⟩

theorem noteFold_SameHarts (s : State) (l : List Nat) : SameHarts s (l.foldl (fun s b => s.noteBlock b) s) :=
  foldl_keep SameHarts SameHarts.refl (fun _ _ _ => SameHarts.trans) _ _ (fun s b => noteBlock_SameHarts s b) _

theorem apply_SameHarts (s : State) (w : Write) (r : Nat) (p : Path) : SameHarts s (s.apply w r p) := by
  unfold State.apply
  split
  · dsimp only
    split <;> split
    · exact ⟨rfl, rfl, rfl⟩
    · exact SameHarts.trans ⟨rfl, rfl, rfl⟩ (noteFold_SameHarts _ _)
    · exact ⟨rfl, rfl, rfl⟩
    · exact SameHarts.trans ⟨rfl, rfl, rfl⟩ (noteFold_SameHarts _ _)
  · exact SameHarts.refl s

theorem settleView_SameHarts (s : State) (c : Clock) (r : Nat) : SameHarts s (s.settleView c r) := by
  unfold State.settleView
  apply foldl_keep SameHarts SameHarts.refl (fun _ _ _ => SameHarts.trans)
  intro s a
  split
  · split
    · exact apply_SameHarts _ _ _ _
    · exact SameHarts.refl _
  · exact SameHarts.refl _

/-! ## Bytes (R18) -/

/-- A little-endian number is below the power of its length. -/
theorem leNat_lt (bs : List Byte) : leNat bs < 2 ^ (8 * bs.length) := by
  induction bs with
  | nil => simp [leNat]
  | cons b r ih =>
    simp only [leNat, List.length_cons]
    have := b.isLt
    have h2 : 2 ^ (8 * (r.length + 1)) = 256 * 2 ^ (8 * r.length) := by rw [show 8 * (r.length + 1) = 8 + 8 * r.length by ring, pow_add]; norm_num
    rw [h2]; omega

theorem leBytes_get (n x k : Nat) (h : k < n) : (leBytes n x)[k]? = some (BitVec.ofNat 8 (x / 2 ^ (8 * k))) := by
  induction n generalizing x k with
  | zero => omega
  | succ n ih =>
    cases k with
    | zero => simp only [leBytes, List.getElem?_cons_zero, Option.some.injEq]; apply BitVec.eq_of_toNat_eq; simp
    | succ k =>
      simp only [leBytes, List.getElem?_cons_succ]
      rw [ih _ _ (by omega), Nat.div_div_eq_div_mul, show 8 * (k + 1) = 8 + 8 * k by ring, pow_add]; rfl
theorem cellsAt_get (a : Nat) (bs : List Byte) (k : Nat) : (cellsAt a bs)[k]? = (bs[k]?).map fun b => (a + k, b) := by
  induction bs generalizing a k with
  | nil => simp [cellsAt]
  | cons b r ih =>
    cases k with
    | zero => simp [cellsAt]
    | succ k => simp only [cellsAt, List.getElem?_cons_succ, ih]; congr 1; funext x; simp; omega
theorem cellsAt_len (a : Nat) (bs : List Byte) : (cellsAt a bs).length = bs.length := by
  induction bs generalizing a with
  | nil => rfl
  | cons b r ih => simp [cellsAt, ih]
theorem leBytes_len (n x : Nat) : (leBytes n x).length = n := by
  induction n generalizing x with
  | zero => rfl
  | succ n ih => simp [leBytes, ih]
theorem find_in (a : Nat) (bs : List Byte) (k : Nat) (b : Byte) (h : bs[k]? = some b) : (cellsAt a bs).find? (fun c => c.1 == a + k) = some (a + k, b) := by
  induction bs generalizing a k with
  | nil => simp at h
  | cons c r ih =>
    cases k with
    | zero => simp at h; simp [cellsAt, h]
    | succ k =>
      simp only [List.getElem?_cons_succ] at h
      have := ih (a + 1) k h
      simp only [cellsAt, List.find?_cons]
      rw [show (a == a + (k + 1)) = false by simp]
      rw [show a + (k + 1) = a + 1 + k by ring]; exact this
theorem find_out (a : Nat) (bs : List Byte) (x : Nat) (h : x < a ∨ a + bs.length ≤ x) : (cellsAt a bs).find? (fun c => c.1 == x) = none := by
  induction bs generalizing a with
  | nil => rfl
  | cons c r ih =>
    simp only [List.length_cons] at h
    simp only [cellsAt, List.find?_cons]
    rw [show (a == x) = false by simp; omega]
    exact ih (a + 1) (by omega)

theorem State.upd_setMe (s : State) (h : Hart) (f : Hart → Hart) : (s.setMe h).upd f = s.setMe (f h) := by
  simp [State.upd]

/-! ## The host link (R7) -/

/-- With the link up no location is out of reach, and no read of the device is held. -/
@[simp] theorem State.unlinked_up (s : State) (loc : Nat) (h : s.hostLink.isSome = true) : s.unlinked loc = false := by
  cases e : s.hostLink <;> simp_all [State.unlinked]

@[simp] theorem State.deviceAway_up (s : State) (asid : Nat) (va : Word) (n : Nat) (h : s.hostLink.isSome = true) : s.deviceAway asid va n = false := by
  cases e : s.hostLink <;> simp_all [State.deviceAway]

/-- A translation that lets an access go on changes nothing, allows the access, and reaches its location over the link, which a pin does not need. -/
theorem State.useTrans_ok (s u : State) (t : Trans) (k : Kind) (va : Word) (loc : Nat) (h : s.useTrans t k va = .ok u loc) :
    u = s ∧ loc = t.loc va ∧ leafAllows t.leaf k = .inr false ∧ (k ≠ .pin → s.unlinked loc = false) := by
  unfold State.useTrans at h
  split at h
  · nomatch h
  · nomatch h
  · rename_i ha
    split at h
    · nomatch h
    · rename_i hk
      injection h with h1 h2
      subst h1 h2
      exact ⟨rfl, rfl, ha, fun e => by simpa [e] using hk⟩

/-- A task that buffers nothing waits for nothing to end. -/
theorem State.commitWaits_nil (s : State) (k : Nat) (hl : (s.hart k).lines = []) (hs : (s.hart k).spill = []) : s.commitWaits k = false := by
  simp [State.commitWaits, hl, hs]

end Sys2Proof.Machine
end

