-- ==== Sys2Proof/Laws/Claims.lean ====
section
/-! SUPPORT. How the shared operations meet the words of Safety. -/

namespace Sys2Proof.Machine

open Sys2Proof.Claim

/-- An update of the executing hart that writes one scalar register, raises flags and goes on. -/
theorem scalarDone_upd (s : State) (d : SReg) (x : Word) (fl : FlagSet) (pc : Word) (f : Hart → Hart)
    (hf : f s.me = { (s.me.sput d x) with pc := pc, velem := velemAfter s.me, fmode := s.me.fmode ||| (fl.zeroExtend 64 <<< 5), wait := none }) :
    ScalarDone (.next (s.upd f)) s d x fl pc := by
  refine ⟨s.upd f, rfl, ⟨?_, fun _ _ _ => rfl⟩, ?_, ?_, ?_⟩
  · simp [State.upd]
  · simp only [State.upd, State.me_setMe, hf]
    rw [Hart.sput_eq s.me d x]
  · intro r hr
    simp only [State.upd, State.me_setMe, hf]
    show (s.me.sput d x).sget r = _
    rw [Hart.sget_sput, if_neg]
    rintro ⟨h1, h2⟩; rcases hr with h | h
    · exact h h1
    · exact h2 h
  · simp only [State.upd, State.me_setMe, hf]
    show (s.me.sput d x).sget d = _
    rw [Hart.sget_sput]
    by_cases hd : d = 0
    · simp [hd, Hart.sget]
    · rw [if_pos ⟨rfl, hd⟩, if_neg hd]

theorem int2_done (s : State) (d a b : SReg) (f : Word → Word → Word) (v : Word) (h : f (s.me.sget a) (s.me.sget b) = v) :
    ScalarDone (.next (s.int2 d a b f)) s d v 0 (s.me.pc + 4) := by
  apply scalarDone_upd
  rw [h, Hart.sput_eq]
  simp [Hart.next, velemAfter]
theorem int1_done (s : State) (d a : SReg) (f : Word → Word) (v : Word) (h : f (s.me.sget a) = v) :
    ScalarDone (.next (s.int1 d a f)) s d v 0 (s.me.pc + 4) := by
  apply scalarDone_upd
  rw [h, Hart.sput_eq]
  simp [Hart.next, velemAfter]

/-! ## Words as numbers -/

theorem sshiftRight_ofInt (x : Word) (k : Nat) : x.sshiftRight k = BitVec.ofInt 64 (x.toInt / 2 ^ k) := by
  rw [BitVec.sshiftRight, Int.shiftRight_eq_div_pow]; norm_cast

theorem shl_ofNat (x : Word) (k : Nat) : x <<< k = BitVec.ofNat 64 (x.toNat * 2 ^ k) := by
  apply BitVec.eq_of_toNat_eq; simp [BitVec.toNat_shiftLeft, Nat.shiftLeft_eq]
theorem shr_ofNat (x : Word) (k : Nat) : x >>> k = BitVec.ofNat 64 (x.toNat / 2 ^ k) := by
  apply BitVec.eq_of_toNat_eq; simp [BitVec.toNat_ushiftRight, Nat.shiftRight_eq_div_pow]
  rw [Nat.mod_eq_of_lt]; exact lt_of_le_of_lt (Nat.div_le_self _ _) x.isLt

theorem lz_spec (x : Word) (k : Nat) (hk : k ≤ 64) : leadingZeros x k ≤ k ∧ (∀ i, i < leadingZeros x k → x.getLsbD (k - 1 - i) = false) ∧
    (leadingZeros x k < k → x.getLsbD (k - 1 - leadingZeros x k) = true) := by
  induction k with
  | zero => simp [leadingZeros]
  | succ k ih =>
    have ih := ih (by omega)
    simp only [leadingZeros]
    split
    · rename_i h; simp [h]
    · rename_i h
      refine ⟨by omega, ?_, ?_⟩
      · intro i hi
        cases i with
        | zero => simpa using h
        | succ i => have := ih.2.1 i (by omega); rw [← this]; congr 1; omega
      · intro hl
        have := ih.2.2 (by omega); rw [← this]; congr 1; omega

theorem tz_spec (x : Word) (k : Nat) (hk : k ≤ 64) : trailingZeros x k ≤ k ∧ (∀ i, i < trailingZeros x k → x.getLsbD (64 - k + i) = false) ∧
    (trailingZeros x k < k → x.getLsbD (64 - k + trailingZeros x k) = true) := by
  induction k with
  | zero => simp [trailingZeros]
  | succ k ih =>
    have ih := ih (by omega)
    simp only [trailingZeros]
    split
    · rename_i h
      refine ⟨by omega, by simp, fun _ => ?_⟩
      rw [← h]; congr 1; omega
    · rename_i h
      refine ⟨by omega, ?_, ?_⟩
      · intro i hi
        cases i with
        | zero => have h : x.getLsbD (63 - k) = false := by simpa using h
                  rw [← h]; congr 1; omega
        | succ i => have := ih.2.1 i (by omega); rw [← this]; congr 1; omega
      · intro hl
        have := ih.2.2 (by omega); rw [← this]; congr 1; omega

theorem pop_spec (n k : Nat) : oneBits n k = (List.range k).countP fun i => n.testBit i := by
  induction k generalizing n with
  | zero => rfl
  | succ k ih =>
    rw [oneBits, ih, List.range_succ_eq_map, List.countP_cons, List.countP_map]
    have : (fun i => n.testBit i) ∘ Nat.succ = fun i => (n / 2).testBit i := by
      funext i; simp [Nat.testBit_succ]
    rw [this, Nat.testBit_zero]
    have := Nat.mod_two_eq_zero_or_one n
    rcases this with h | h <;> simp [h]; omega

theorem four_mul (w : Nat) (o : BitVec w) : (o.signExtend 64 <<< 2 : Word) = BitVec.ofInt 64 (4 * o.toInt) := by
  rw [BitVec.signExtend, BitVec.ofInt_mul]
  rw [BitVec.shiftLeft_eq_mul_twoPow, BitVec.mul_comm]; rfl

theorem branch_goes (s : State) (a b : SReg) (off : BitVec 16) (c : Word → Word → Bool) (p : Prop) (hp : c (s.me.sget a) (s.me.sget b) = true ↔ p) :
    (p → ScalarDone (.next (s.branch a b off c)) s 0 0 0 (s.me.pc + BitVec.ofInt 64 (4 * off.toInt))) ∧
    (¬p → ScalarDone (.next (s.branch a b off c)) s 0 0 0 (s.me.pc + 4)) := by
  constructor <;> intro h <;> apply scalarDone_upd
  · rw [if_pos (hp.2 h), ← four_mul]; simp [Hart.jump, velemAfter, Hart.sput]
  · rw [if_neg (fun e => h (hp.1 e))]; simp [Hart.next, velemAfter, Hart.sput]

/-! ## Traps -/

/-- A trap of the scalar stream in task mode. -/
theorem trapAt_taken (s : State) (code : Nat) (lepc laddr : Word) (hm : s.me.system = false) (hc : code < 256) :
    TrapTaken (.next (s.trapAt code false lepc laddr)) s code lepc laddr := by
  rw [State.trapAt_task _ _ _ _ _ hm]
  refine ⟨_, rfl, ⟨?_, fun _ _ _ => rfl⟩, ?_, ?_, ?_⟩
  · rw [State.me_setMe]
  · rw [State.me_setMe]
    simp [Hart.enter, Hart.exchange, Hart.sget, Nat.mod_eq_of_lt hc]
  · intro r hr
    rw [State.me_setMe]
    have hr29 : r ≠ 29 := by rcases hr with h | h; exact h; rw [h]; decide
    have : r.toNat ≠ 29 := fun e => hr29 (BitVec.eq_of_toNat_eq e)
    show (if r = 0 then 0 else (s.me.s.setIfInBounds 29 s.me.lhold).getD r.toNat 0) = _
    rw [getD_set _ _ _ _ _ r.isLt, if_neg this]; rfl
  · rw [State.me_setMe]
    show (if (29 : SReg) = 0 then 0 else (s.me.s.setIfInBounds 29 s.me.lhold).getD (29 : SReg).toNat 0) = _
    rw [getD_set _ _ _ _ _ (29 : SReg).isLt]; simp

/-! ## The word that stands next -/

/-- No word encodes a step of a unit, an event or the machine itself. -/
theorem of_isSome_none (h : (none : Option IWord).isSome = true) (p : Prop) : p := by simp at h

/-- The boundary's look at the next word is that word's own meaning. -/
theorem runWord_eq_exec (i : Instr) (s : State) (h : (encode i).isSome = true) : runWord i s = exec i s := by
  cases i <;> first | exact of_isSome_none h _ | rfl

end Sys2Proof.Machine
end

