-- ==== Sys2Proof/Laws/Queue.lean ====
section
/-! SUPPORT. Where a launch record can lie, said once each (log 12). -/

namespace Sys2Proof.Machine

/-- The multiples of 64 in a page that a translation in force covers are places for a record. -/
theorem recordPlaces_cached (s : State) (asid i : Nat) (t : Trans) (ht : t ∈ s.tlbs.get [] 0) (ha : t.asid = asid) (hi : i < 2 ^ t.bits / 64) :
    BitVec.ofNat 64 (t.base + 64 * i) ∈ s.recordPlaces asid := by
  refine List.mem_flatMap.mpr ⟨(t.base, 2 ^ t.bits), List.mem_append_left _ (List.mem_map.mpr ⟨t, ?_, rfl⟩), List.mem_map.mpr ⟨i, List.mem_range.mpr hi, rfl⟩⟩
  exact List.mem_filter.mpr ⟨List.mem_append_right _ ht, by simpa using ha⟩

/-- An address at which a record fits is not 0. -/
theorem recordFits_ne_zero (s : State) (asid : Nat) (a : Word) (h : s.recordFits asid a = true) : a ≠ 0 := by
  rintro rfl; simp [State.recordFits] at h

/-- A record has an address as soon as it fits at one place of its context. -/
theorem recordAddr_ne_zero (s : State) (asid gn : Nat) (a : Word) (hp : a ∈ s.recordPlaces asid) (hf : s.recordFits asid a = true) :
    s.recordAddr asid gn ≠ 0 := by
  unfold State.recordAddr
  split
  · rename_i b hb; exact recordFits_ne_zero s asid b (List.find?_some hb)
  · have hm : a ∈ (s.recordPlaces asid).filter (s.recordFits asid) := List.mem_filter.mpr ⟨hp, hf⟩
    have hl := List.length_pos_of_mem hm
    rw [List.getD_eq_getElem _ _ (Nat.mod_lt _ hl)]
    exact recordFits_ne_zero s asid _ (List.mem_filter.mp (List.getElem_mem _)).2

/-- It has none where it fits nowhere. -/
theorem recordAddr_eq_zero (s : State) (asid gn : Nat) (h : ∀ a, s.recordFits asid a = false) : s.recordAddr asid gn = 0 := by
  have hl : (s.recordPlaces asid).filter (s.recordFits asid) = [] := List.filter_eq_nil_iff.mpr fun a _ => by simp [h]
  unfold State.recordAddr
  rw [List.find?_eq_none.mpr fun a _ => by simp [h], hl]
  rfl

end Sys2Proof.Machine
end

