-- ==== Sys2Proof/Tests/Slice0.lean ====
section
/-! SUPPORT. The model's own tests: ill-formed terms, decoded words, a few single steps with results from the spec, and for every
statement states and operands that meet its hypotheses. -/

namespace Sys2Proof.Tests
set_option Elab.async false

open Sys2Proof Sys2Proof.Machine Sys2Proof.Claim

/-! ## Ill-formed terms, one for each constraint (R57-R79) -/

theorem test_ill_formed : [
    (Instr.fadd 1 2 3 5 0), .fadd 1 2 3 6 0, .fsqrt 1 2 7 1, .fmadd 1 2 3 5 0,
    .fcvt 1 2 0 7 7, .fcvt 1 2 0 2 7, .fcvt 1 2 0 9 7, .fcvt 1 2 6 7 8, .fcvt 1 2 5 8 7, .crr 1 0x006, .crw 1 2 0x107,
    .fencep 1 1, .fencep 2 1, .fencep 0 5, .vamoCas 3 1 2 0 0 0, .cpyw 1 2 3 6 5, .cpyw 1 2 3 15 7,
    .vcmpEq 0 1 2 0 0 0, .vcmpLt 13 1 2 0 0 2, .mand 0 1 2, .mnot 0 1, .vredmini 4 1 4 0 0, .vcvt 1 2 0 6 7 0 0, .vcvt 1 2 0 0 15 0 0,
    .vcfg 15 0 1, .vcfg 7 0 65, .pevalx 3 1 0, .mma 0 1 0 15 0, .mopa 0 1 2 0 15, .zcvt 1 0 2 15, .wload 1 2 15, .tgemm 0 1 15 0,
    .hint 0].all (fun i => !i.wellFormed) = true := by decide +kernel

/-- Words that R81 makes illegal, with the reason. -/
theorem test_refused_words : [
    (0x00000000, DecodeError.unassignedMajor), (0xF4000000, .unassignedMajor), (0x040000FF, .unassignedFunction),
    (0x04000817, .reservedField), (0x04000380, .unassignedFunction), (0x1C000007, .unassignedFunction), (0xC9400262, .reservedField), (0x5C000311, .operandConstraint),
    (0xB0005047, .operandConstraint)].all (fun (e : IWord × DecodeError) => decide (decode e.1 = .error e.2)) = true := by decide +kernel

/-! ## Every constructor's word, field by field -/

/-- R60: function 0 to 0x17 in the order of the table, and the shifts by an immediate. -/
theorem test_decode_integer : [
    (0b000001_10001_00010_11110_00000000000, (.add 17 2 30 : Instr)),
    (0b000001_10001_00010_11110_00000000001, (.sub 17 2 30 : Instr)),
    (0b000001_10001_00010_11110_00000000010, (.mul 17 2 30 : Instr)),
    (0b000001_10001_00010_11110_00000000011, (.mulh 17 2 30 : Instr)),
    (0b000001_10001_00010_11110_00000000100, (.div 17 2 30 : Instr)),
    (0b000001_10001_00010_11110_00000000101, (.divu 17 2 30 : Instr)),
    (0b000001_10001_00010_11110_00000000110, (.rem 17 2 30 : Instr)),
    (0b000001_10001_00010_11110_00000000111, (.remu 17 2 30 : Instr)),
    (0b000001_10001_00010_11110_00000001000, (.and 17 2 30 : Instr)),
    (0b000001_10001_00010_11110_00000001001, (.or 17 2 30 : Instr)),
    (0b000001_10001_00010_11110_00000001010, (.xor 17 2 30 : Instr)),
    (0b000001_10001_00010_11110_00000001011, (.shl 17 2 30 : Instr)),
    (0b000001_10001_00010_11110_00000001100, (.shr 17 2 30 : Instr)),
    (0b000001_10001_00010_11110_00000001101, (.sra 17 2 30 : Instr)),
    (0b000001_10001_00010_11110_00000001110, (.slt 17 2 30 : Instr)),
    (0b000001_10001_00010_11110_00000001111, (.sltu 17 2 30 : Instr)),
    (0b000001_10001_00010_11110_00000010000, (.min 17 2 30 : Instr)),
    (0b000001_10001_00010_11110_00000010001, (.minu 17 2 30 : Instr)),
    (0b000001_10001_00010_11110_00000010010, (.max 17 2 30 : Instr)),
    (0b000001_10001_00010_11110_00000010011, (.maxu 17 2 30 : Instr)),
    (0b000001_01001_10100_00000_00000010100, (.clz 9 20 : Instr)),
    (0b000001_01001_10100_00000_00000010101, (.ctz 9 20 : Instr)),
    (0b000001_01001_10100_00000_00000010110, (.popc 9 20 : Instr)),
    (0b000001_01001_10100_00000_00000010111, (.jalr 9 20 : Instr)),
    (0b000001_00110_10101_00000_01_00_0_100101, (.shli 6 21 37 : Instr)),
    (0b000001_00110_10101_00000_01_01_0_100101, (.shri 6 21 37 : Instr)),
    (0b000001_00110_10101_00000_01_10_0_100101, (.srai 6 21 37 : Instr))
    ].all (fun (e : IWord × Instr) => decide (decode e.1 = .ok e.2)) = true := by decide +kernel

/-- R61, R62: the immediate forms, loads and stores by kind, branches and jumps. -/
theorem test_decode_immediates : [
    (0b000010_00011_10100_1111111111111110, (.addi 3 20 0xFFFE : Instr)),
    (0b000011_00011_10100_1111111111111110, (.andi 3 20 0xFFFE : Instr)),
    (0b000100_00011_10100_1111111111111110, (.ori 3 20 0xFFFE : Instr)),
    (0b000101_00011_10100_1111111111111110, (.xori 3 20 0xFFFE : Instr)),
    (0b000110_00111_00011_1000000000000001, (.lih 7 0x8001 3 : Instr)),
    (0b000110_00111_10000_1000000000000001, (.addpc 7 0x8001 : Instr)),
    (0b000111_00101_10010_1111111111000_000, (.lb 5 18 0x1FF8 : Instr)),
    (0b000111_00101_10010_1111111111000_001, (.lh 5 18 0x1FF8 : Instr)),
    (0b000111_00101_10010_1111111111000_010, (.lw 5 18 0x1FF8 : Instr)),
    (0b000111_00101_10010_1111111111000_011, (.ld 5 18 0x1FF8 : Instr)),
    (0b000111_00101_10010_1111111111000_100, (.lbu 5 18 0x1FF8 : Instr)),
    (0b000111_00101_10010_1111111111000_101, (.lhu 5 18 0x1FF8 : Instr)),
    (0b000111_00101_10010_1111111111000_110, (.lwu 5 18 0x1FF8 : Instr)),
    (0b001000_00101_10010_1111111111000_000, (.sb 5 18 0x1FF8 : Instr)),
    (0b001000_00101_10010_1111111111000_001, (.sh 5 18 0x1FF8 : Instr)),
    (0b001000_00101_10010_1111111111000_010, (.sw 5 18 0x1FF8 : Instr)),
    (0b001000_00101_10010_1111111111000_011, (.sd 5 18 0x1FF8 : Instr)),
    (0b001001_00100_10011_1111111111111101, (.beq 4 19 0xFFFD : Instr)),
    (0b001010_00100_10011_1111111111111101, (.bne 4 19 0xFFFD : Instr)),
    (0b001011_00100_10011_1111111111111101, (.blt 4 19 0xFFFD : Instr)),
    (0b001100_00100_10011_1111111111111101, (.bge 4 19 0xFFFD : Instr)),
    (0b001101_00100_10011_1111111111111101, (.bltu 4 19 0xFFFD : Instr)),
    (0b001110_00100_10011_1111111111111101, (.bgeu 4 19 0xFFFD : Instr)),
    (0b001111_00001_100000000000000000011, (.jal 1 0x100003 : Instr)),
    (0b010110_00000_00000_1000000000000000, (.trap 0x8000 : Instr))
    ].all (fun (e : IWord × Instr) => decide (decode e.1 = .ok e.2)) = true := by decide +kernel

/-- R63: rounding, precision and op of the floating forms; `fcvt.fp32.fp64` under RTO. -/
theorem test_decode_floats : [
    (0b010000_00001_00010_10011_010_1_000_0000, (.fadd 1 2 19 2 1 : Instr)),
    (0b010000_00001_00010_10011_010_1_000_0001, (.fsub 1 2 19 2 1 : Instr)),
    (0b010000_00001_00010_10011_010_1_000_0010, (.fmul 1 2 19 2 1 : Instr)),
    (0b010000_00001_00010_10011_010_1_000_0011, (.fdiv 1 2 19 2 1 : Instr)),
    (0b010000_00001_10010_00000_100_0_000_0100, (.fsqrt 1 18 4 0 : Instr)),
    (0b010000_00001_00010_10011_000_1_000_0101, (.fmin 1 2 19 1 : Instr)),
    (0b010000_00001_00010_10011_000_1_000_0110, (.fmax 1 2 19 1 : Instr)),
    (0b010000_00001_00010_10011_000_1_000_1001, (.feq 1 2 19 1 : Instr)),
    (0b010000_00001_00010_10011_000_1_000_1010, (.flt 1 2 19 1 : Instr)),
    (0b010000_00001_00010_10011_000_1_000_1011, (.fle 1 2 19 1 : Instr)),
    (0b010000_00001_10010_00000_000_1_000_0111, (.fneg 1 18 1 : Instr)),
    (0b010000_00001_10010_00000_000_1_000_1000, (.fabs 1 18 1 : Instr)),
    (0b010001_00011_00100_10101_001_1_000000_0, (.fmadd 3 4 21 1 1 : Instr)),
    (0b010001_00011_00100_10101_001_1_000000_1, (.fmsub 3 4 21 1 1 : Instr)),
    (0b010010_00001_10010_00000_101_0111_1000, (.fcvt 1 18 5 7 8 : Instr))
    ].all (fun (e : IWord × Instr) => decide (decode e.1 = .ok e.2)) = true := by decide +kernel

/-- R64 to R66: control registers, system forms, fences and watermarks. -/
theorem test_decode_system : [
    (0b010100_00110_00000_0000_000100000110, (.crr 6 0x106 : Instr)),
    (0b010100_00110_00100_0001_000100000110, (.crw 6 4 0x106 : Instr)),
    (0b010100_00110_00100_0010_000100000110, (.crs 6 4 0x106 : Instr)),
    (0b010100_00110_00100_0011_000100000110, (.crc 6 4 0x106 : Instr)),
    (0b010101_00000_00000_00000_00000000000, (.rett : Instr)),
    (0b010101_00000_00000_00000_00000000001, (.idle : Instr)),
    (0b010101_00000_10100_00101_00000000010, (.savepin 20 5 : Instr)),
    (0b010101_00000_10100_00101_00000000011, (.asinv 20 5 : Instr)),
    (0b010101_00110_10111_00000_00000000100, (.pgprobe 6 23 : Instr)),
    (0b010101_10110_00000_00000_00000000101, (.timetbl 22 : Instr)),
    (0b010101_00000_00000_00000_00000000110, (.rcwait : Instr)),
    (0b010111_000000000000000_000_00000_000, (.fenceHart : Instr)),
    (0b010111_000000000000000_000_00000_001, (.fenceCore : Instr)),
    (0b010111_000000000000000_000_00000_010, (.fenceCluster : Instr)),
    (0b010111_000000000000000_000_00000_011, (.fenceQuarter : Instr)),
    (0b010111_000000000000000_000_00000_100, (.fenceDevice : Instr)),
    (0b010111_000000000000000_000_00000_101, (.fenceSystem : Instr)),
    (0b010111_000000000000000_001_00000000, (.fenceSv : Instr)),
    (0b010111_000000000000000_010_00000000, (.fenceVs : Instr)),
    (0b010111_000000000000000_011_00_001_100, (.fencep 1 4 : Instr)),
    (0b010111_00000_10100_00000_100_00000_111, (.wmset 7 20 : Instr))
    ].all (fun (e : IWord × Instr) => decide (decode e.1 = .ok e.2)) = true := by decide +kernel

/-- R67 to R69: atomics, barriers, slates, lockets, vector atomics (aq in bit 4 of the word, rl in bit 5), waits. -/
theorem test_decode_synchronisation : [
    (0b011000_00110_11000_00111_000000_1_0_000, (.amoAdd 6 24 7 0 1 : Instr)),
    (0b011000_00110_11000_00111_000000_1_0_001, (.amoMin 6 24 7 0 1 : Instr)),
    (0b011000_00110_11000_00111_000000_1_0_010, (.amoMax 6 24 7 0 1 : Instr)),
    (0b011000_00110_11000_00111_000000_1_0_011, (.amoAnd 6 24 7 0 1 : Instr)),
    (0b011000_00110_11000_00111_000000_1_0_100, (.amoOr 6 24 7 0 1 : Instr)),
    (0b011000_00110_11000_00111_000000_1_0_101, (.amoXor 6 24 7 0 1 : Instr)),
    (0b011000_00110_11000_00111_000000_1_0_110, (.amoSwap 6 24 7 0 1 : Instr)),
    (0b011000_00110_11000_00111_000000_1_0_111, (.cas 6 24 7 0 1 : Instr)),
    (0b011001_00000_00100_10101_00000000000, (.binit 4 21 : Instr)),
    (0b011001_00000_00100_0_1011_00000000001, (.barrive 4 11 : Instr)),
    (0b011001_00110_10100_00000_00000000010, (.bwait 6 20 : Instr)),
    (0b011001_01001_01010_11011_00000000011, (.slate 9 10 27 : Instr)),
    (0b011001_00000_11001_00000_00000000100, (.smerge 25 : Instr)),
    (0b011001_01001_01010_11011_00000000101, (.lkdecl 9 10 27 : Instr)),
    (0b011001_10101_00000_00000_00000000110, (.lkstat 21 : Instr)),
    (0b011001_10110_00000_00000_00000000111, (.lksen 22 : Instr)),
    (0b011010_00010_00011_10100_1001_001_0000, (.vamoAdd 2 3 20 9 1 0 : Instr)),
    (0b011010_00010_00011_10100_1001_001_0001, (.vamoMin 2 3 20 9 1 0 : Instr)),
    (0b011010_00010_00011_10100_1001_001_0010, (.vamoMax 2 3 20 9 1 0 : Instr)),
    (0b011010_00010_00011_10100_1001_001_0011, (.vamoAnd 2 3 20 9 1 0 : Instr)),
    (0b011010_00010_00011_10100_1001_001_0100, (.vamoOr 2 3 20 9 1 0 : Instr)),
    (0b011010_00010_00011_10100_1001_001_0101, (.vamoXor 2 3 20 9 1 0 : Instr)),
    (0b011010_00010_00011_10100_1001_001_0110, (.vamoSwap 2 3 20 9 1 0 : Instr)),
    (0b011010_00010_00011_10100_1001_001_0111, (.vamoCas 2 3 20 9 1 0 : Instr)),
    (0b011010_00101_10110_00111_1001_000_1000, (.vwaitEq 5 22 7 9 : Instr)),
    (0b011010_00101_10110_00111_1001_000_1001, (.vwaitNe 5 22 7 9 : Instr)),
    (0b011010_00101_10110_00111_1001_000_1010, (.vwaitLt 5 22 7 9 : Instr)),
    (0b011010_00101_10110_00111_1001_000_1011, (.vwaitGe 5 22 7 9 : Instr)),
    (0b011010_00101_10110_00111_1001_000_1100, (.vwaitLtu 5 22 7 9 : Instr)),
    (0b011010_00101_10110_00111_1001_000_1101, (.vwaitGeu 5 22 7 9 : Instr)),
    (0b011011_11000_01001_01010_0101_000_0000, (.sladd 24 9 10 5 : Instr)),
    (0b011011_11000_01001_01010_0101_000_0001, (.slmin 24 9 10 5 : Instr)),
    (0b011011_11000_01001_01010_0101_000_0010, (.slmax 24 9 10 5 : Instr))
    ].all (fun (e : IWord × Instr) => decide (decode e.1 = .ok e.2)) = true := by decide +kernel

/-- R70, R71, R78 to R80: queues, strands, tiles, copies (`cpyw.e2m1.bf16`: source 11, destination 6), the link, hints. -/
theorem test_decode_queues : [
    (0b011100_00101_00110_10111_00000000000, (.launch 5 6 23 : Instr)),
    (0b011100_01000_11001_00000_00000000001, (.gnode 8 25 : Instr)),
    (0b011100_11010_00111_00000_00000000010, (.qstate 26 7 : Instr)),
    (0b011100_01100_10100_01011_00000000011, (.strpush 12 20 11 : Instr)),
    (0b011100_01011_10100_00000_00000000100, (.strpop 11 20 : Instr)),
    (0b011100_00000_00100_00000_100101_00101, (.hgive 37 4 : Instr)),
    (0b011100_10100_00000_00000_100101_00110, (.htake 20 37 : Instr)),
    (0b011101_00100_00101_10110_0000_0000_000, (.cpy 4 5 22 : Instr)),
    (0b011101_00100_00101_10110_0110_1011_001, (.cpyw 4 5 22 11 6 : Instr)),
    (0b011101_00100_00101_10110_00000000_010, (.pack 4 5 22 : Instr)),
    (0b011101_00100_00101_10110_00000000_011, (.unpack 4 5 22 : Instr)),
    (0b011101_10100_00000_00000_00000000100, (.cpwait 20 : Instr)),
    (0b110011_00100_10110_00000_000_00_100101, (.talloc 4 37 22 : Instr)),
    (0b110011_00000_00000_00000_001_00_100101, (.tfree 37 : Instr)),
    (0b110011_00100_00000_00000_010_00_100101, (.tstate 4 37 : Instr)),
    (0b111110_00101_00110_10111_000000000_1_0, (.lsend 5 6 23 1 : Instr)),
    (0b111110_01000_11001_00000_000000000_0_1, (.lpoll 8 25 0 : Instr)),
    (0b111111_00000000000000000000000000, (.nop : Instr)),
    (0b111111_10000000000000000000000001, (.hint 0x2000001 : Instr))
    ].all (fun (e : IWord × Instr) => decide (decode e.1 = .ok e.2)) = true := by decide +kernel

/-- R72, R73: the vector arithmetic, compares, masks, moves, reductions, `vcvt.fp32.rto`. -/
theorem test_decode_vectors : [
    (0b100000_00011_00001_10010_0101_1_10_0000, (.vadd 3 1 18 5 1 2 : Instr)),
    (0b100000_00011_00001_10010_0101_1_10_0001, (.vsub 3 1 18 5 1 2 : Instr)),
    (0b100000_00011_00001_10010_0101_1_10_0010, (.vmul 3 1 18 5 1 2 : Instr)),
    (0b100000_00011_00001_10010_0101_1_10_0011, (.vdiv 3 1 18 5 1 2 : Instr)),
    (0b100000_00011_00001_10010_0101_1_10_0100, (.vmin 3 1 18 5 1 2 : Instr)),
    (0b100000_00011_00001_10010_0101_1_10_0101, (.vmax 3 1 18 5 1 2 : Instr)),
    (0b100000_00011_00001_10010_0101_1_10_1100, (.vmadd 3 1 18 5 1 2 : Instr)),
    (0b100000_00011_00001_10010_0101_1_10_1101, (.vscale 3 1 18 5 1 2 : Instr)),
    (0b100000_00011_00001_10010_0101_1_00_0110, (.vand 3 1 18 5 1 : Instr)),
    (0b100000_00011_00001_10010_0101_1_00_0111, (.vor 3 1 18 5 1 : Instr)),
    (0b100000_00011_00001_10010_0101_1_00_1000, (.vxor 3 1 18 5 1 : Instr)),
    (0b100000_00011_00001_10010_0101_1_00_1001, (.vshl 3 1 18 5 1 : Instr)),
    (0b100000_00011_00001_10010_0101_1_00_1010, (.vshr 3 1 18 5 1 : Instr)),
    (0b100000_00011_00001_10010_0101_1_00_1011, (.vsra 3 1 18 5 1 : Instr)),
    (0b100001_00011_10001_00000_0101_1_11_0000, (.vsqrt 3 17 5 1 3 : Instr)),
    (0b100001_00011_10001_00000_0101_1_00_0001, (.vabs 3 17 5 1 : Instr)),
    (0b100001_00011_10001_00000_0101_1_00_0010, (.vneg 3 17 5 1 : Instr)),
    (0b100001_00011_10001_00000_0101_1_00_0011, (.vpopc 3 17 5 1 : Instr)),
    (0b100001_00011_10001_00000_0101_1_00_0100, (.vmv 3 17 5 1 : Instr)),
    (0b100001_10011_00000_00000_0101_1_00_0101, (.vid 19 5 1 : Instr)),
    (0b100010_01001_00001_10010_0100_1_01_0000, (.vcmpEq 9 1 18 4 1 1 : Instr)),
    (0b100010_01001_00001_10010_0100_1_01_0001, (.vcmpNe 9 1 18 4 1 1 : Instr)),
    (0b100010_01001_00001_10010_0100_1_01_0010, (.vcmpLt 9 1 18 4 1 1 : Instr)),
    (0b100010_01001_00001_10010_0100_1_01_0011, (.vcmpLe 9 1 18 4 1 1 : Instr)),
    (0b100010_01001_00001_10010_0100_1_01_0100, (.vcmpGt 9 1 18 4 1 1 : Instr)),
    (0b100010_01001_00001_10010_0100_1_01_0101, (.vcmpGe 9 1 18 4 1 1 : Instr)),
    (0b100010_01001_00001_10010_0100_1_01_0110, (.vcmpLtu 9 1 18 4 1 1 : Instr)),
    (0b100010_01001_00001_10010_0100_1_01_0111, (.vcmpLeu 9 1 18 4 1 1 : Instr)),
    (0b100010_01001_00001_10010_0100_1_01_1000, (.vcmpGtu 9 1 18 4 1 1 : Instr)),
    (0b100010_01001_00001_10010_0100_1_01_1001, (.vcmpGeu 9 1 18 4 1 1 : Instr)),
    (0b100011_01001_00001_01010_0000_0_00_0000, (.mand 9 1 10 : Instr)),
    (0b100011_01001_00001_01010_0000_0_00_0001, (.mor 9 1 10 : Instr)),
    (0b100011_01001_00001_01010_0000_0_00_0010, (.mxor 9 1 10 : Instr)),
    (0b100011_01001_01010_00000_0000_0_00_0011, (.mnot 9 10 : Instr)),
    (0b100011_10100_01001_00000_0000_0_00_0100, (.mpopc 20 9 : Instr)),
    (0b100011_10100_01001_00000_0000_0_00_0101, (.mfirst 20 9 : Instr)),
    (0b100011_00011_00001_10010_0101_0_00_0110, (.vmerge 3 1 18 5 : Instr)),
    (0b100011_00100_00010_11011_0101_0_00_0111, (.vnzidx 4 2 27 5 : Instr)),
    (0b100100_10100_01001_00000_0101_0_00_0000, (.vbcast 20 9 5 : Instr)),
    (0b100100_10100_01001_00011_0101_0_00_0001, (.vslide 20 9 3 5 : Instr)),
    (0b100100_10100_01001_00011_0101_0_00_0010, (.vperm 20 9 3 5 : Instr)),
    (0b100101_00100_10010_00000_0101_1_11_0000, (.vredsum 4 18 5 1 3 : Instr)),
    (0b100101_00100_10010_00000_0101_1_00_0001, (.vredmin 4 18 5 1 : Instr)),
    (0b100101_00100_10010_00000_0101_1_00_0010, (.vredmax 4 18 5 1 : Instr)),
    (0b100101_00100_10010_01001_0101_1_00_0011, (.vredmini 4 18 9 5 1 : Instr)),
    (0b100111_00100_10010_0_1001_101_0111_1_10_0, (.vcvt 4 18 9 5 7 1 2 : Instr))
    ].all (fun (e : IWord × Instr) => decide (decode e.1 = .ok e.2)) = true := by decide +kernel

/-- R74, R75: vector memory, satchels, spill frames, vector control and branches. -/
theorem test_decode_vectorMemory : [
    (0b101000_00100_10010_00000_1001_000_0000, (.vld 4 18 9 : Instr)),
    (0b101000_00100_10010_00111_1001_000_0001, (.vlds 4 18 7 9 : Instr)),
    (0b101000_00100_10010_00111_1001_000_0010, (.vldx 4 18 7 9 : Instr)),
    (0b101000_00100_10010_00000_1001_000_0011, (.vldff 4 18 9 : Instr)),
    (0b101001_00100_10010_00000_1001_000_0000, (.vst 4 18 9 : Instr)),
    (0b101001_00100_10010_00111_1001_000_0001, (.vsts 4 18 7 9 : Instr)),
    (0b101001_00100_10010_00111_1001_000_0010, (.vstx 4 18 7 9 : Instr)),
    (0b101001_00100_10010_00111_1001_000_0011, (.vstxu 4 18 7 9 : Instr)),
    (0b101010_00100_10010_00111_1001_000_0000, (.satld 4 18 7 9 : Instr)),
    (0b101010_00100_10010_00111_1001_000_0001, (.satst 4 18 7 9 : Instr)),
    (0b101010_00100_10010_00000_0000_000_0010, (.vspill 4 18 : Instr)),
    (0b101010_00100_10010_00000_0000_000_0011, (.vfill 4 18 : Instr)),
    (0b101100_00101_10110_00_00000000000000, (.setvl 5 22 : Instr)),
    (0b101100_0000000000_01_0_1000000_10_0111, (.vcfg 7 2 64 : Instr)),
    (0b101100_0000000000_10_10000000000011, (.vblk 0x2003 : Instr)),
    (0b101100_00000_10110_11_10000000000011, (.vloop 22 0x2003 : Instr)),
    (0b101101_0_1001_00000_1111111111111101, (.vb 9 0xFFFD : Instr)),
    (0b101101_00000_00001_0000000000000000, (.vstop : Instr))
    ].all (fun (e : IWord × Instr) => decide (decode e.1 = .ok e.2)) = true := by decide +kernel

/-- R77: the polynomial forms by op. -/
theorem test_decode_polynomials : [
    (0b101110_0010_0000_0000_0000_10101_00000, (.psetd 2 21 : Instr)),
    (0b101110_0000_0010_0000_0000_10101_00001, (.psetvl 21 2 : Instr)),
    (0b101110_0011_0000_0000_0000_10101_00010, (.pld 3 21 : Instr)),
    (0b101110_0000_0011_0000_0000_10101_00011, (.pst 3 21 : Instr)),
    (0b101110_0011_0001_1010_0100_00000_00100, (.padd 3 1 10 4 : Instr)),
    (0b101110_0011_0001_1010_0100_00000_00101, (.psub 3 1 10 4 : Instr)),
    (0b101110_0011_0001_1010_0100_00000_00110, (.pmul 3 1 10 4 : Instr)),
    (0b101110_0011_0001_1010_0100_00000_00111, (.pmulc 3 1 10 4 : Instr)),
    (0b101110_0011_0001_1010_0100_00000_01111, (.pfaceAvg 3 1 10 4 : Instr)),
    (0b101110_0011_0001_1010_0100_00000_10000, (.pfaceJump 3 1 10 4 : Instr)),
    (0b101110_0011_0001_0000_0100_10010_01000, (.pscal 3 1 18 4 : Instr)),
    (0b101110_0011_1001_0001_0100_00000_01001, (.pdiff 3 9 1 4 : Instr)),
    (0b101110_0011_1001_0001_0100_00000_01010, (.pint 3 9 1 4 : Instr)),
    (0b101110_0000_1001_0000_0100_10010_01011, (.pintd 18 9 4 : Instr)),
    (0b101110_0011_1001_0000_0100_01011_01100, (.pproj 3 9 11 4 : Instr)),
    (0b101110_0011_1001_0000_0100_01011_01101, (.plift 3 9 11 4 : Instr)),
    (0b101110_0011_1001_0010_0100_10010_01110, (.ptrace 3 18 9 2 4 : Instr)),
    (0b101110_0011_1001_1010_0100_10010_10001, (.pfaceUp 3 9 10 18 4 : Instr)),
    (0b101110_0000_1001_0000_0100_10010_10010, (.peval 18 9 4 : Instr)),
    (0b101110_0000_1001_0000_0100_10010_10011, (.pevalb 18 9 4 : Instr)),
    (0b101110_0000_1001_0000_0100_10010_10100, (.pevalx 18 9 4 : Instr)),
    (0b101110_0011_1001_0000_0100_00000_10101, (.pfit 3 9 4 : Instr)),
    (0b101110_0011_1001_0000_0100_00000_10110, (.pnode 3 9 4 : Instr)),
    (0b101110_0011_1001_0001_0100_00000_10111, (.pconv 3 9 1 4 : Instr))
    ].all (fun (e : IWord × Instr) => decide (decode e.1 = .ok e.2)) = true := by decide +kernel

/-- R78: the matrix forms by op. -/
theorem test_decode_matrices : [
    (0b110010_01_01000_00000_0101_1001_1_00000, (.mma 1 8 5 9 1 : Instr)),
    (0b110010_11_00010_00101_1001_0111_0_00001, (.mopa 3 2 5 9 7 : Instr)),
    (0b110010_10_00000_00000_0000_0000_0_00010, (.zclr 2 : Instr)),
    (0b110010_10_10001_00110_0000_0000_0_00011, (.zrd 17 2 6 : Instr)),
    (0b110010_10_10001_00110_0000_0000_0_00100, (.zwr 2 17 6 : Instr)),
    (0b110010_01_10100_00011_0000_0110_0_00101, (.zcvt 20 1 3 6 : Instr)),
    (0b110010_00_01001_10100_0000_1011_0_00110, (.wload 9 20 11 : Instr)),
    (0b110010_00_00000_00000_0000_0000_0_00111, (.wswap : Instr)),
    (0b110010_10_01001_00000_0000_1011_1_01000, (.tgemm 2 9 11 1 : Instr))
    ].all (fun (e : IWord × Instr) => decide (decode e.1 = .ok e.2)) = true := by decide +kernel

/-! ## Small states: one hart, in slot 0, whose registers a list gives; the rest as after reset -/

def base : Hart := { Hart.reset with run := .running, pc := 0x1000, asid := 1, ltvec := 0x10000, vlgrant := 1 }
def withS (h : Hart) (l : List (Nat × Word)) : Hart := { h with s := l.foldl (fun v e => v.setIfInBounds e.1 e.2) h.s }
def withV (h : Hart) (l : List (Nat × VWord)) : Hart := { h with v := l.foldl (fun v e => v.setIfInBounds e.1 e.2) h.v }
def one (h : Hart) : State := { State.reset with harts := [(0, h)] }
def user (l : List (Nat × Word)) : State := one (withS base l)
def sys (l : List (Nat × Word)) : State := one { withS base l with system := true }
/-- The first byte of the slab window, and where it lies for core 0 (R190). -/
def slab : Word := 0x00FFFE0000000000
def slabLoc : Nat := 0x008000000000

theorem one_quiet (h : Hart) (hc : h.clock = Clock.zero) (hs : h.satchel.wf = true) : QuietHome (one h) 0 := by
  refine ⟨⟨?_, ?_, ?_⟩, rfl, rfl, ?_, ?_⟩
  · intro v hv; simp [one, State.reset] at hv
  · intro e he; simp [one] at he; rw [he]; exact hs
  · intro g hg; simp [one, State.reset] at hg
  · show Clock.le h.clock _ = true
    rw [hc]; rfl
  · intro a; rfl

/-- One hart, no context and no group: the tables list their keys in rising order. -/
theorem one_keys (h : Hart) : (one h).keysOk := by
  refine ⟨List.pairwise_singleton .., List.Pairwise.nil, ?_, ?_⟩ <;> intro x hx <;> simp [one, State.reset] at hx

theorem one_calm (h : Hart) (hl : h.lines = []) (hsp : h.spill = []) (hw : h.wait = none) (ho : h.overrun = none) (hb : h.blk = none) :
    Calm (one h) := by
  refine ⟨rfl, rfl, rfl, hl, hsp, hw, ho, fun b e => ?_, ?_⟩
  · rw [show (one h).me.blk = none from hb] at e; nomatch e
  · intro id g _ hg; simp [State.group?, one, State.reset, Tbl.find] at hg

/-- An address of the slab window is known. -/
theorem slab_known (h : Hart) (k : Kind) (hk : k ≠ .fetch) (a : Nat) (ha : a < 0x100000) :
    Known (one h) k (slab + BitVec.ofNat 64 a) (slabLoc + a) := by
  have e : (slab + BitVec.ofNat 64 a).toNat = 0x00FFFE0000000000 + a := by
    simp [slab, BitVec.toNat_add]; omega
  refine ⟨?_, hk, ?_⟩
  · simp [canonical, e]; omega
  · rw [e, if_pos (by omega)]
    refine ⟨by omega, ?_⟩
    show slabLoc + a = 0x008000000000 + 0x100000 * (0 / 4) + _
    simp [slabLoc]

/-! ## Scalar instructions: hypotheses that are met -/

/-- Branches: taken and not taken, at the boundary of the comparison; `JALR` targets aligned and not. -/
theorem test_branch_cases :
    (let s := user [(1, 5), (2, 5), (3, -1), (4, 0x2000), (5, 0x2002)]
     s.me.sget 1 = s.me.sget 2 ∧ s.me.sget 1 ≠ s.me.sget 3 ∧ (s.me.sget 3).toInt < (s.me.sget 1).toInt ∧ ¬(s.me.sget 1).toInt < (s.me.sget 2).toInt ∧
       (s.me.sget 2).toInt ≤ (s.me.sget 1).toInt ∧ ¬(s.me.sget 1).toInt ≤ (s.me.sget 3).toInt ∧ (s.me.sget 1).toNat < (s.me.sget 3).toNat ∧
       ¬(s.me.sget 1).toNat < (s.me.sget 2).toNat ∧ (s.me.sget 2).toNat ≤ (s.me.sget 1).toNat ∧ ¬(s.me.sget 3).toNat ≤ (s.me.sget 1).toNat ∧
       (s.me.sget 4).toNat % 4 = 0 ∧ (s.me.sget 5).toNat % 4 ≠ 0 ∧ s.me.system = false) := by decide +kernel

/-- Loads: the last aligned double word of the slab window, and a byte at its end. -/
theorem test_load_cases :
    (Instr.ld 1 2 0, 8, false) ∈ loadForms 1 2 0 ∧ (address (user [(2, slab + 0xFFFF8)]) 2 0).toNat % 8 = 0 ∧
    (∃ u, (user [(2, slab + 0xFFFF8)]).access .scalar .load (address (user [(2, slab + 0xFFFF8)]) 2 0) 8 = .ok u (slabLoc + 0xFFFF8) ∧ u.writes = []) ∧
    (Instr.lb 1 2 0x1FFF, 1, true) ∈ loadForms 1 2 0x1FFF ∧
    ∃ u, (user [(2, slab + 0x100000)]).access .scalar .load (address (user [(2, slab + 0x100000)]) 2 0x1FFF) 1 = .ok u (slabLoc + 0xFFFFF) := by
  refine ⟨by decide, by decide +kernel, ⟨_, rfl, rfl⟩, by decide, ⟨_, rfl⟩⟩

theorem test_store_cases : ∃ u, (Instr.sd 1 2 0, 8) ∈ storeForms 1 2 0 ∧ (address (user [(1, 7), (2, slab)]) 2 0).toNat % 8 = 0 ∧
    (user [(1, 7), (2, slab)]).access .scalar .write (address (user [(1, 7), (2, slab)]) 2 0) 8 = .ok u slabLoc ∧ u.buffering u.cur = false ∧
    KnownDirty u (address (user [(1, 7), (2, slab)]) 2 0) ∧ ∀ k, k < 8 → u.me.buffered (slabLoc + k) = none := by
  refine ⟨_, by decide, by decide +kernel, rfl, rfl, fun e h => (nomatch (show (none : Option Trans) = some e from h)), fun k _ => rfl⟩

/-- A misaligned access in both modes, an aligned one that is not canonical (reason 4, no record), and one that finds no root entry. -/
theorem test_access_trap_cases :
    (Instr.sd 1 2 0, 8) ∈ storeForms 1 2 0 ∧ (address (user [(2, slab + 4)]) 2 0).toNat % 8 ≠ 0 ∧ (user [(2, slab + 4)]).me.system = false ∧
    (sys [(2, slab + 4)]).me.system = true ∧
    (∃ f, (user [(2, 0x0100000000000000)]).access .scalar .load (address (user [(2, 0x0100000000000000)]) 2 0) 8 = .fail f ∧ f.reason = 4) ∧
    ∃ f, (user [(2, 0x1000)]).access .scalar .write (address (user [(2, 0x1000)]) 2 0) 8 = .fail f ∧ f.reason ≠ 4 ∧ f.reason ≠ 6 := by
  refine ⟨by decide, by decide +kernel, rfl, rfl, ⟨_, rfl, by decide +kernel⟩, ⟨_, rfl, by decide +kernel⟩⟩

/-- Rounding codes and format codes at the ends of their ranges. -/
theorem test_float_form_cases : (5 : BitVec 3).toNat ≤ 5 ∧ 3 ≤ (3 : BitVec 4).toNat ∧ (8 : BitVec 4).toNat ≤ 8 ∧ Fmt.ofCode 3 = some .int32 ∧
    Fmt.ofCode 8 = some .fp64 ∧ Fmt.ofCode 7 = some .fp32 ∧ isNaNBits 0 ((user [(1, 0x7F800001)]).me.sget 1) ∧ (4 : BitVec 4).toNat ≤ 4 := by
  unfold isNaNBits expOnes fracZero
  decide +kernel

/-- Quiet and signalling NaNs, infinities of both signs, zeros, a negative number, finite pairs and mixed ones. -/
theorem test_float_special_cases :
    (let s := user [(1, 0x7FC00001), (2, 0x7F800001), (3, 0x7F800000), (4, 0xFF800000), (5, 0x80000000), (6, 0x80800000), (7, 1)]
     isNaNBits 0 (s.me.sget 1) ∧ ¬isSignalBits 0 (s.me.sget 1) ∧ isSignalBits 0 (s.me.sget 2) ∧ s.me.fmode.getLsbD 3 = false ∧
       isInfBits 0 (s.me.sget 3) ∧ isInfBits 0 (s.me.sget 4) ∧ signBit 0 (s.me.sget 3) ≠ signBit 0 (s.me.sget 4) ∧ magZero 0 (s.me.sget 5) ∧
       ¬isNaNBits 0 (s.me.sget 6) ∧ ¬magZero 0 (s.me.sget 6) ∧ signBit 0 (s.me.sget 6) = true ∧ ¬isNaNBits 0 (s.me.sget 7) ∧
       ¬isInfBits 0 (s.me.sget 7) ∧ ({ s.me with fmode := 8 } : Hart).fmode.getLsbD 3 = true) := by
  unfold isSignalBits isNaNBits isInfBits expOnes fracZero fracTop magZero; decide +kernel

theorem test_control_register_cases :
    (0x013 : BitVec 12).toNat < 0x100 ∧ (sys []).me.system = true ∧
    (0x001, (sys []).me.vcfg) ∈ crValues (sys []) ∧ (0x103, (sys []).me.laddr) ∈ crValues (sys []) ∧
    (let s := user [(1, 0x1017), (2, 15), (3, 0x1040)]
     ¬((s.me.sget 1).extractLsb' 0 4 = 15 ∨ 64 < ((s.me.sget 1).extractLsb' 6 7).toNat) ∧
       (s.me.sget 2).extractLsb' 0 4 = 15 ∧ 64 < ((s.me.sget 3).extractLsb' 6 7).toNat ∧ s.me.system = false) := by
  refine ⟨by decide, rfl, ?_, ?_, by decide +kernel⟩ <;> simp [crValues]

theorem test_privilege_cases : (user []).me.system = false ∧ 0x100 ≤ (0x100 : BitVec 12).toNat ∧ 0x100 ≤ (0x106 : BitVec 12).toNat ∧
    (encode (.crr 1 0x106)).isSome = true ∧ (encode .rett).isSome = true ∧ (encode (.savepin 1 2)).isSome = true ∧ (encode (.asinv 1 2)).isSome = true := by
  decide +kernel

/-- System mode for `RETT`; both modes and both kinds of code for `TRAP`. -/
theorem test_trap_cases : (sys []).me.system = true ∧ (user []).me.system = false ∧ (0x7FFF : BitVec 16) ≠ 0x8000 := by decide +kernel

/-- A scalar stream and a running block, for `NOP`. -/
def block : Block := ⟨0x2000, false, none, 1, BitVec.allOnes 256, [], 1, 0x1007, none, [], 0, none, none⟩
theorem test_nop_cases : (user []).me.blk = none ∧ (one { base with blk := some block }).me.blk ≠ none := by decide +kernel

/-- One write of the executing hart, of its scalar class, that no view shows. -/
def pendingWrite : Write := ⟨0, ⟨1, 0, 0, 0⟩, some 0, .scalar, .h, [(slabLoc, 7)], false, false, 0⟩
def pendingState : State :=
  { one { base with clock := ⟨1, 0, 0, 0⟩ } with
    writes := [pendingWrite]
    issued := (Vector.replicate 4 Clock.zero).set 0 ⟨1, 0, 0, 0⟩ }

theorem test_fence_cases :
    pendingState.recess.start = none ∧ pendingWrite.seq ≤ pendingState.me.clock.get pendingWrite.quarter ∧
    (∀ r, r < 4 → pendingState.canApply pendingWrite r pendingWrite.path = true) ∧ pendingWrite.slot = some pendingState.cur ∧
    pendingWrite.shown 0 .h = false ∧ pendingWrite.bytes.find? (fun c => c.1 == slabLoc) = some (slabLoc, 7) ∧
    (0 : BitVec 3).toNat < (4 : BitVec 3).toNat ∧ (4 : BitVec 3).toNat ≤ 4 ∧ pendingWrite.applied = 0 ∧
    pendingWrite.path ∈ [Path.ofIndex 0, Path.ofIndex 4] := by
  refine ⟨rfl, by decide +kernel, by decide +kernel, rfl, rfl, by decide +kernel, by decide, by decide, rfl, by decide⟩

/-- A group of one running member on slot 0, with a locket table and strands. -/
def group : Group :=
  { asid := 1, kernel := 0, queue := none, node := none, prio := 0, x := 1, y := 1, n := 1, stages := 2, entry := [0x1000, 0x1100],
    strands := [(1, 0, 1)], tiles := [], args := [], stackBytes := 0, record := 0, bindings := [], guard := 0, pred := none, state := .running,
    places := [⟨0, 0, 0, true, []⟩], lockets := [], items := [], members := [(0, ⟨.running 0, 0, none, 0, none⟩)], clock := Clock.zero,
    ended := Clock.zero, tiled := [], tied := none }
def member : MemberId := ⟨1, 0, 0⟩
def inGroup (g : Group) (h : Hart) : State := { one { h with member := some member } with groups := [(1, g)], nextGroup := 2 }
/-- A locket of eight bytes at the slab, held by the member. -/
def heldLocket : Locket := ⟨slab, 8, some member, [], Clock.zero⟩
def holding : Group := { group with lockets := [(0, heldLocket)] }

theorem test_watermark_cases : (user []).recess.start = none ∧ (user []).buffering 0 = false ∧ (user []).guardHolds 0 = false ∧
    (inGroup holding base).buffering 0 = true ∧ (inGroup holding base).me.system = false := by
  decide +kernel
/-- A page of 16 MiB from virtual address 0, readable, writable and executable, cached in Q0 with its d bit set. -/
def page : Trans := ⟨1, 0, 24, 0x000B00000100021F, [], true⟩
def mappedW (h : Hart) (v : Tbl View) : State := { one h with tlbs := [(0, [page])], views := v }
def mapped (h : Hart) : State := mappedW h []
def pageLoc : Nat := 0x1000000

theorem mapped_quiet (h : Hart) (hc : h.clock = Clock.zero) (hs : h.satchel.wf = true) (q : Nat) (hq : q < 4) : QuietHome (mapped h) q := by
  refine ⟨⟨?_, ?_, ?_⟩, rfl, rfl, ?_, ?_⟩
  · intro v hv; simp [mapped, mappedW] at hv
  · intro e he; simp [mapped, mappedW, one] at he; rw [he]; exact hs
  · intro g hg; simp [mapped, mappedW, one, State.reset] at hg
  · show Clock.le h.clock _ = true
    rw [hc]; interval_cases q <;> rfl
  · intro a; interval_cases q <;> rfl

theorem calm_of (s : State) (hr : s.recess.start = none) (hso : s.soft = []) (hwr : s.writes = []) (hg : s.groups = []) (hl : s.me.lines = [])
    (hsp : s.me.spill = []) (hw : s.me.wait = none) (ho : s.me.overrun = none) (hb : s.me.blk = none) : Calm s := by
  refine ⟨hr, hso, hwr, hl, hsp, hw, ho, fun b e => ?_, ?_⟩
  · rw [hb] at e; nomatch e
  · intro id g _ h; simp [State.group?, hg, Tbl.find] at h

theorem mapped_calm (h : Hart) (v : Tbl View) (hl : h.lines = []) (hsp : h.spill = []) (hw : h.wait = none) (ho : h.overrun = none)
    (hb : h.blk = none) : Calm (mappedW h v) := calm_of _ rfl rfl rfl rfl hl hsp hw ho hb

/-- Every address of the page is known, for reading, writing and atomics, in any state that caches it. -/
theorem known_of (s : State) (hc : s.cur = 0) (hp : s.pins = []) {r : List Trans} (ht : s.tlbs = [(0, page :: r)]) (ha : s.me.asid = 1) (k : Kind)
    (hk : k = .load ∨ k = .write ∨ k = .atomic) (x : Word) (hlt : x.toNat < 0x1000000) : Known s k x (pageLoc + x.toNat) := by
  refine ⟨by simp [canonical]; omega, by rcases hk with rfl | rfl | rfl <;> decide, ?_⟩
  rw [if_neg (by omega)]
  refine ⟨page, ?_, ?_, fun _ => rfl, ?_, fun _ => ?_⟩
  · have : page.covers s.me.asid x = true := by
      rw [ha]; simp [page, Trans.covers]; omega
    have g : s.tlbs.get [] (slotQuarter s.cur) = page :: r := by simp [ht, hc, slotQuarter, Tbl.get]
    simp [State.cached, g, hp, this]
  · rcases hk with rfl | rfl | rfl <;> decide +kernel
  · show pageLoc + x.toNat = ((0x000B00000100021F#64).extractLsb' 12 36).toNat * 4096 + x.toNat % 2 ^ 24
    rw [show ((0x000B00000100021F#64).extractLsb' 12 36).toNat * 4096 = 0x1000000 from by decide]
    simp [pageLoc]; omega
  · have : ¬ Config.hostBase ≤ pageLoc + x.toNat := by unfold Config.hostBase pageLoc; omega
    simp [inHostMem, this]

/-- The page from its first byte, byte by byte. -/
theorem run_of (s : State) (hc : s.cur = 0) (hp : s.pins = []) {r : List Trans} (ht : s.tlbs = [(0, page :: r)]) (ha : s.me.asid = 1) (k : Kind)
    (hk : k = .load ∨ k = .write ∨ k = .atomic) (x : Word) (hx : x = 0) (i : Nat) (hi : i < 0x1000000) :
    Known s k (x + BitVec.ofNat 64 i) (pageLoc + i) := by
  have e : (x + BitVec.ofNat 64 i).toNat = i := by subst hx; simp; omega
  have := known_of s hc hp ht ha k hk (x + BitVec.ofNat 64 i) (by omega)
  rwa [e] at this

theorem page_known (h : Hart) (v : Tbl View) (ha : h.asid = 1) (k : Kind) (hk : k = .load ∨ k = .write ∨ k = .atomic) (x : Word) (hlt : x.toNat < 0x1000000) :
    Known (mappedW h v) k x (pageLoc + x.toNat) := known_of (mappedW h v) rfl rfl rfl ha k hk x hlt

theorem page_run (h : Hart) (v : Tbl View) (ha : h.asid = 1) (k : Kind) (hk : k = .load ∨ k = .write ∨ k = .atomic) (x : Word) (hx : x = 0) (i : Nat)
    (hi : i < 0x1000000) : Known (mappedW h v) k (x + BitVec.ofNat 64 i) (pageLoc + i) := run_of (mappedW h v) rfl rfl rfl ha k hk x hx i hi

/-- `SAVEPIN`: length 0; an acceptable area at a page, with no other area; a base off its page; a length just too short. -/
theorem test_savepin_cases :
    (sys []).me.sget 2 = 0 ∧
    (let s := mapped { withS base [(1, 0x40000), (2, 0x3F000)] with system := true }
     s.me.system = true ∧ 0x3F000 ≤ (s.me.sget 2).toNat ∧ (s.me.sget 1).toNat % 4096 = 0 ∧ s.otherAreas s.me.asid = [] ∧
       s.me.wait = none ∧ s.me.blk = none ∧ s.me.saveArea = none ∧
       (∀ k, k < 0x3F →
         let va := s.me.sget 1 + BitVec.ofNat 64 (4096 * k)
         canonical va = true ∧ inWindow va = false ∧ s.cached (slotQuarter s.cur) s.me.asid va = some page ∧ page.leaf.extractLsb' 5 3 ∈ [0#3, 3#3] ∧
           page.leaf.getLsbD 3 = true) ∧
       ∃ u, s.translateAll .pin (pagesOf (s.me.sget 1) 0x3F000) = .ok u) ∧
    ({ base with saveArea := some 0x80000 } : Hart).saveArea = some 0x80000 ∧
    ((mapped { base with saveArea := some 0x80000 }).areaPages 0 1 0x80000) = [page] ∧
    (let s := sys [(1, 0x40001), (2, 0x3F000), (3, 0x40000), (4, 0x3EFFF)]
     s.me.sget 2 ≠ 0 ∧ (s.me.sget 1).toNat % 4096 ≠ 0 ∧ s.me.sget 4 ≠ 0 ∧ (s.me.sget 3).toNat % 4096 = 0 ∧ (s.me.sget 4).toNat < 0x3F000) := by
  refine ⟨by decide +kernel, ⟨rfl, by decide +kernel, by decide +kernel, rfl, rfl, rfl, rfl, by decide +kernel, ⟨_, rfl⟩⟩, rfl, by decide +kernel, by decide +kernel⟩

/-- `PGPROBE`: an address that is not canonical, the ends of the windows, an address of a cached page. -/
theorem test_translation_cases :
    (sys []).recess.start = none ∧ (sys []).keepsInScope 0x3000 0 = false ∧ canonical 0x0100000000000000 = false ∧ canonical 0x00FFFE0000000000 = true ∧ canonical 0x00FFFFFFFFFFFFFF = true ∧
    (0x00FFFE0000000000 ≤ (0x00FFFFFFFFFFFFFF : Word).toNat ∧ (0x00FFFFFFFFFFFFFF : Word).toNat < 0x0100000000000000) ∧
    canonical 0xFFFFFF = true ∧ ¬(0x00FFFE0000000000 ≤ (0xFFFFFF : Word).toNat ∧ (0xFFFFFF : Word).toNat < 0x0100000000000000) ∧
    (mapped base).cached (slotQuarter 0) 1 0xFFFFFF = some page := by decide +kernel

theorem test_atomic_cases : ∃ u, (Instr.cas 1 2 3 1 1, fun old c x => if old = c then some x else none) ∈ atomicForms 1 2 3 1 1 ∧
    (let s := user [(2, slab + 8)]
     (s.me.sget 2).toNat % 8 = 0 ∧ s.access .scalar .atomic (s.me.sget 2) 8 = .ok u (slabLoc + 8) ∧ u.buffering u.cur = false ∧ QuietHome u (homeOf (slabLoc + 8))) := by
  refine ⟨user [(2, slab + 8)], by simp [atomicForms], by decide +kernel, rfl, rfl, one_quiet _ rfl rfl⟩

/-- Bytes at the slab, on path H of Q0. -/
def withBytes (s : State) (bs : List Byte) : State :=
  { s with views := [(0, ⟨Memory.putAll [] (cellsAt slabLoc bs), []⟩)] }

theorem withBytes_quiet (h : Hart) (bs : List Byte) (hc : h.clock = Clock.zero) (hs : h.satchel.wf = true) : QuietHome (withBytes (one h) bs) 0 := by
  refine ⟨⟨?_, ?_, ?_⟩, rfl, rfl, ?_, ?_⟩
  · intro v hv; simp [withBytes] at hv; rw [hv]; exact Memory.wf_putAll _ _ rfl
  · intro e he; simp [withBytes, one] at he; rw [he]; exact hs
  · intro g hg; simp [withBytes, one, State.reset] at hg
  · show Clock.le h.clock _ = true
    rw [hc]; rfl
  · intro a; rfl

/-- An open barrier of two arrivals (R320): E = 2, A = `n`, phase 5, state `st`. -/
def barrierBytes (n st : Nat) : List Byte := leBytes 32 (2 + n * 2 ^ 32 + 5 * 2 ^ 64 + st * 2 ^ 96)
def barrierState (n st : Nat) (l : List (Nat × Word)) (ar : Arrival) : State :=
  withBytes (one { withS { base with vlgrant := 2, arrival := ar } l with m := (Vector.replicate 16 0).set 3 (0b10 : MWord) }) (barrierBytes n st)

theorem test_binit_cases : ∃ u, (let s := user [(1, slab + 32), (2, 1), (3, 2 ^ 32 - 1)]
    s.buffering s.cur = false ∧ (s.me.sget 1).toNat % 32 = 0 ∧ s.access .scalar .write (s.me.sget 1) 32 = .ok u (slabLoc + 32) ∧ u.buffering u.cur = false ∧
      QuietHome u (homeOf (slabLoc + 32)) ∧ u.me.wait = none ∧ u.keysOk ∧ 1 ≤ (s.me.sget 2).toNat ∧ (s.me.sget 3).toNat < 2 ^ 32) := by
  exact ⟨user [(1, slab + 32), (2, 1), (3, 2 ^ 32 - 1)], rfl, by decide +kernel, rfl, rfl, one_quiet _ rfl rfl, rfl, one_keys _, by decide +kernel, by decide +kernel⟩

/-- Arrivals of 0, 1 and 2 elements at the barrier that has 0 or 1 of 2: nothing, one more, complete, too many. -/
theorem test_barrive_cases : ∀ n, n < 2 → ∃ u, (let s := barrierState n 1 [(1, slab)] ⟨0, 0, false⟩
    let b := Bar.of (u.viewNat 0 .h slabLoc 32)
    let k := fun (mk : MReg) => (List.range (u.me.vlgrant.toNat % 512)).countP fun j => (u.me.mget mk).getLsbD j
    s.buffering s.cur = false ∧ (s.me.sget 1).toNat % 32 = 0 ∧ s.access .scalar .atomic (s.me.sget 1) 32 = .ok u slabLoc ∧ u.buffering u.cur = false ∧
      QuietHome u (homeOf slabLoc) ∧ u.me.wait = none ∧ u.keysOk ∧ b.state = 1 ∧ b.clean = true ∧ u.group? b.group = none ∧ b.expected = 2 ∧ b.arrived = n ∧ k 1 = 0 ∧ k 3 = 1 ∧ k 0 = 2) := by
  intro n hn
  have : n = 0 ∨ n = 1 := by omega
  rcases this with rfl | rfl <;>
    exact ⟨barrierState _ 1 [(1, slab)] ⟨0, 0, false⟩, rfl, by decide +kernel, rfl, rfl, withBytes_quiet _ _ rfl rfl, rfl, one_keys _, by decide +kernel⟩

/-- `BWAIT` at no barrier, a broken one, an open one without an arrival, after the phase moved on, and in the same phase. -/
theorem test_bwait_cases : ∀ st ar, (st, ar) ∈ [(0, (⟨0, 0, false⟩ : Arrival)), (2, ⟨0, 0, false⟩), (1, ⟨0, 0, false⟩), (1, ⟨slab, 4, true⟩), (1, ⟨slab, 5, true⟩)] →
    ∃ u, (let s := barrierState 0 st [(1, slab)] ar
    s.buffering s.cur = false ∧ (s.me.sget 1).toNat % 32 = 0 ∧ s.access .scalar .load (s.me.sget 1) 32 = .ok u slabLoc ∧ u.buffering u.cur = false ∧ QuietHome u (homeOf slabLoc) ∧
      u.me.wait = none ∧
      let b := Bar.of (u.viewNat 0 .h slabLoc 32)
      b.state = st ∧ b.clean = true ∧ b.phase = 5 ∧ u.group? b.group = none ∧ u.me.arrival = ar) := by
  intro st ar hm
  simp only [List.mem_cons, Prod.mk.injEq, List.not_mem_nil, or_false] at hm
  rcases hm with ⟨rfl, rfl⟩ | ⟨rfl, rfl⟩ | ⟨rfl, rfl⟩ | ⟨rfl, rfl⟩ | ⟨rfl, rfl⟩ <;>
    exact ⟨barrierState 0 _ [(1, slab)] _, rfl, by decide +kernel, rfl, rfl, withBytes_quiet _ _ rfl rfl, rfl, by decide +kernel⟩
/-- With a grant of one element and the masks all ones at bit 0, element 0 is the one active element. -/
theorem active_zero (h : Hart) (mk : MReg) (hv : h.vl = 1) (hm : (h.mget mk).getLsbD 0 = true) (hf : h.frag.getLsbD 0 = true) :
    ∀ j, Active h mk j ↔ j = 0 := by
  intro j
  constructor
  · rintro ⟨h1, -⟩; omega
  · rintro rfl; exact ⟨by omega, hm, hf⟩

/-! ## Slates and lockets -/

/-- `SLATE`: entry 32, and entry 31 with a window of the whole satchel. -/
theorem test_slate_cases :
    (let s := user [(1, 32), (2, 31), (3, 0x1000), (4, 1024)]
     31 < (s.me.sget 1).toNat ∧ s.me.system = false ∧ cfgFmt s.me.vcfg ∈ slateFmts ∧ (s.me.sget 2).toNat ≤ 31 ∧
       (s.me.sget 3).toNat % ((cfgFmt s.me.vcfg).width / 8) = 0 ∧ 1024 % ((cfgFmt s.me.vcfg).width / 8) = 0 ∧
       (s.me.sget 4).toNat % 65536 = 1024 ∧ (s.me.sget 4).toNat / 65536 % 1024 = 0 ∧ (s.me.sget 4).toNat / 2 ^ 26 % 4 ≠ 3 ∧
       (s.me.sget 4).toNat / 2 ^ 28 = 0 ∧ s.me.slates = [] ∧ s.me.satchel.wf = true) := by decide +kernel

/-- A declared slate of two FP32 elements at the slab, its copies zero but for one in the last lane. -/
def aSlate : Slate := ⟨slab, 8, 0, 0, 7⟩
def slated : Hart := { withS base [(1, 31)] with slates := [(31, aSlate)] }
theorem test_slate_update_cases :
    (Instr.sladd 2 1 3 0, 0) ∈ slateForms 2 1 3 0 ∧ Fits slated [(2, 32), (3, 32)] ∧ (slated.operand 1).toNat < 32 ∧
    Tbl.find slated.slates (slated.operand 1).toNat = some aSlate ∧ aSlate.op = 0 ∧ aSlate.fmt = cfgCode slated.cfg ∧ cfgFmt slated.cfg ∈ slateFmts ∧
    (∀ j, Active slated 0 j → (slated.elem 3 32 j).toNat < aSlate.length / 4) ∧ (∀ k, Active slated 0 k ↔ k = 0) ∧
    SoundSatchel slated 0 4 ∧ slated.satchel.wf = true := by
  have ha := active_zero slated 0 (by decide +kernel) (by decide +kernel) (by decide +kernel)
  refine ⟨by simp [slateForms], ⟨by decide +kernel, by decide +kernel⟩, by decide +kernel, by decide +kernel, rfl, by decide +kernel, by decide +kernel,
    fun j hj => ?_, ha, fun k _ => by show _ ∉ []; simp, rfl⟩
  rw [(ha j).mp hj]; decide +kernel

def oneElement : Slate := ⟨slab, 4, 1020, 0, 7⟩
def merging (m : Memory) : Hart := { withS base [(1, 31)] with slates := [(31, oneElement)], satchel := m }
/-- `SMERGE`: an undeclared entry, one whose copies all hold the identity, one whose last lane holds another value. -/
theorem test_smerge_cases :
    ((user [(1, 32)]).buffering 0 = false ∧ 32 ≤ ((user [(1, 32)]).me.sget 1).toNat ∧ (user [(1, 32)]).me.system = false) ∧
    ∀ m, m ∈ [([] : Memory), [(1024 * 31 + 1020, 1)]] → ∃ u v, (let s := one (merging m)
      s.buffering s.cur = false ∧ (s.me.sget 1).toNat < 32 ∧ Tbl.find s.me.slates 31 = some oneElement ∧ Fmt.ofCode oneElement.fmt = some .fp32 ∧
        oneElement.op < 3 ∧ Fmt.fp32 ∈ slateFmts ∧ s.me.bad = [] ∧ s.translateAll .write (pagesOf oneElement.base oneElement.length) = .ok u ∧ oneElement.length = 4 ∧ u.access .scalar .atomic oneElement.base 4 = .ok v slabLoc ∧
        v.buffering v.cur = false ∧ oneElement.offset + 4 ≤ 1024 ∧ QuietHome v (homeOf slabLoc) ∧
        ∀ l, l < 32 → (satGet v.me.satchel l oneElement.offset 4 = identity 0 .fp32 ↔ m = [] ∨ l ≠ 31)) := by
  refine ⟨by decide +kernel, fun m hm => ?_⟩
  simp only [List.mem_cons, List.not_mem_nil, or_false] at hm
  rcases hm with rfl | rfl <;>
    exact ⟨one (merging _), one (merging _), rfl, by decide +kernel, by decide +kernel, rfl, by decide, by decide, rfl, rfl, rfl, rfl, rfl, by decide, one_quiet _ rfl (by decide +kernel),
      by decide +kernel⟩

/-- A slate of two elements: the last one's copy in the last lane alone holds another value. -/
theorem test_smerge_elements :
    (let e : Slate := ⟨slab, 8, 1016, 0, 7⟩
     let s := one { withS base [(1, 31)] with slates := [(31, e)], satchel := [(1024 * 31 + 1020, 1)] }
     (∃ u v, s.translateAll .write (pagesOf e.base e.length) = .ok u ∧ u.access .scalar .atomic (e.base + BitVec.ofNat 64 (1 * 4)) 4 = .ok v (slabLoc + 4) ∧
       v.buffering v.cur = false) ∧ Tbl.find s.me.slates 31 = some e ∧ e.offset + e.length ≤ 1024 ∧
       ∀ l, l < 32 → ∀ y, y < 2 → (satGet s.me.satchel l (e.offset + y * 4) 4 = identity 0 .fp32 ↔ (l, y) ≠ (31, 1))) := by
  refine ⟨⟨_, _, rfl, rfl, rfl⟩, rfl, by decide, by decide +kernel⟩

/-- `LKDECL`: an acceptable range on a free entry, the same range again, and length 0 on a free locket. -/
theorem test_locket_cases :
    (let s := inGroup group (withS base [(1, 63), (2, slab), (3, 0x100000000)])
     s.me.member = some member ∧ s.group? member.group = some group ∧ s.keysOk ∧ s.holdsLocket s.cur = false ∧ (s.me.sget 1).toNat ≤ 63 ∧
       GoodLocket (s.me.sget 2) (s.me.sget 3) ∧ Tbl.find group.lockets 63 = none) ∧
    (let free : Locket := { heldLocket with holder := none }
     let g := { group with lockets := [(63, free)] }
     let s := inGroup g (withS base [(1, 63), (2, slab), (3, 8)])
     s.group? member.group = some g ∧ s.holdsLocket s.cur = false ∧ GoodLocket (s.me.sget 2) (s.me.sget 3) ∧ Tbl.find g.lockets 63 = some free ∧
       free.base = s.me.sget 2 ∧ free.length = (s.me.sget 3).toNat ∧ s.me.sget 4 = 0 ∧ free.holder = none) := by
  unfold GoodLocket State.keysOk rises; decide +kernel

theorem test_buffered_store_cases : ∃ u, (Instr.sd 1 2 0, 8) ∈ storeForms 1 2 0 ∧
    (let s := inGroup holding (withS base [(2, slab)])
     (address s 2 0).toNat % 8 = 0 ∧ s.access .scalar .write (address s 2 0) 8 = .ok u slabLoc ∧ u.buffering u.cur = true ∧ u.me.spill = [] ∧
       u.linesUsed (slotCore u.cur) < 1024 ∧ slabLoc % 8 = 0) := by
  exact ⟨_, by decide, by decide +kernel, rfl, by decide +kernel, rfl, by decide +kernel, by decide⟩

/-- A store that touches the one locket of its group: free, and held by a younger member in slot 4. -/
theorem test_touch_cases :
    (let l : Locket := { heldLocket with holder := none }
     let g := { group with lockets := [(0, l)] }
     let s := inGroup g (withS base [(2, slab)])
     (Instr.sd 1 2 0, 8) ∈ storeForms 1 2 0 ∧ (address s 2 0).toNat % 8 = 0 ∧ s.me.member = some member ∧ s.group? member.group = some g ∧
       g.touched (address s 2 0).toNat 8 = [(0, l)] ∧ Tbl.find g.lockets 0 = some l ∧ (∃ v, s.translateMe .write (address s 2 0) = .ok v slabLoc) ∧
       l.holder = none ∧ l.waiters = [] ∧ s.otherIrrevocable g member = false ∧ s.recess.start = none ∧ s.soft = [] ∧ s.me.bad = [] ∧
       ∃ u, s.access .scalar .write (address s 2 0) 8 = .ok u slabLoc) ∧
    (let o : MemberId := ⟨1, 0, 1⟩
     let l : Locket := { heldLocket with holder := some o }
     let g := { group with n := 2, lockets := [(0, l)], members := [(0, ⟨.running 0, 0, none, 0, none⟩), (o.key, ⟨.running 4, 0, none, 4, none⟩)] }
     let s := { inGroup g (withS base [(2, slab)]) with
       harts := [(0, { withS base [(2, slab)] with member := some member }), (4, { base with member := some o, task := ⟨9, false, false, false⟩ })] }
     s.me.member = some member ∧ s.group? member.group = some g ∧ g.touched (address s 2 0).toNat 8 = [(0, l)] ∧ Tbl.find g.lockets 0 = some l ∧
       (∃ v, s.translateMe .write (address s 2 0) = .ok v slabLoc) ∧ l.holder = some o ∧ o ≠ member ∧ o.group = member.group ∧
       Tbl.find g.members o.key = some ⟨.running 4, 0, none, 4, none⟩ ∧ 4 ≠ s.cur ∧ (s.hart 4).run = .running ∧
       s.me.task.stamp < (s.hart 4).task.stamp) := by
  refine ⟨⟨by decide, by decide +kernel, rfl, rfl, by decide +kernel, rfl, ⟨_, rfl⟩, rfl, rfl, by decide +kernel, rfl, rfl, rfl, _, rfl⟩, rfl, rfl,
    by decide +kernel, rfl, ⟨_, rfl⟩, rfl, by decide, rfl, by decide +kernel, by decide, rfl, by decide +kernel⟩

/-! ## Vector words -/

def vec (cfg : Word) (vl : Word) : Hart := { base with vcfg := cfg, vlgrant := vl }

/-- The arithmetic forms in FP32 and INT64, on the last register that fits; every form accepts the first. -/
theorem test_vector_arith_cases :
    (∀ a, a ∈ arithForms 31 31 31 0 0 1 → Fits (vec 0x1007 2) ((31 :: a.srcs).map fun r => (r, 32)) ∧ cfgFmt (vec 0x1007 2).cfg ∈ a.fmts) ∧
    cfgFmt (vec 0x1004 2).cfg ∈ intFmts ∧ Fits (vec 0x1004 2) [(31, 64), (31, 64), (31, 64)] := by
  unfold Fits
  refine ⟨?_, by decide +kernel, by decide +kernel⟩
  intro a ha
  simp only [arithForms, List.mem_cons, List.not_mem_nil, or_false] at ha
  rcases ha with rfl | rfl | rfl | rfl | rfl | rfl | rfl | rfl <;> exact ⟨⟨by decide +kernel, by decide +kernel⟩, by decide +kernel⟩

theorem test_vector_scale_cases :
    (let h := withV (vec 0x1007 1) [(2, 0xFF), (1, 0x3F800000)]
     Fits h [(3, 32), (1, 32), (2, 32)] ∧ cfgFmt h.cfg ∈ ieeeFmts ∧ (h.elem 2 32 0).toNat % 256 = 0xFF ∧ isNaNElem .fp32 (h.elem 1 32 0) = false ∧
       cfgFmt h.cfg ∈ signFmts) ∧ cfgFmt (vec 0x100C 1).cfg ∈ signFmts ∧ (Instr.vneg 1 2 0 0) ∈ (signForms 1 2 0 0).map (·.1) := by
  unfold Fits; decide +kernel

theorem test_vector_bits_cases :
    (∀ e, e ∈ bitForms 31 31 31 0 0 → Fits (vec 0x1003 2) ((31 :: e.2.1).map fun r => (r, 32)) ∧ cfgFmt (vec 0x1003 2).cfg ∈ intFmts) := by
  intro e he
  simp only [bitForms, List.mem_cons, List.not_mem_nil, or_false] at he
  rcases he with rfl | rfl | rfl | rfl | rfl | rfl | rfl | rfl | rfl <;> exact ⟨⟨by decide +kernel, by decide +kernel⟩, by decide +kernel⟩

/-- `VCVT` from FP64 under RTO to FP32: two registers hold the source of one register's elements. -/
theorem test_vector_convert_cases : Fmt.ofCode 8 = some .fp64 ∧ (5 : BitVec 3).toNat ≤ 5 ∧ cfgFmt (vec 0x1007 1).cfg ∈ [Fmt.fp32, .fp16, .bf16, .e4m3, .e5m2] ∧
    cfgFmt (vec 0x1007 1).cfg ≠ .fp64 ∧ Fits (vec 0x1007 1) [(31, 32), (30, 64)] := by
  unfold Fits; decide +kernel

/-- Compares of FP32 with a quiet NaN and of an infinity with a number, and of integers as unsigned containers, into M1 and into M15. -/
theorem test_vector_compare_cases :
    (let h := withV (vec 0x1007 1) [(1, 0x7FC00000), (2, 0x3F800000)]
     Fits h [(1, 32), (2, 32)] ∧ cfgFmt h.cfg ∈ cmpFmts ∧ isNaNElem .fp32 (h.elem 1 32 0) = true ∧ (1 : MReg) ≠ 0 ∧
       (1 : MReg).toNat ≠ 11 + (3 : BitVec 2).toNat ∧
       placed .fp32 0x7F800000 0x3F800000 = 1 ∧ placed .fp32 0x3F800000 0x7F800000 = 0 ∧ placed .fp32 0xFF800000 0x3F800000 = -1) ∧
    (cfgFmt (vec 0x1000 1).cfg ∈ intFmts ∧ (15 : MReg).toNat ≠ 11 + (3 : BitVec 2).toNat) := by
  refine ⟨⟨⟨by decide +kernel, by decide +kernel⟩, by decide +kernel, by decide +kernel, by decide, by decide, by decide +kernel, by decide +kernel,
    by decide +kernel⟩, by decide +kernel⟩

/-- Masks: no bit set below VL, and bit 1 the lowest. -/
theorem test_mask_cases :
    (let h := { vec 0x1007 2 with m := (Vector.replicate 16 0).set 3 (0b110 : MWord) }
     h.velem.getLsbD 15 = false ∧ (∀ j, j < h.vl → (h.mget 1).getLsbD j = false) ∧ 1 < h.vl ∧ (h.mget 3).getLsbD 1 = true ∧
       (h.mget 3).getLsbD 0 = false) := by decide +kernel

theorem test_vector_move_cases : Fits (vec 0x1007 2) [(31, 32)] ∧ Fits (vec 0x1007 2) [(31, 32), (0, 32), (30, 32)] ∧ cfgFmt (vec 0x1007 2).cfg ∈ cmpFmts := by
  unfold Fits; decide +kernel

/-- Reductions: integers and floats; for `VREDMINI` the lower of two equal elements, and no element at all. -/
theorem test_reduction_cases :
    (let h := vec 0x1003 2
     Fits h [(31, 32)] ∧ cfgFmt h.cfg ∈ intFmts ∧ h.fmode.getLsbD 2 = false ∧ cfgFmt (vec 0x1007 2).cfg ∈ ieeeFmts ∧ Active h 0 0 ∧
       (∀ i, Active h 0 i → asInt .int32 (h.elem 31 32 0) ≤ asInt .int32 (h.elem 31 32 i)) ∧ ∀ j, ¬Active (vec 0x1003 0) 0 j) := by
  refine ⟨⟨by decide +kernel, by decide +kernel⟩, by decide +kernel, by decide +kernel, by decide +kernel, ⟨by decide +kernel, by decide +kernel, by decide +kernel⟩, ?_, ?_⟩
  · rintro i ⟨hi, -⟩
    have : i = 0 ∨ i = 1 := by have : (vec 0x1003 2).vl = 2 := by decide +kernel
                               omega
    rcases this with rfl | rfl <;> decide +kernel
  · rintro j ⟨hj, -⟩
    have : (vec 0x1003 0).vl = 0 := by decide +kernel
    omega

/-- `VREDMINI` of FP32: −0 lies below the +0 before it; a NaN in element 0; an infinite minimum. -/
theorem test_minimum_cases :
    (let h := withV (vec 0x1007 2) [(31, 0x8000000000000000)]
     cfgFmt h.cfg = .fp32 ∧ Active h 0 0 ∧ Active h 0 1 ∧ isNaNElem .fp32 (h.elem 31 32 0) = false ∧ isNaNElem .fp32 (h.elem 31 32 1) = false ∧
       ¬placed .fp32 (h.elem 31 32 0) (h.elem 31 32 1) < placed .fp32 (h.elem 31 32 1) (h.elem 31 32 0) ∧
       (decodeNum .fp32 (h.elem 31 32 0)).isZero = true ∧ (decodeNum .fp32 (h.elem 31 32 1)).isZero = true ∧
       (decodeNum .fp32 (h.elem 31 32 0)).neg = false ∧ (decodeNum .fp32 (h.elem 31 32 1)).neg = true ∧ infSide .fp32 (h.elem 31 32 1) = 0) ∧
    (let h := withV (vec 0x1007 2) [(31, 0x7FC00000)]
     isNaNElem .fp32 (h.elem 31 32 0) = true ∧ ∀ j, j < 2 → (decodeNum .fp32 (h.elem 31 32 j)).isSignal = false) ∧
    infSide .fp32 0xFF800000 ≠ 0 := by
  unfold Active; decide +kernel

/-- A group of two registers at V31, and a format that the arithmetic refuses. -/
theorem test_vector_trap_cases :
    (32 < (31 : VReg).toNat + groupSize (min 256 (2048 / (cfgFmt (vec 0x1017 1).cfg).width * cfgSpan (vec 0x1017 1).cfg)) (cfgFmt (vec 0x1017 1).cfg).width) ∧
    (∃ a w, a ∈ arithForms 31 0 0 0 0 0 ∧ encode a.instr = some w ∧ (31 : VReg) ∈ 31 :: a.srcs ∧ cfgFmt (vec 0x1009 1).cfg ∉ a.fmts ∧
      Fits (vec 0x1009 1) ((31 :: a.srcs).map fun r => (r, 8))) ∧ (one (vec 0x1017 1)).me.system = false := by
  refine ⟨by decide +kernel, ⟨_, _, List.mem_cons_self .., rfl, by decide, by decide +kernel, by decide +kernel, by decide +kernel⟩, rfl⟩

/-! ## Vector memory -/

/-- Element 0 alone is acted on, by every form, at the first byte of the page. -/
def memH (cfg : Word) : Hart := vec cfg 1
theorem picked_zero (cfg : Word) (j : Nat) (h : Picked (memH cfg) 0 j) : j = 0 := by
  obtain ⟨⟨hj, -⟩, -⟩ := h
  have : (memH cfg).vl = 1 := by rfl
  omega

theorem memH_known (h : Hart) (ha : h.asid = 1) (k : Kind) (hk : k = .load ∨ k = .write ∨ k = .atomic) (x : Word) (hx : x = 0) :
    Known (mapped h) k x pageLoc := by
  have := page_known h [] ha k hk x (by subst hx; decide)
  rwa [show pageLoc + x.toNat = pageLoc from by subst hx; rfl] at this

theorem test_vector_load_cases : ∀ a, a ∈ vectorLoads (mapped (memH 0x1007)).me 4 1 2 6 0 →
    Fits (memH 0x1007) (a.groups .fp32 4) ∧ a.apart (memH 0x1007) .fp32 4 ∧ cfgFmt (memH 0x1007).cfg ≠ .l6 ∧ Calm (mapped (memH 0x1007)) ∧
    (∃ j, Picked (memH 0x1007) 0 j) ∧
    ∀ j, Picked (memH 0x1007) 0 j → (a.addr j).toNat % 4 = 0 ∧ Known (mapped (memH 0x1007)) .load (a.addr j) pageLoc := by
  intro a ha
  have hp : Picked (memH 0x1007) 0 0 := ⟨⟨by decide +kernel, by decide +kernel, by decide +kernel⟩, by decide +kernel⟩
  have calm := mapped_calm (memH 0x1007) [] rfl rfl rfl rfl rfl
  simp only [vectorLoads, List.mem_cons, List.not_mem_nil, or_false] at ha
  rcases ha with rfl | rfl | rfl | rfl <;>
    refine ⟨⟨by decide +kernel, by decide +kernel⟩, ?_, by decide +kernel, calm, ⟨0, hp⟩, fun j hj => ?_⟩ <;>
    first
      | (rw [picked_zero _ j hj]; exact ⟨by decide +kernel, memH_known _ rfl _ (.inl rfl) _ (by decide +kernel)⟩)
      | (intro i hi; injection hi with e; subst e; decide +kernel)
      | (intro i hi; nomatch hi)

/-- Stores of FP32; packed E2M1 of a whole byte, and of one nibble. -/
theorem test_vector_store_cases :
    (∀ a, a ∈ vectorStores (mapped (memH 0x1007)).me 4 1 2 6 0 →
      Fits (memH 0x1007) (a.1.groups .fp32 4) ∧ Calm (mapped (memH 0x1007)) ∧ picked (memH 0x1007) 0 = [0] ∧ (a.1.addr 0).toNat % 4 = 0 ∧
        Known (mapped (memH 0x1007)) .write (a.1.addr 0) pageLoc) ∧
    picked (vec 0x100B 2) 0 = [0, 1] ∧ cfgFmt (vec 0x100B 2).cfg = .e2m1 ∧ Known (mapped (vec 0x100B 2)) .write (unitAt (vec 0x100B 2) 1 1) pageLoc ∧
    (∀ i, 2 * i ∈ [0, 1] ↔ 2 * i + 1 ∈ [0, 1]) ∧ picked (memH 0x100B) 0 = [0] ∧ QuietHome (mapped (memH 0x100B)) (homeOf pageLoc) := by
  refine ⟨?_, by decide +kernel, by decide +kernel, ?_, ?_, by decide +kernel, ?_⟩
  · intro a ha
    have calm := mapped_calm (memH 0x1007) [] rfl rfl rfl rfl rfl
    simp only [vectorStores, List.mem_cons, List.not_mem_nil, or_false] at ha
    rcases ha with rfl | rfl | rfl | rfl <;>
      exact ⟨⟨by decide +kernel, by decide +kernel⟩, calm, by decide +kernel, by decide +kernel, memH_known _ rfl _ (.inr (.inl rfl)) _ (by decide +kernel)⟩
  · exact memH_known _ rfl _ (.inr (.inl rfl)) _ (by decide +kernel)
  · intro i; simp
  · exact mapped_quiet _ rfl rfl _ (by decide +kernel)

/-- The vector atomics on one INT32 element, the compare-and-swap among them; a wait that is met and one that is not. -/
theorem test_vector_atomic_cases :
    Fits (memH 0x1003) [(30, 32), (6, 32)] ∧ (30 : VReg) ≠ 31 ∧ min 256 (2048 / (cfgFmt (memH 0x1003).cfg).width * cfgSpan (memH 0x1003).cfg) * 32 ≤ 2048 ∧
    cfgFmt (memH 0x1003).cfg ∈ [Fmt.int32, .int64] ∧ Calm (mapped (memH 0x1003)) ∧ picked (mapped (memH 0x1003)).me 0 = [0] ∧
    (indexAt (memH 0x1003) 1 6 0).toNat % 4 = 0 ∧ Known (mapped (memH 0x1003)) .atomic (indexAt (memH 0x1003) 1 6 0) pageLoc ∧
    QuietHome (mapped (memH 0x1003)) (homeOf pageLoc) := by
  refine ⟨⟨by decide +kernel, by decide +kernel⟩, by decide, by decide +kernel, by decide +kernel, mapped_calm _ _ rfl rfl rfl rfl rfl, by decide +kernel, by decide +kernel,
    memH_known _ rfl _ (.inr (.inr rfl)) _ (by decide +kernel), mapped_quiet _ rfl rfl _ (by decide +kernel)⟩

theorem test_vector_wait_cases :
    (let h := memH 0x1003
     let s := mapped h
     Fits h [(4, 32), (6, 32)] ∧ cfgFmt h.cfg ∈ intFmts ∧ Calm s ∧ Active h 0 0 ∧
       (∀ j, Active h 0 j → (indexAt h 1 6 j).toNat % 4 = 0 ∧ Known s .load (indexAt h 1 6 j) pageLoc) ∧
       s.viewNat 0 .h pageLoc 4 = (h.elem 4 32 0).toNat ∧ ¬s.viewNat 0 .h pageLoc 4 ≠ (h.elem 4 32 0).toNat) := by
  have hz := active_zero (memH 0x1003) 0 (by decide +kernel) (by decide +kernel) (by decide +kernel)
  refine ⟨⟨by decide +kernel, by decide +kernel⟩, by decide +kernel, mapped_calm _ _ rfl rfl rfl rfl rfl, (hz 0).mpr rfl, fun j hj => ?_, by decide +kernel, by decide +kernel⟩
  rw [(hz j).mp hj]
  exact ⟨by decide +kernel, memH_known _ rfl _ (.inl rfl) _ (by decide +kernel)⟩
/-! ## Satchels, spill frames, vector control -/

/-- A satchel access at the end of the window, and one that begins there. -/
theorem test_satchel_cases :
    (let h := withS (vec 0x1007 1) [(1, 1020)]
     Fits h [(31, 32), (6, 32)] ∧ (∀ j, Picked h 0 j → (indexAt h 1 6 j).toNat % 4 = 0 ∧ (indexAt h 1 6 j).toNat + 4 ≤ 1024) ∧ h.satchel.wf = true) ∧
    (let h := withS (vec 0x1007 1) [(1, 1024)]
     Picked h 0 0 ∧ ¬((indexAt h 1 6 0).toNat % 4 = 0 ∧ (indexAt h 1 6 0).toNat + 4 ≤ 1024) ∧ h.system = false ∧
       ∀ k, Picked h 0 k → (indexAt h 1 6 0).toNat ≤ (indexAt h 1 6 k).toNat) := by
  refine ⟨⟨⟨by decide +kernel, by decide +kernel⟩, ?_, rfl⟩, ⟨⟨by decide +kernel, by decide +kernel, by decide +kernel⟩, by decide +kernel⟩, by decide +kernel, rfl, ?_⟩
  · rintro j ⟨hj, -⟩
    rw [(active_zero _ 0 (by decide +kernel) (by decide +kernel) (by decide +kernel) j).mp hj]; decide +kernel
  · rintro k ⟨hk, -⟩
    rw [(active_zero _ 0 (by decide +kernel) (by decide +kernel) (by decide +kernel) k).mp hk]

/-- Bytes at the page. -/
def pageBytes (bs : List Byte) : Tbl View := [(0, ⟨Memory.putAll [] (cellsAt pageLoc bs), []⟩)]

theorem test_spill_cases :
    (let h := vec 0x1007 2
     h.velem.getLsbD 15 = false ∧ (scalarOperand h 1).toNat % 16 = 0 ∧ Calm (mapped h) ∧ Fits h [(31, 32)] ∧
       ∀ i, i < 16 + h.vl * 4 → Known (mapped h) .write (scalarOperand h 1 + BitVec.ofNat 64 i) (pageLoc + i)) ∧
    (let h := vec 0x1007 2
     let s := mappedW h (pageBytes (leBytes 16 0x7002))
     s.viewNat (slotQuarter s.cur) .h pageLoc 8 = 0x7002 ∧ Fmt.ofCode (BitVec.ofNat 4 (0x7002 / 2 ^ 12)) = some .fp32 ∧ 0x7002 / 2 ^ 9 % 8 = 0 ∧
       0x7002 < 2 ^ 18 ∧ s.viewNat (slotQuarter s.cur) .h (pageLoc + 8) 8 = 0 ∧ 0x7002 % 2 ^ 9 ≤ min 256 (2048 / 32 * 2 ^ (0x7002 / 2 ^ 16 % 4)) ∧
       (31 : VReg).toNat + groupSize (min 256 (2048 / 32 * 2 ^ (0x7002 / 2 ^ 16 % 4))) 32 ≤ 32 ∧
       ∀ i, i < 16 + 2 * 4 → Known s .load (scalarOperand h 1 + BitVec.ofNat 64 i) (pageLoc + i)) := by
  have hvl : (vec 0x1007 2).vl = 2 := by decide +kernel
  refine ⟨⟨by decide +kernel, by decide +kernel, mapped_calm _ _ rfl rfl rfl rfl rfl, ⟨by decide +kernel, by decide +kernel⟩, fun i hi => ?_⟩,
    by decide +kernel, by decide +kernel, by decide, by decide, by decide +kernel, by decide, by decide +kernel, fun i hi => ?_⟩
  · exact page_run _ _ rfl _ (.inr (.inl rfl)) _ (by decide +kernel) i (by omega)
  · exact page_run _ _ rfl _ (.inl rfl) _ (by decide +kernel) i (by omega)

theorem test_vector_control_cases : (user []).me.preempt = [] ∧ (user []).donation = none ∧ (sys []).me.system = true ∧ (sys []).donation = none := by
  decide +kernel

def inBlock (b : Block) (m1 : MWord) : Hart := { vec 0x1007 2 with blk := some b, m := (Vector.replicate 16 0).set 1 m1 }
/-- A block of two elements, in a `VLOOP` of the trips given, with so many pending fragments. -/
def aBlock (loop : Option Word) (trips n : Nat) : Block := { block with vl := 2, loop := loop, trips := trips, pending := List.replicate n (0x2040, 1) }

/-- `VB` and `VSTOP`: outside a block; no element leaves, all leave, one of two leaves with 7 and with 8 pending; a pending fragment,
the last trip, a trip more. The branch target is the last word of the body. -/
theorem test_vector_branch_cases :
    ((user []).me.blk = none ∧ (user []).me.system = false) ∧
    (let goes := fun (m : MWord) (j : Nat) => j < (aBlock none 1 0).vl ∧ (aBlock none 1 0).frag.getLsbD j = true ∧ m.getLsbD j = true
     let stays := fun (m : MWord) (j : Nat) => j < (aBlock none 1 0).vl ∧ (aBlock none 1 0).frag.getLsbD j = true ∧ m.getLsbD j = false
     (inBlock (aBlock none 1 7) 0b01).velem.getLsbD 15 = false ∧ (∀ j, ¬goes 0b00 j) ∧ (∃ j, goes 0b11 j) ∧ (∀ j, ¬stays 0b11 j) ∧ goes 0b01 0 ∧ stays 0b01 1 ∧
       (inBlock (aBlock none 1 7) 0b01).mget 1 = 0b01) ∧
    (aBlock none 1 7).pending.length < 8 ∧ 8 ≤ (aBlock none 1 8).pending.length ∧ (aBlock none 1 1).pending = (0x2040, 1) :: [] ∧
    ((aBlock (some 0x2000) 1 0).pending = [] ∧ (aBlock (some 0x2000) 1 0).trips ≤ 1) ∧ 1 < (aBlock (some 0x2000) 2 0).trips ∧
    (aBlock (some 0x2000) 2 0).implied = false ∧
    (let target : Word := 0x2000 + BitVec.ofInt 64 (4 * (63 : BitVec 16).toInt)
     (target - 0x2000).toNat < 256 ∧ (target - 0x2000).toNat % 4 = 0) := by
  refine ⟨by decide +kernel, ⟨by decide +kernel, ?_, ⟨0, by decide +kernel⟩, ?_, by decide +kernel, by decide +kernel, by decide +kernel⟩, by decide +kernel⟩
  · rintro j ⟨-, -, h⟩; simp at h
  · rintro j ⟨h1, -, h2⟩
    have h1 : j < 2 := h1
    interval_cases j <;> revert h2 <;> decide

/-! ## Polynomial registers -/

/-- Descriptors: dimension 1 with 64 elements under limit 15, dimension 2 with one. -/
def desc1 : Word := 0x400F01
def desc2 : Word := 0x010F02
def polyH (l : List (Nat × Word)) : Hart := { vec 0x1007 2 with d := l.foldl (fun v e => v.setIfInBounds e.1 e.2) (Vector.replicate 16 desc1) }

/-- `PSETD`: the largest counts of both dimensions; a count too large, a reserved bit. `PSETVL` of a register at reset. -/
theorem test_poly_descriptor_cases : (user []).me.velem.getLsbD 15 = false ∧ GoodDesc desc1 ∧ descSpare desc1 = 0 ∧ GoodDesc 0x040F02 ∧ ¬GoodDesc 0x410F01 ∧ ¬GoodDesc 0x050F02 ∧ descSpare 0x0F05 ≠ 0 ∧
    dDim ((user []).me.dget 1) = 1 ∧ dDeg ((user []).me.dget 1) ≤ dLim ((user []).me.dget 1) ∧ (user []).me.system = false := by
  unfold GoodDesc; decide +kernel

theorem test_poly_memory_cases :
    (let h := polyH []
     let s := mappedW h (pageBytes (leBytes 16 0x010F02))
     (s.me.sget 1).toNat % 16 = 0 ∧ Calm s ∧ s.me.velem.getLsbD 15 = false ∧ BitVec.ofNat 64 (s.viewNat (slotQuarter s.cur) .h pageLoc 8) = desc2 ∧ GoodDesc desc2 ∧ descSpare desc2 = 0 ∧
       s.viewNat (slotQuarter s.cur) .h (pageLoc + 8) 8 = 0 ∧
       (∀ i, i < 16 + 4 * dCount desc2 * (dDeg desc2 + 1) ^ dDim desc2 → Known s .load (s.me.sget 1 + BitVec.ofNat 64 i) (pageLoc + i)) ∧
       ∀ i, i < 16 + 4 * ((List.range (dCount (h.dget 1))).flatMap fun e => (h.polySrc 1 e).flatten).length →
         Known s .write (s.me.sget 1 + BitVec.ofNat 64 i) (pageLoc + i)) := by
  have hn : ((List.range (dCount ((polyH []).dget 1))).flatMap fun e => ((polyH []).polySrc 1 e).flatten).length < 0x1000 := by decide +kernel
  refine ⟨by decide +kernel, mapped_calm _ _ rfl rfl rfl rfl rfl, by decide +kernel, by decide +kernel, by unfold GoodDesc; decide +kernel, by decide +kernel, by decide +kernel,
    fun i hi => page_run _ _ rfl _ (.inl rfl) _ (by decide +kernel) i ?_, fun i hi => page_run _ _ rfl _ (.inr (.inl rfl)) _ (by decide +kernel) i (by omega)⟩
  have : dCount desc2 * (dDeg desc2 + 1) ^ dDim desc2 = 1 := by decide +kernel
  have : dCount desc2 = 1 := by decide +kernel
  have : (dDeg desc2 + 1) ^ dDim desc2 = 1 := by decide +kernel
  rw [this] at hi; omega

/-- Every form that writes a polynomial register, in dimension 1, and the trace of dimension 2. -/
theorem test_poly_form_cases :
    (polyH []).velem.getLsbD 15 = false ∧
    (∀ a, a ∈ polyForms (polyH []) 1 2 3 4 0 0 15 0 0 → a.instr ≠ .ptrace 1 0 2 0 0 →
      (∀ p, p ∈ 1 :: a.srcs → GoodDesc ((polyH []).dget p)) ∧ (∀ p, p ∈ a.srcs → dCount ((polyH []).dget 1) ≤ dCount ((polyH []).dget p)) ∧ a.ok) ∧
    (let h := polyH [(1, 0x010F01), (2, desc2)]
     (∀ p, p ∈ [(1 : PReg), 2] → GoodDesc (h.dget p)) ∧ dCount (h.dget 1) ≤ dCount (h.dget 2) ∧ dDim (h.dget 2) = 2 ∧ dDim (h.dget 1) = 1 ∧
       dBasis (h.dget 1) = dBasis (h.dget 2) ∧ (∃ i, i < dCount (h.dget 1) ∧ (h.mget 0).getLsbD i = true) ∧ ∃ i, i < dCount (h.dget 1) ∧ ¬(h.mget 1).getLsbD i = true) := by
  refine ⟨by decide +kernel, ?_, ?_⟩
  · intro a ha hne
    simp only [polyForms, List.mem_cons, List.not_mem_nil, or_false] at ha
    rcases ha with rfl | rfl | rfl | rfl | rfl | rfl | rfl | rfl | rfl | rfl | rfl | rfl | rfl | rfl | rfl | rfl <;>
      first
        | exact absurd rfl hne
        | (refine ⟨?_, ?_, ?_⟩ <;> simp only [GoodDesc, Alike] <;> decide +kernel)
  · unfold GoodDesc; decide +kernel

theorem test_poly_value_cases : ∀ a, a ∈ polyValues (polyH []) 2 1 0 0 → GoodDesc ((polyH []).dget 1) ∧ a.ok := by
  intro a ha
  simp only [polyValues, List.mem_cons, List.not_mem_nil, or_false] at ha
  rcases ha with rfl | rfl | rfl | rfl | rfl <;> (refine ⟨by unfold GoodDesc; decide +kernel, ?_⟩; trivial)

/-- The checks in their order: an invalid dimension, two bases, a source one element short. -/
theorem test_poly_check_cases :
    (one { polyH [] with velem := 0x8001 }).me.velem.getLsbD 15 = true ∧ (one (polyH [])).me.velem.getLsbD 15 = false ∧ (one (polyH [])).me.system = false ∧
    ¬GoodDesc ((polyH [(2, 0x0F00)]).dget 2) ∧
    (let h := polyH [(2, 0x401F01)]
     GoodDesc (h.dget 2) ∧ GoodDesc (h.dget 1) ∧ ¬Alike h 2 1) ∧
    (let h := polyH [(2, 0x3F0F01)]
     GoodDesc (h.dget 2) ∧ Alike h 2 1 ∧ Alike h 3 1 ∧ dCount (h.dget 2) < dCount (h.dget 1)) := by
  unfold GoodDesc Alike; decide +kernel
/-! ## The matrix array and the tiles -/

/-- An array that nobody owns, and one that the hart owns. -/
def owned (h : Hart) : State := { one h with cores := [(0, { Core.reset with owner := some 0 })] }

/-- `WLOAD`: the last panel of weight space; E2M1 with the last scales of a page. -/
theorem test_weight_load_cases :
    ArrayOpen (user []) ∧ ArrayOpen (owned base) ∧
    (let s := user [(1, 0x1FFF000), (2, 0x1FFF03C)]
     mcls 11 ≠ none ∧ (s.me.sget 1).toNat % 4096 = 0 ∧ (s.me.sget 1).toNat < 2 ^ 25 ∧ weightScales 11 = 4 ∧ (s.me.sget 2).toNat < 2 ^ 25 ∧
       (s.me.sget 2).toNat / 64 % 64 = 0 ∧ (s.me.sget 2).toNat % 64 % 4 = 0 ∧ s.recess.start = none ∧ s.soft = []) := by
  unfold ArrayOpen; decide +kernel

/-- `MMA` of INT8 rows against the INT8 latch of an acquisition, in the last register; `MOPA` of each of its formats. -/
theorem test_matrix_cases :
    ArrayOpen (one (vec 0x1000 64)) ∧ (vec 0x1000 64).wait = none ∧
    (31 : VReg).toNat + (min 32 ((vec 0x1000 64).vlgrant.toNat % 512 * 8 / 512) + 3) / 4 ≤ 32 ∧ mcls 0 ≠ none ∧
    mcls 0 = mcls (frontOf (one (vec 0x1000 64))).fmt ∧ Fmt.ofCode 0 = some .int8 ∧ (vec 0x1000 64).fmode.getLsbD 2 = false ∧
    (∀ c : BitVec 4, c ∈ [(5 : BitVec 4), 6, 7, 0, 1, 2] → ∃ f, Fmt.ofCode c = some f ∧ f ∈ [Fmt.fp16, .bf16, .fp32, .int8, .uint8, .int16]) := by
  unfold ArrayOpen
  refine ⟨by decide +kernel, rfl, by decide +kernel, by decide +kernel, by decide +kernel, by decide +kernel, by decide +kernel, ?_⟩
  intro c hc
  simp only [List.mem_cons, List.not_mem_nil, or_false] at hc
  rcases hc with rfl | rfl | rfl | rfl | rfl | rfl <;> exact ⟨_, rfl, by decide⟩

theorem test_tile_row_cases :
    (let s := user [(1, 31), (2, 32)]
     (s.me.sget 1).toNat < 32 ∧ 32 ≤ (s.me.sget 2).toNat ∧ s.me.system = false ∧ Fmt.ofCode 8 = some .fp64 ∧ Fmt.fp64 ≠ .e8m0 ∧ Fmt.fp64 ≠ .s12 ∧
       Fmt.fp64.width = 64 ∧ (30 : VReg) ≠ 31 ∧ (encode (.zcvt 31 0 1 8)).isSome = true ∧ Fmt.ofCode 13 = some .e8m0 ∧
       (encode (.zcvt 31 0 2 13)).isSome = true ∧ Fmt.ofCode 7 = some .fp32 ∧ (encode (.zcvt 31 0 2 7)).isSome = true) := by decide +kernel

/-- A descriptor of one row of tile 0, one INT8 panel at 0, K length 64 (R211); the tile is ready. -/
def tgemmDesc : BitVec 256 := 0x4000000000 <<< 64 ||| 0x10100
def readyTile : Tile := { Tile.free with state := .ready, size := 4096 }
def tgemmState (h : Hart) (o : Option Nat) : State :=
  { mappedW h (pageBytes (leBytes 32 tgemmDesc.toNat)) with cores := [(0, { Core.reset with owner := o, tiles := [(0, readyTile)] })] }

theorem test_tgemm_cases :
    (let s := tgemmState base none
     let d := Desc.of (BitVec.ofNat 256 (s.viewNat (slotQuarter s.cur) .h pageLoc 32))
     Calm s ∧ s.me.velem = 0 ∧ (s.me.sget 1).toNat % 32 = 0 ∧ Known s .load (s.me.sget 1) pageLoc ∧ ArrayOpen s ∧ mcls 0 ≠ none ∧ mcls 0 = mcls d.wfmt ∧
       d.bad = false ∧ ((s.core 0).tile d.tile).state ≠ .free ∧ s.foreignTile ((s.core 0).tile d.tile) = false ∧
       d.aOff + (d.panels - 1) * d.aStride + 64 * d.rows ≤ ((s.core 0).tile d.tile).size) ∧
    (let s := tgemmState { base with wait := some ⟨.tile tgemmDesc, .tgemm 0 1 0 0, [], 0⟩, velem := 1 } (some 0)
     let d := Desc.of tgemmDesc
     s.me.wait = some ⟨.tile tgemmDesc, .tgemm 0 1 0 0, [], 0⟩ ∧ s.recess.start = none ∧ s.soft = [] ∧ (s.core 0).owner = some s.cur ∧ (s.core 0).flight = none ∧ 1 ≤ s.me.velem.toNat ∧
       s.me.velem.toNat ≤ d.panels ∧ d.rows ≤ 32 ∧ ((s.core 0).tile d.tile).state = .ready ∧ s.foreignTile ((s.core 0).tile d.tile) = false) := by
  refine ⟨⟨calm_of _ rfl rfl rfl rfl rfl rfl rfl rfl rfl, by decide +kernel, by decide +kernel, ?_, ?_, by decide +kernel⟩, by decide +kernel⟩
  · have := run_of (tgemmState base none) rfl rfl rfl rfl .load (.inl rfl) ((tgemmState base none).me.sget 1) (by decide +kernel) 0 (by decide)
    simpa using this
  · unfold ArrayOpen; decide +kernel

/-- Tiles of a group: entry 63 free, empty, ready; a full slab. -/
def tileState (tl : Tbl Tile) (l : List (Nat × Word)) : State := { inGroup group (withS base l) with cores := [(0, { Core.reset with tiles := tl })] }
def groupTile (st : TileState) (size : Nat) : Tile := { Tile.free with state := st, group := some 1, size := size, taker := if st = .ready then some 0 else none }

theorem test_talloc_cases :
    (let s := tileState [] [(1, 65536), (2, 4096)]
     4096 ≤ (s.me.sget 2).toNat ∧ (s.me.sget 1).toNat ≤ 65536 ∧ (s.me.sget 1).toNat % 4096 = 0 ∧ ((s.core 0).tile 63).state = .free ∧ FreeRun s 0 65536) ∧
    ∀ b, b % 4096 = 0 → ¬FreeRun (tileState [(0, groupTile .empty 0x100000)] []) b 4096 := by
  constructor
  · refine ⟨by decide +kernel, by decide +kernel, by decide +kernel, by decide +kernel, ⟨by decide, fun e he => ?_⟩⟩
    have h0 : e ∈ ([] : Tbl Tile) := he
    exact absurd h0 (by simp)
  · rintro b - ⟨h1, h2⟩
    have := h2 (0, groupTile .empty 0x100000) (List.mem_singleton.mpr rfl)
    have hb : (groupTile .empty 0x100000).base = 0 := rfl
    have hs : (groupTile .empty 0x100000).size = 0x100000 := rfl
    simp only [hb, hs] at this
    omega

theorem test_tile_cases :
    (let s := tileState [(63, groupTile .empty 4096)] []
     (s.core 0).tile 63 = groupTile .empty 4096 ∧ (groupTile .empty 4096).group = s.me.member.map (·.group) ∧ s.me.member.map (·.group) ≠ none ∧
       s.keysOk) ∧
    (let s := tileState [(63, groupTile .ready 65536)] [(1, 1)]
     let t := groupTile .ready 65536
     (s.core 0).tile 63 = t ∧ t.group = s.me.member.map (·.group) ∧ s.tileRead 63 = false ∧ t.size ≤ 65536 ∧ t.base < 2 ^ 20 ∧ t.taker = some s.cur ∧
       s.me.member = some member ∧ s.group? member.group = some group ∧ (s.me.sget 1).toNat < group.stages ∧ s.writes = [] ∧
       (t.holder = (s.me.grpcoord.extractLsb' 8 3).toNat ∧ { t with taker := none }.taker = none)) ∧
    (let s := tileState [(62, { groupTile .ready 4096 with group := some 2 }), (63, { groupTile .draining 4096 with group := none })] []
     ((s.core 0).tile 0).state = .free ∧ ((s.core 0).tile 63).group = none ∧ ((s.core 0).tile 63).state ≠ .free ∧ ((s.core 0).tile 62).state ≠ .free ∧
       ((s.core 0).tile 62).group ≠ none ∧ ((s.core 0).tile 62).group ≠ s.me.member.map (·.group) ∧ s.me.system = false) := by
  unfold State.keysOk rises; decide +kernel

/-! ## Launches, strands, copies and messages -/

/-- A kernel record of one member, one stage, entry 0x2000 (R283), 4,096 bytes into the page; before it a launch descriptor that
names it, with every other field 0 (R307). -/
def kernelBytes : List Byte := leBytes 256 (2 + 2 ^ 32 + 2 ^ 48 + 2 ^ 56 + 2 ^ 64 + 0x2000 * 2 ^ 192)
def launchViews : Tbl View := [(0, ⟨Memory.putAll (Memory.putAll [] (cellsAt pageLoc (leBytes 256 0x1000))) (cellsAt (pageLoc + 4096) kernelBytes), []⟩)]
def aQueue : Queue := { Queue.off with state := .empty, asid := 1 }
def queued (l : List (Nat × Word)) (q : Queue) (c : CtxState) (retired : Bool) : State :=
  { mappedW (withS base l) launchViews with
    ctxs := [(1, { Ctx.free with state := c })]
    queues := [(63, q)]
    kernels := [⟨1, 0x1000, retired, false, 0, 0, 0⟩] }
def hostDesc (kernel : Nat) : BitVec 2048 := BitVec.ofNat 2048 kernel
def fullQueue : Queue := { aQueue with ring := List.replicate 16 (.launched 0), state := .active }

theorem queued_run (l : List (Nat × Word)) (q : Queue) (c : CtxState) (r : Bool) (x : Word) (hx : x = 0) (n : Nat) (hn : n ≤ 256) :
    Calm (queued l q c r) ∧ KnownRun (queued l q c r) .load x n pageLoc :=
  ⟨calm_of _ rfl rfl rfl rfl rfl rfl rfl rfl rfl, fun i hi => run_of _ rfl rfl rfl rfl .load (.inl rfl) x hx i (by omega)⟩

/-- `LAUNCH` in a free context, on a queue of none, of a retired kernel, on a full ring, accepted. -/
theorem test_launch_cases :
    (let s := queued [(2, 63), (3, 64)] aQueue .loaded false
     let l := Launch.of (BitVec.ofNat 2048 (s.viewNat (slotQuarter s.cur) .h pageLoc 256))
     Calm s ∧ s.me.yields = false ∧ (s.me.sget 1).toNat % 64 = 0 ∧ KnownRun s .load (s.me.sget 1) 256 pageLoc ∧ Live (s.ctx s.me.asid) ∧
       OpenFor s (s.me.sget 2).toNat s.me.asid ∧ ¬OpenFor s (s.me.sget 3).toNat s.me.asid ∧ s.launchStatus s.me.asid l false = 0 ∧
       l.kernel = 0x1000 ∧ ((pagesOf (0x1000 : Word) 256).all (fun p => (s.cached 0 s.me.asid p).isSome)) ∧ s.lookKernel s.me.asid l = s ∧
       (s.queue 63).ring.length < (s.queue 63).cap ∧ ¬Live ((queued [] aQueue .free false).ctx 1)) ∧
    (let s := queued [(2, 63)] fullQueue .loaded true
     let l := Launch.of (BitVec.ofNat 2048 (s.viewNat (slotQuarter s.cur) .h pageLoc 256))
     OpenFor s (s.me.sget 2).toNat s.me.asid ∧ s.lookKernel s.me.asid l = s ∧ s.launchStatus s.me.asid l false = 3 ∧ (s.queue 63).cap ≤ (s.queue 63).ring.length) := by
  refine ⟨⟨(queued_run _ _ _ _ ((queued [(2, 63), (3, 64)] aQueue .loaded false).me.sget 1) (by decide +kernel) 256 (by omega)).1, rfl, by decide +kernel,
    (queued_run _ _ _ _ _ (by decide +kernel) 256 (by omega)).2, ?_⟩, ?_⟩
  · unfold Live OpenFor; decide +kernel
  · unfold OpenFor; decide +kernel

/-- Every address outside the page is covered too, by a page that a program may write, or only read. -/
def wide (ro : Bool) : Trans := { page with bits := 64, leaf := if ro then 0x000B000001000217 else page.leaf }
def placed (ro : Bool) (l : List (Nat × Word)) (q : Queue) : State := { queued l q .loaded false with tlbs := [(0, [page, wide ro])] }

theorem placed_run (ro : Bool) (l : List (Nat × Word)) (q : Queue) (x : Word) (hx : x = 0) :
    Calm (placed ro l q) ∧ KnownRun (placed ro l q) .load x 256 pageLoc :=
  ⟨calm_of _ rfl rfl rfl rfl rfl rfl rfl rfl rfl, fun i hi => run_of _ rfl rfl rfl rfl .load (.inl rfl) x hx i (by omega)⟩

theorem placed_cached (ro : Bool) (l : List (Nat × Word)) (q : Queue) (w : Word) :
    (placed ro l q).cached 0 1 w = some page ∨ (placed ro l q).cached 0 1 w = some (wide ro) := by
  have h : (wide ro).covers 1 w = true := by
    have := w.isLt
    simp [wide, page, Trans.covers]; omega
  have g : (placed ro l q).tlbs.get [] 0 = [page, wide ro] := rfl
  have p : (placed ro l q).pins = [] := rfl
  by_cases c : page.covers 1 w = true
  · exact .inl (by simp [State.cached, g, p, c])
  · exact .inr (by simp [State.cached, g, p, c, h])

/-- A launch record finds a place where a page is only to be read, and none where every page is to be written; `LAUNCH` and the take of a host's entry
pass their checks in both. -/
theorem test_record_cases (gn : Nat) :
    (∀ l q, (placed true l q).recordAddr 1 gn ≠ 0) ∧ (∀ l q, (placed false l q).recordAddr 1 gn = 0) ∧
    (∀ ro, (let s := placed ro [(2, 63)] aQueue
       let l := Launch.of (BitVec.ofNat 2048 (s.viewNat (slotQuarter s.cur) .h pageLoc 256))
       Calm s ∧ s.me.yields = false ∧ (s.me.sget 1).toNat % 64 = 0 ∧ KnownRun s .load (s.me.sget 1) 256 pageLoc ∧ Live (s.ctx s.me.asid) ∧
         OpenFor s (s.me.sget 2).toNat s.me.asid ∧ l.kernel = 0x1000 ∧ s.lookKernel s.me.asid l = s ∧ s.launchStatus s.me.asid l false = 0 ∧
         (s.queue 63).ring.length < (s.queue 63).cap) ∧
      (let s := placed ro [] { aQueue with state := .active, ring := [.host (hostDesc 0x1000)], guarded := true }
       let u := s.setQueue 63 { s.queue 63 with ring := [] }
       u.lookKernel 1 (Launch.of (hostDesc 0x1000)) = u ∧ u.launchStatus 1 (Launch.of (hostDesc 0x1000)) false = 0)) := by
  refine ⟨fun l q => ?_, fun l q => recordAddr_eq_zero _ _ _ fun a => ?_, fun ro => ⟨⟨(placed_run ro _ _ 0 rfl).1, rfl, by decide +kernel +revert,
    (placed_run ro _ _ _ (by decide +kernel +revert)).2, ?_⟩, ?_⟩⟩
  · refine recordAddr_ne_zero _ 1 gn (BitVec.ofNat 64 ((wide true).base + 64 * 0x40000)) (recordPlaces_cached _ _ _ (wide true) ?_ rfl ?_) ?_
    · exact List.mem_cons_of_mem _ (List.mem_singleton.mpr rfl)
    · show 0x40000 < 2 ^ 64 / 64; decide
    · show State.recordFits (placed true [] aQueue) 1 _ = true; decide +kernel
  · have h : ∀ (t : Trans), (placed false l q).deviceTrans 1 a = some t → pteW t.leaf = true ∧ pteState t.leaf = 0 := by
      intro t ht
      unfold State.deviceTrans at ht
      split at ht
      · nomatch ht
      · rcases placed_cached false l q a with e | e <;> rw [e] at ht <;> cases ht <;> decide
    unfold State.recordFits
    cases e : (placed false l q).deviceTrans 1 a with
    | none => simp [e]
    | some t => simp [e, h t e]
  · unfold Live OpenFor; cases ro <;> decide +kernel
  · cases ro <;> decide +kernel

/-- The words that a launch writes are at hand where translations cover every address. -/
theorem test_launch_words (w : Word) : ∃ e, (placed true [] aQueue).cached 0 1 w = some e ∧ e.dirty = true := by
  rcases placed_cached true [] aQueue w with h | h
  · exact ⟨_, h, rfl⟩
  · exact ⟨_, h, rfl⟩

/-- Node descriptors of kinds 0, 2 and 3 and of none, and the graphs they meet. -/
def nodeState (kind : Nat) (q : Queue) (c : CtxState) : State :=
  { mappedW base (pageBytes (leBytes 64 (kind + 63 * 2 ^ 40))) with ctxs := [(1, { Ctx.free with state := c })], queues := [(63, q)] }
def aNode (st : NodeState) (succ : BitVec 512) : Node := ⟨succ, 0, st, none, none, none, Clock.zero, none⟩
def nodeDesc (s : State) : BitVec 512 := BitVec.ofNat 512 (s.viewNat (slotQuarter s.cur) .h pageLoc 64)

theorem test_node_cases :
    (∀ k, k < 4 → (let s := nodeState k aQueue .loaded
      Calm s ∧ s.me.yields = false ∧ (s.me.sget 1).toNat % 64 = 0 ∧ KnownRun s .load (s.me.sget 1) 64 pageLoc)) ∧
    (let s := nodeState 0 aQueue .loaded
     Live (s.ctx s.me.asid) ∧ OpenFor s ((nodeDesc s).extractLsb' 40 8).toNat s.me.asid ∧ nodeOk (nodeDesc s) = true ∧
       ((nodeDesc s).extractLsb' 0 8).toNat = 0 ∧ (s.queue 63).graph = .none ∧ (s.queue 63).nodes.length < 1024) ∧
    (nodeOk (nodeDesc (nodeState 4 aQueue .loaded)) = false ∧ ¬Live ((nodeState 0 aQueue .dying).ctx 1) ∧
      ¬OpenFor (nodeState 0 { aQueue with state := .fault } .loaded) 63 1) ∧
    (let x := { aQueue with graph := .building, nodes := [aNode .waiting 0] }
     let s := nodeState 2 x .loaded
     nodeOk (nodeDesc s) = true ∧ ((nodeDesc s).extractLsb' 0 8).toNat = 2 ∧ (s.queue 63).graph = .building ∧
       (∀ m, m ∈ (s.queue 63).nodes → ∀ k, k ∈ m.succ → k < 1) ∧
       (∀ m, m ∈ (s.queue 63).nodes → m.kind = 0 ∧ (pagesOf (m.desc.extractLsb' 192 64) 256).all (fun p => (s.cached 0 s.me.asid p).isSome)) ∧ (∀ m, m ∈ (s.queue 63).nodes → m.state ≠ .running)) ∧
    (let x := { aQueue with graph := .building, nodes := [aNode .running (2 ^ 32 + 5 * 2 ^ 64)] }
     (∃ m k, m ∈ x.nodes ∧ k ∈ m.succ ∧ 1 ≤ k) ∧ nodeOk (nodeDesc (nodeState 3 x .loaded)) = true ∧ ∃ m, m ∈ x.nodes ∧ m.state = .running) ∧
    1024 ≤ (List.replicate 1024 (aNode .waiting 0)).length := by
  refine ⟨fun k _ => ⟨calm_of _ rfl rfl rfl rfl rfl rfl rfl rfl rfl, rfl, ?_, fun i hi => run_of _ rfl rfl rfl rfl .load (.inl rfl) _ ?_ i (by omega)⟩, ?_, ?_, ?_,
    ⟨⟨_, 5, List.mem_singleton.mpr rfl, by decide +kernel, by decide⟩, by decide +kernel, _, List.mem_singleton.mpr rfl, rfl⟩, by rw [List.length_replicate]⟩
  · show ((base.sget 1).toNat % 64 = 0); decide +kernel
  · show base.sget 1 = 0; decide +kernel
  · unfold Live OpenFor; decide +kernel
  · unfold Live OpenFor; decide +kernel
  · decide +kernel

theorem test_queue_state_cases : ((queued [(1, 63)] aQueue .loaded false).me.sget 1).toNat < 64 ∧ ((queued [] aQueue .loaded false).queue 63).state ≠ .off ∧
    ((queued [] aQueue .loaded false).queue 63).asid = (queued [] aQueue .loaded false).me.asid := by decide +kernel

/-- A strand from stage 0 to stage 1, with no item, one, and a full one; the last strand number, and one past it. -/
def strandGroup (n : Nat) : Group := { group with items := [(0, List.replicate n (7, Clock.zero))] }
theorem test_strand_cases :
    (let s := inGroup (strandGroup 0) (withS base [(1, 0), (2, 16), (3, 15)])
     s.me.member = some member ∧ s.group? member.group = some (strandGroup 0) ∧ s.buffering s.cur = false ∧ (s.me.sget 1).toNat < 16 ∧
       (strandGroup 0).strands[0]? = some (1, 0, 1) ∧ s.recess.start = none ∧ s.me.stage = 0 ∧ ((strandGroup 0).items.get [] 0).length < 1 ∧
       16 ≤ (s.me.sget 2).toNat ∧ (strandGroup 0).strands[(s.me.sget 3).toNat]? = none ∧ s.me.system = false ∧ s.me.stage ≠ 1) ∧
    (1 ≤ ((strandGroup 1).items.get [] 0).length ∧ (strandGroup 1).stageHarts 0 1 = 0 ∧ (strandGroup 1).stageHarts 0 0 ≠ 0 ∧
      (strandGroup 1).items.get [] 0 = (7, Clock.zero) :: [] ∧ (inGroup (strandGroup 1) base).keysOk) ∧
    (let two := { strandGroup 1 with n := 2, members := [(0, ⟨.running 0, 0, none, 0, none⟩), (1, ⟨.running 1, 1, none, 1, none⟩)] }
     two.stageHarts 0 1 ≠ 0 ∧ (inGroup two { base with grpcoord := 0x100 }).me.stage = 1) ∧
    (let gone := { strandGroup 0 with members := [(0, ⟨.running 0, 1, none, 0, none⟩)] }
     gone.stageHarts 0 0 = 0) := by unfold State.keysOk rises; decide +kernel

/-- Copy commands: with a place and without, of length 0, of a length that breaks a check; tokens of none, of a command done, of one
that runs. -/
theorem test_copy_cases :
    (user []).buffering 0 = false ∧ ((user []).cluster 0).cmds.length < 64 ∧ (user []).me.sget 1 = 0 ∧ inSlabWindow (0x1000 : Word) = false ∧
    ((5 : Word).getLsbD 63 = false) ∧ (0xC000000000000000 : Word).extractLsb' 37 26 ≠ 0 ∧
    (let c : Cmd := ⟨0, .cpy, 0, 0, 0x20000000000, 0x1000, 0x2000, 0, none, 1, none, none, false, true, .accepted, [], [], [], [], [], Clock.zero⟩
     let s := { user [(1, 0x8000001F00000000)] with clusters := [(31, { Cluster.reset with seq := 1, cmds := [c] })] }
     let done := { user [(1, 0x8000001F00000000)] with clusters := [(31, { Cluster.reset with seq := 4097, done := [(0, 3, Clock.zero)] })] }
     64 ≤ (List.replicate 64 c).length ∧ c.denseBad = true ∧ s.me.sget 1 = BitVec.ofNat 64 (2 ^ 63 + 31 * 2 ^ 32 + 0 % 2 ^ 32) ∧ 0 < (s.cluster 31).seq ∧
       (s.cluster 31).seq ≤ 0 + 4097 ∧ (s.cluster 31).cmds.any (fun m => m.seq == 0) = true ∧ ((s.cluster 31).done.find? fun x => x.1 == 0) = none ∧
       (done.cluster 31).seq ≤ 0 + 4097 ∧ ((done.cluster 31).done.find? fun x => x.1 == 0) = some (0, 3, Clock.zero)) := by decide +kernel

/-- Messages on channel 0 of port 15: unbound, malformed, the port down, the queue full, accepted; a ring empty and with a message. -/
def portState (bytes : Nat) (sends : List (Nat × Nat)) (q0 : List (Nat × BitVec 512)) (st : PortState) (ring : List (BitVec 512)) : State :=
  { mappedW (withS base [(2, 15)]) (pageBytes (leBytes 64 bytes)) with
    ctxs := [(1, { Ctx.free with state := .loaded, sends := sends, ring0 := ring })]
    ports := [(15, { Port.reset with state := st, q0 := q0 })] }

theorem portState_known (b : Nat) (sn : List (Nat × Nat)) (q0 : List (Nat × BitVec 512)) (st : PortState) (r : List (BitVec 512)) (k : Kind)
    (hk : k = .load ∨ k = .write ∨ k = .atomic) : Known (portState b sn q0 st r) k 0 pageLoc := by
  have := run_of (portState b sn q0 st r) rfl rfl rfl rfl k hk 0 rfl 0 (by decide)
  simpa using this

theorem test_message_cases :
    (let s := portState 0 [(15, 0)] [] .up [1]
     Calm s ∧ s.me.sget 1 = 0 ∧ Known s .load 0 pageLoc ∧ Known s .write 0 pageLoc ∧ (s.me.sget 2).toNat < 16 ∧
       (15, ((BitVec.ofNat 512 (s.viewNat (slotQuarter s.cur) .h pageLoc 64)).extractLsb' 0 16).toNat) ∈ (s.ctx s.me.asid).sends ∧
       msgBad (BitVec.ofNat 512 (s.viewNat (slotQuarter s.cur) .h pageLoc 64)) = false ∧ (s.port 15).state = .up ∧ (s.port 15).q0.length < 64 ∧
       (s.ctx s.me.asid).ring0 = 1 :: []) ∧
    (let s := portState 0x030000 [] (List.replicate 64 (1, 0)) .down []
     (15, 0) ∉ (s.ctx s.me.asid).sends ∧ msgBad (BitVec.ofNat 512 (s.viewNat (slotQuarter s.cur) .h pageLoc 64)) = true ∧ (s.port 15).state ≠ .up ∧
       64 ≤ (s.port 15).q0.length ∧ (s.ctx s.me.asid).ring0 = [] ∧ (portState 0 [] [] .down []).port 15 = { Port.reset with state := .down }) := by
  refine ⟨⟨calm_of _ rfl rfl rfl rfl rfl rfl rfl rfl rfl, by decide +kernel, portState_known _ _ _ _ _ _ (.inl rfl), portState_known _ _ _ _ _ _ (.inr (.inl rfl)),
    by decide +kernel⟩, by decide +kernel⟩
/-! ## Encoding and the step -/

theorem test_encoding_cases : (Instr.vcmpLt 1 2 3 4 1 3).wellFormed = true ∧ (encode (.vcmpLt 1 2 3 4 1 3)).isSome = true ∧
    decode 0x1CA20083 = .ok (.ld 5 2 16) := by decide +kernel

/-- A word at the PC or at a block's next word, 4,096 bytes into the page. -/
def wordViews (w : Nat) : Tbl View := [(0, ⟨Memory.putAll [] (cellsAt (pageLoc + 0x1000) (leBytes 4 w)), []⟩)]
def atPage (h : Hart) (w : Nat) : State := mappedW h (wordViews w)
def pageBlock : Block := { block with pc := 0x1000, loop := some 0x0F04 }

theorem page_fetches (h : Hart) (w : Nat) (ha : h.asid = 1) : Fetches (atPage h w) 0x1000 (pageLoc + 0x1000) := by
  obtain ⟨-, -, hk⟩ := page_known h (wordViews w) ha .load (.inl rfl) 0x1000 (by decide)
  rw [if_neg (by decide)] at hk
  obtain ⟨t, ht, hl, -, hloc, hlink⟩ := hk
  have e : t = page := by
    have g : (mappedW h (wordViews w)).tlbs.get [] (slotQuarter (mappedW h (wordViews w)).cur) = [page] := by
      simp [mappedW, one, State.reset, slotQuarter, Tbl.get]
    have p : (mappedW h (wordViews w)).pins = [] := rfl
    simp [State.cached, g, p] at ht
    exact ht.2.symm
  subst e
  exact ⟨by decide, by decide, by decide, rfl, page, ht, by decide, hloc, hlink⟩

/-- Words that stand next: in the scalar stream; there too a vector word; at the 64th word of a loop's body; in its loop buffer. -/
theorem test_stands_cases :
    StandsAt (atPage base 0x1CA20083) 0x1CA20083 (atPage base 0x1CA20083) ∧
    StandsAt (atPage base 0x806112E0) 0x806112E0 ((atPage base 0x806112E0).setMe (issuesWord base)) ∧
    (let h := { base with blk := some pageBlock }
     StandsAt (atPage h 0x806112E0) 0x806112E0 ((atPage h 0x806112E0).setMe { h with blk := some { pageBlock with buffer := [(0x1000, 0x806112E0)] } })) ∧
    (let h := { base with blk := some { pageBlock with buffer := [(0x1000, 0x806112E0)] } }
     StandsAt (one h) 0x806112E0 (one h)) ∧
    StandsAt (atPage base 0) 0 (atPage base 0) ∧ StandsAt (atPage base 0x8000000E) 0x8000000E ((atPage base 0x8000000E).setMe (issuesWord base)) := by
  refine ⟨.inl ⟨rfl, ⟨_, page_fetches _ _ rfl, by decide +kernel⟩, ?_, fun _ => rfl⟩, .inl ⟨rfl, ⟨_, page_fetches _ _ rfl, by decide +kernel⟩, fun _ => rfl, ?_⟩,
    .inr ⟨_, rfl, by decide, ?_, ?_, .inr ⟨rfl, ⟨_, page_fetches _ _ rfl, by decide +kernel⟩, ?_, fun _ => rfl⟩⟩,
    .inr ⟨_, rfl, by decide, ?_, ?_, .inl ⟨by decide +kernel, rfl⟩⟩,
    .inl ⟨rfl, ⟨_, page_fetches _ _ rfl, by decide +kernel⟩, ?_, fun _ => rfl⟩, .inl ⟨rfl, ⟨_, page_fetches _ _ rfl, by decide +kernel⟩, fun _ => rfl, ?_⟩⟩
  · intro h; exact absurd h (by unfold impliedBlock; decide)
  · intro h; exact absurd (show impliedBlock 0x20 by unfold impliedBlock; decide) h
  · show inBlocks 0x20; unfold inBlocks; decide
  · intro l h; injection h with e; subst e; decide +kernel
  · intro h; nomatch h
  · show inBlocks 0x20; unfold inBlocks; decide
  · intro l h; injection h with e; subst e; decide +kernel
  · intro h; exact absurd h (by unfold impliedBlock; decide)
  · intro h; exact absurd (show impliedBlock 0x20 by unfold impliedBlock; decide) h

/-- The other conditions of a step on them; a hart's move and an event at the head of the schedule. -/
theorem test_step_cases :
    (∀ s, s ∈ [atPage base 0x1CA20083, atPage base 0x806112E0, atPage base 0, atPage base 0x8000000E] → AtWord s ∧ s.schedule = [] ∧ s.me.blk = none ∧ s.me.system = false) ∧
    (let s := { atPage { base with blk := some pageBlock } 0x806112E0 with schedule := [.hart 0] }
     AtWord s ∧ s.schedule = .hart 0 :: [] ∧ s.me.system = false) ∧
    decode 0x1CA20083 = .ok (.ld 5 2 16) ∧ decode 0x806112E0 = .ok (.vadd 3 1 2 5 1 2) ∧ decode 0 = .error .unassignedMajor ∧
    (∃ e, decode 0x8000000E = .error e) ∧ encode .drainWindowOpen = none ∧ State.reset.sideband.mainUp = true ∧
    (hostStep .drainWindowOpen = false ∧ encode (.portEnable 15) = none ∧ hostStep (.portEnable 15) = true ∧ State.reset.hostLink = none) := by
  refine ⟨?_, ⟨?_, rfl, rfl⟩, by decide +kernel, by decide +kernel, by decide +kernel, ⟨_, rfl⟩, by decide +kernel, rfl, by decide +kernel⟩
  · intro s hs
    simp only [List.mem_cons, List.not_mem_nil, or_false] at hs
    rcases hs with rfl | rfl | rfl | rfl <;> exact ⟨⟨rfl, rfl, rfl, rfl, rfl, rfl, rfl, rfl, fun _ => rfl, fun _ e => (nomatch e), fun _ e => (nomatch e)⟩, rfl, rfl, rfl⟩
  · refine ⟨rfl, rfl, rfl, rfl, rfl, rfl, rfl, rfl, fun e => (nomatch e), fun _ e => (nomatch e), fun b e => ?_⟩
    injection e with e; subst e; rfl

theorem test_reset_keys : State.reset.keysOk := by
  refine ⟨List.Pairwise.nil, List.Pairwise.nil, ?_, ?_⟩ <;> intro x hx <;> simp [State.reset] at hx

theorem test_reset_keeps_form : State.reset.memoryOk := by
  refine ⟨?_, ?_, ?_⟩ <;> intro x hx <;> simp [State.reset] at hx

/-! ## Steps of the memory and the host -/

theorem pending_ok : pendingState.memoryOk := by
  refine ⟨?_, ?_, ?_⟩
  · intro x hx; simp [pendingState, one, State.reset] at hx
  · intro e he; simp [pendingState, one] at he; rw [he]; rfl
  · intro x hx; simp [pendingState, one, State.reset] at hx

/-- The pending write in the view of Q3, on its own path and on the last other one. -/
theorem test_write_apply_cases :
    pendingState.memoryOk ∧ pendingState.writes[0]? = some pendingWrite ∧ pendingWrite.quarter < 4 ∧ pendingWrite.applied.getLsbD 15 = false ∧
    (pendingWrite.bytes.map (·.1)).Nodup ∧ pendingState.writes.length = 1 ∧ Path.ofIndex (15 % 5) = pendingWrite.path ∧
    (quarterClock pendingState.applied 3).get 0 + 1 = pendingWrite.clk.get 0 ∧
    (∀ q, q < 4 → q ≠ 0 → pendingWrite.clk.get q ≤ (quarterClock pendingState.applied 3).get q) ∧
    (let w := { pendingWrite with applied := BitVec.ofNat 20 (2 ^ 15) }
     Path.ofIndex (19 % 5) ≠ w.path ∧ w.applied.getLsbD (5 * 3 + w.path.index) = true ∧ w.applied.getLsbD 19 = false) :=
  ⟨pending_ok, by decide +kernel⟩

/-- Tables that map the first GiB to itself (R378, R379): the root at 0x1000, its second level at 0x2000, the leaf at 0x3000. -/
def tables : Memory := Memory.putAll (Memory.putAll (Memory.putAll [] (cellsAt 0x1000 (leBytes 8 0x2001))) (cellsAt 0x2000 (leBytes 8 0x3001)))
  (cellsAt 0x3000 (leBytes 8 0x000E00000000001F))
def walking : State := { one base with views := [(0, ⟨tables, []⟩)], ctxs := [(1, { Ctx.free with root := 0x1000 })], walks := [⟨0, 1, 0x5000, false⟩, ⟨0, 2, 0x5000, false⟩, ⟨0, 3, 0x5000, true⟩] }

theorem walking_quiet : QuietHome walking 0 := by
  refine ⟨⟨?_, ?_, ?_⟩, rfl, rfl, by decide +kernel, fun a => rfl⟩
  · intro v hv; simp [walking] at hv; rw [hv]; decide +kernel
  · intro e he; simp [walking, one] at he; rw [he]; rfl
  · intro g hg; simp [walking, one, State.reset] at hg

theorem test_walk_cases :
    walking.recess.start = none ∧ (⟨0, 1, 0x5000, false⟩ : Walk) ∈ walking.walks ∧ (0x5000 : Word) = BitVec.ofNat 64 ((0x5ABC : Word).toNat / 4096 * 4096) ∧ walking.cached 0 1 0x5000 = none ∧
    (∃ e at_ level, walking.walkFrom 0 0x5000 (walking.ctx 1).root 4 = .inr (e, at_, level) ∧ (transOf 1 0x5000 e at_ level).leaves = [at_] ∧
      QuietHome walking (homeOf at_)) ∧
    (⟨0, 2, 0x5000, false⟩ : Walk) ∈ walking.walks ∧ (∃ f, walking.walkFrom 0 0x5000 (walking.ctx 2).root 4 = .inl f) ∧
    (⟨0, 3, 0x5000, true⟩ : Walk) ∈ walking.walks ∧ ∀ w, w ∈ walking.walks → w.asid = 3 → w.probe = true := by
  refine ⟨rfl, by decide +kernel, by decide +kernel, by decide +kernel, ⟨0x000E00000000001F, 0x3000, 2, by decide +kernel, by decide +kernel, ?_⟩, by decide +kernel,
    ⟨⟨1, 4⟩, by decide +kernel⟩, by decide +kernel, by decide +kernel⟩
  rw [show homeOf 0x3000 = 0 from by decide +kernel]
  exact walking_quiet

/-- A host write at the end of the window; regions of the smallest and the largest page. -/
theorem test_host_cases : (2 ^ 40 - 1) + [(7 : Byte)].length ≤ 2 ^ 40 ∧ State.reset.writes = [] ∧ 4096 = 2 ^ sizeBits 0 ∧ 2 ^ 32 = 2 ^ sizeBits 15 ∧
    0x1000 % 4096 = 0 ∧ inDram 0x1000 = true ∧ inDram (0x1000 + 4096 - 1) = true ∧ State.reset.regions = [] ∧
    State.reset.recess.start = none ∧ State.reset.hostLink = none ∧ ({ State.reset with hostLink := some ⟨64, 16, []⟩ } : State).hostLink ≠ none ∧
    State.reset.owed = [] ∧ hdmLoc 0 = some 0 := by decide +kernel

def faultOf (src : Nat) (where_ : Word) : FaultRecord := ⟨9, 1, src, 0, 1, 4, false, 0x5000, where_, 0, 0⟩
theorem test_fault_answer_cases :
    (let s := { one { base with system := true, lepc := 0x1000, lcause := 0x106 } with faults := [faultOf 0 0x1000] }
     (s.faults.find? fun x => x.ticket == 9) = some (faultOf 0 0x1000) ∧ (s.hart 0).run = .running ∧ (s.hart 0).system = true ∧
       (s.hart 0).lepc = (faultOf 0 0x1000).where_ ∧ (s.hart 0).lcause.toNat % 256 ∈ [0x05, 0x06, 0x07]) ∧
    (let c : Cmd := ⟨5, .cpy, 0, 0, 16, 0x5000, 0x6000, 0, none, 1, none, none, false, true, .faulted 0x5000, [], [], [], [], [], Clock.zero⟩
     let r := faultOf 0x8002 0x8000000200000005
     let s := { State.reset with faults := [r], clusters := [(2, { Cluster.reset with seq := 6, cmds := [c] })] }
     (s.faults.find? fun x => x.ticket == 9) = some r ∧ 0x8000 ≤ r.source ∧ r.source < 0xC000 ∧
       ((s.cluster 2).cmds.find? fun m => BitVec.ofNat 64 (2 ^ 63 + 2 * 2 ^ 32 + m.seq % 2 ^ 32) == r.where_) = some c ∧ c.state = .faulted 0x5000) ∧
    (let r := faultOf 0xC00F 0
     let s := { State.reset with faults := [r], ports := [(15, { Port.reset with fault0 := some 9 })] }
     (s.faults.find? fun x => x.ticket == 9) = some r ∧ 0xC000 ≤ r.source ∧ (s.port 15).fault0 = some r.ticket) ∧
    (let s := { State.reset with faults := [faultOf 0x8002 0], recess := { State.reset.recess with start := some 0 } }
     (s.faults.find? fun x => x.ticket == 9) = some (faultOf 0x8002 0) ∧ s.recess.start ≠ none) := by decide +kernel
/-! ## Steps that end a wait -/

def parked (h : Hart) (why : Why) (i : Instr) : Hart := { h with wait := some ⟨why, i, [], 0⟩ }
theorem parked_on (h : Hart) (why : Why) (i : Instr) (hr : h.run = .running) (hw : h.wound = false) (hp : h.preempt = []) (hs : h.spill = [])
    (hb : h.bad = []) (hk : h.blk = none) : ParkedOn (parked h why i) why i := ⟨hr, hw, hp, hs, hb, [], 0, .inl ⟨hk, rfl⟩⟩

theorem test_wake_cases :
    ParkedOn (parked base .recess (.ld 1 2 0)) .recess (.ld 1 2 0) ∧
    ParkedOn { base with blk := some { block with wait := some ⟨.watermark, .vld 1 2 0, [], 0⟩ } } .watermark (.vld 1 2 0) ∧ AccessWait .recess ∧ AccessWait .migrating ∧ AccessWait (.walk 0) ∧ AccessWait (.touch 63) ∧
    isLoad (.ld 1 2 0) = true ∧ isAtomic (.amoAdd 1 2 3 0 0) = true ∧
    (let s := one (parked (withS base [(2, slab)]) .recess (.ld 1 2 0))
     (address s 2 0).toNat % 8 = 0 ∧ ∃ u, s.access .scalar .load (address s 2 0) 8 = .ok u slabLoc) ∧
    (let s := one (parked (withS base [(2, slab)]) (.touch 0) (.amoAdd 1 2 3 0 0))
     ((s.hart 0).sget 2).toNat % 8 = 0 ∧ s.buffering 0 = false ∧ ∃ u, s.access .scalar .atomic ((s.hart 0).sget 2) 8 = .ok u slabLoc ∧ u.buffering u.cur = false) ∧
    (let s := one (parked base .guard (.wmset 0 1))
     s.buffering 0 = false ∧ s.guardHolds ((s.hart 0).sget 1).toNat = false ∧ s.writes = []) ∧
    (let s := inGroup (strandGroup 0) (parked (withS base [(1, 0)]) .strand (.strpush 4 1 2))
     (s.hart 0).member = some member ∧ s.group? member.group = some (strandGroup 0) ∧ s.buffering 0 = false ∧ ((s.hart 0).sget 1).toNat < 16 ∧
       (strandGroup 0).strands[((s.hart 0).sget 1).toNat]? = some (1, 0, 1) ∧ (s.hart 0).stage = 0 ∧ s.recess.start = none ∧
       ((strandGroup 0).items.get [] 0).length < 1) ∧
    (let s := one (parked { withS base [(2, slab)] with w := Vector.replicate 8 3 } .watermark (.ld 1 2 0))
     (address s 2 0).toNat % 8 = 0 ∧
       ∃ u, ({ s with harts := s.harts.map fun (e : Nat × Hart) => (e.1, e.2.showMarks [slotQuarter 0]), cur := 0 } : State).access .scalar .load (address s 2 0) 8 =
         .ok u slabLoc) ∧
    ArrayOpen (one (parked base .array .wswap)) := by
  refine ⟨parked_on _ _ _ rfl rfl rfl rfl rfl rfl, ⟨rfl, rfl, rfl, rfl, rfl, [], 0, .inr ⟨_, rfl, rfl⟩⟩, .inl rfl, .inr (.inl rfl), .inr (.inr (.inr (.inl ⟨_, rfl⟩))), .inr (.inr (.inr (.inr ⟨_, rfl⟩))), rfl, rfl,
    ⟨by decide +kernel, _, rfl⟩, ⟨by decide +kernel, rfl, _, rfl, rfl⟩, by decide +kernel, by decide +kernel, ⟨by decide +kernel, _, rfl⟩, .inr ⟨by decide +kernel, by decide +kernel⟩⟩

/-- One buffered byte at the slab. -/
def aLine : Line := ⟨slab, slabLoc, 1, 7, []⟩

/-- The one locket holder overflows; `IDLE` at its bound; a wound; a task that commits. -/
theorem test_task_cases :
    (let s := inGroup holding (parked { base with lines := [aLine] } .overflow (.sd 1 2 0))
     (s.hart 0).wait = some ⟨.overflow, .sd 1 2 0, [], 0⟩ ∧ (s.hart 0).run = .running ∧ (s.hart 0).preempt = [] ∧ s.recess.start = none ∧ s.anyIrrevocable = false ∧
       s.holdsLocket 0 = true ∧ (s.hart 0).blk = none ∧ (s.hart 0).wound = false ∧ (s.hart 0).bad = [] ∧
       (∀ x, x ∈ (s.hart 0).lines ++ (s.hart 0).spill → inWindow x.va = true) ∧ (∀ x, x ∈ (s.hart 0).lines ++ (s.hart 0).spill → x.leaves = [] ∧ inHostMem x.pa = false) ∧
       ((s.hart 0).lines ++ (s.hart 0).spill).flatMap Line.cells ≠ [] ∧
       ∀ x, x ∈ s.holderStamps → (s.hart 0).task.stamp ≤ x) ∧
    (let s := { one (parked base (.idle 0 0) .idle) with beacon := 65536 }
     0 + 65536 ≤ s.beacon ∧ (s.hart 0).wait = some ⟨.idle 0 0, .idle, [], 0⟩ ∧ (s.hart 0).yields = false ∧ (s.hart 0).blk = none) ∧
    (let s := inGroup holding { base with wound := true, task := ⟨0, false, false, false⟩ }
     (s.hart 0).member = some member ∧ s.group? 1 = some holding ∧ (s.hart 0).wound = true ∧ (s.hart 0).system = false ∧ (s.hart 0).task.committing = false ∧
       (s.hart 0).task.irrevocable = false) ∧
    (let s := inGroup holding { base with task := ⟨0, false, false, true⟩, lines := [aLine] }
     (∀ x, x ∈ (s.hart 0).lines ++ (s.hart 0).spill → inHostMem x.pa = false) ∧
     (s.hart 0).task.committing = true ∧ (s.hart 0).bad = [] ∧ (s.hart 0).run = .running ∧ holding.members.find member.key = some ⟨.running 0, 0, none, 0, none⟩ ∧ s.recess.start = none) := by
  decide +kernel

/-- A committing task outlives the failure of its group, and ends in it as a stopped member, whose watermarks count for no more than before (R278, R354). -/
theorem test_commit_outlives :
    (let s := (inGroup holding { base with task := ⟨0, false, false, true⟩ }).failGroup 1 none
     (s.hart 0).run = .running ∧ (s.hart 0).member = some member ∧ ((s.endTask 0).hart 0).run = .free ∧
       ((s.endTask 0).group? 1).map (·.state) = some .failed ∧
       ((s.endTask 0).group? 1).bind (fun g => (g.members.find member.key).map (·.state)) = some .stopped) := by decide +kernel

/-- A write that overflowed waits although lines are free (R351, R354). -/
theorem test_overflow_stays :
    (let s := inGroup holding (parked { base with lines := [aLine] } .overflow (.sd 1 2 0))
     (match step s with | .next t => decide ((t.hart 0).wait = (s.hart 0).wait) | _ => false) = true) := by decide +kernel

theorem test_twin_cases :
    (let i := Instr.mma 0 8 0 0 1
     let h := parked base (.pair 0 none) i
     let s := { State.reset with harts := [(0, h), (32, h)] }
     0 / 32 % 2 = 0 ∧ (s.hart 0).woundReady = false ∧ (s.hart 32).woundReady = false ∧ (s.hart 0).wait = some ⟨.pair 0 none, i, [], 0⟩ ∧ (s.hart 32).wait = some ⟨.pair 0 none, i, [], 0⟩) ∧
    (let s := { one (parked base (.pair 0 none) (.mma 0 8 0 0 1)) with beacon := 65536 }
     (s.hart s.cur).wait = some ⟨.pair 0 none, .mma 0 8 0 0 1, [], 0⟩ ∧ 0 + 65536 ≤ s.beacon ∧ s.me.run = .running ∧ s.me.system = false ∧ s.me.woundReady = false ∧
       (s.hart 32).attempt? = none) := by decide +kernel

/-! ## Steps of the queues, the groups and the copy engines -/

/-- `KERNEL_LOAD` of the record in the page, where nothing is in force; a loaded kernel without and with groups. -/
theorem test_kernel_cases :
    (let s := { queued [] aQueue .loaded false with kernels := [] }
     s.deviceLook 1 0x1000 256 = s ∧ (∃ k, s.kernelRecord 1 0x1000 = some k ∧ k.loadOk = true ∧ k.lockets = 0) ∧ s.recess.start = none ∧ s.soft = [] ∧ s.owed = [] ∧
       ((pagesOf (0x1000 : Word) 256).all (fun p => (s.cached 0 1 p).isSome)) ∧ Live (s.ctx 1) ∧ (0x1000 : Word).toNat % 256 = 0 ∧ s.kernel? 1 0x1000 = none ∧
       (∃ tr, s.deviceDest 1 0x1010 = some (tr, pageLoc + 0x1010)) ∧ s.cached 0 1 0x1010 = some page ∧ page.dirty = true ∧
       State.reset.deviceDest 1 0x1010 = none) ∧
    (let s := queued [] aQueue .loaded false
     s.kernel? 1 0x1000 = some ⟨1, 0x1000, false, false, 0, 0, 0⟩) ∧
    (let s := { queued [] aQueue .loaded false with kernels := [⟨1, 0x1000, false, false, 1, 0, 0⟩] }
     s.kernel? 1 0x1000 = some ⟨1, 0x1000, false, false, 1, 0, 0⟩) := by
  refine ⟨⟨by decide +kernel, ⟨KRec.of kernelBytes, by decide +kernel, by decide +kernel, by decide +kernel⟩, rfl, rfl, rfl, by decide +kernel, ?_, by decide, by decide +kernel, ⟨page, by decide +kernel⟩, by decide +kernel⟩, by decide +kernel,
    by decide +kernel⟩
  unfold Live; decide +kernel

theorem queued_quiet : QuietHome (queued [] aQueue .loaded false) 0 := by
  refine ⟨⟨?_, ?_, ?_⟩, rfl, rfl, by decide +kernel, fun a => rfl⟩
  · intro v hv; simp only [queued, mappedW, launchViews, List.mem_singleton] at hv; rw [hv]; decide +kernel
  · intro e he; simp [queued, mappedW, one] at he; rw [he]; rfl
  · intro g hg; simp [queued, mappedW, one, State.reset] at hg

/-- A pending group of the kernel of `queued`, its launch taken from queue 63. -/
def pendingGroup : Group := { group with kernel := 0x1000, queue := some 63, members := [], places := [], state := .pending, stages := 1, strands := [] }
def withGroup (q : Queue) (g : Group) : State := { queued [] q .loaded false with groups := [(1, g)], nextGroup := 2 }

/-- A page of host memory behind a link that is down, in it the kernel of a launch and the descriptor of a node. -/
def awayPage : Trans := { page with base := 0x1000000, leaf := 0x000B80000000021F }
def away (q : Queue) : State :=
  { queued [(2, 63)] q .loaded false with
    tlbs := [(0, [page, awayPage])]
    kernels := [⟨1, 0x1000000, false, false, 0, 0, 0⟩]
    views := [(0, ⟨Memory.putAll [] (cellsAt pageLoc (leBytes 256 0x1000000)), []⟩)] }
theorem test_away_cases :
    (let s := away aQueue
     let l := Launch.of (BitVec.ofNat 2048 (s.viewNat (slotQuarter s.cur) .h pageLoc 256))
     Calm s ∧ s.me.yields = false ∧ (s.me.sget 1).toNat % 64 = 0 ∧ KnownRun s .load (s.me.sget 1) 256 pageLoc ∧ Live (s.ctx s.me.asid) ∧
       OpenFor s (s.me.sget 2).toNat s.me.asid ∧ l.kernel = 0x1000000 ∧ s.lookKernel s.me.asid l = s ∧ s.launchStatus s.me.asid l false = linkStatus) ∧
    (let s := away { aQueue with state := .active, ring := [.host (hostDesc 0x1000000)], guarded := true }
     let u := s.setQueue 63 { s.queue 63 with ring := [] }
     u.lookKernel 1 (Launch.of (hostDesc 0x1000000)) = u ∧ u.launchStatus 1 (Launch.of (hostDesc 0x1000000)) false = linkStatus) ∧
    ((away aQueue).deviceAway 1 0x1000000 256 = true ∧ (away aQueue).soft = [] ∧ (away aQueue).recess.start = none ∧
      ((pagesOf (0x1000000 : Word) 256).all (fun p => ((away aQueue).cached 0 1 p).isSome)) ∧ (away aQueue).deviceAway 1 0 256 = false) := by
  refine ⟨⟨calm_of _ rfl rfl rfl rfl rfl rfl rfl rfl rfl, rfl, by decide +kernel,
    fun i hi => run_of _ rfl rfl rfl rfl .load (.inl rfl) _ (by decide +kernel) i (by omega), ?_⟩, by decide +kernel, by decide +kernel⟩
  unfold Live OpenFor; decide +kernel

theorem test_queue_cases :
    63 < 64 ∧ (State.reset.queue 63).state = .off ∧ (7 : Nat) ≤ 7 ∧ (∃ k, k < 13 ∧ 2 ^ 16 = 2 ^ (k + 4)) ∧
    ((queued [] aQueue .loaded false).queue 63).state ≠ .off ∧
    (∀ e, e ∈ (queued [] aQueue .loaded false).groups → e.2.queue = some 63 → e.2.state ≠ .pending) ∧
    ((queued [] { aQueue with state := .fault } .loaded false).queue 63).state = .fault ∧
    (let s := queued [] { aQueue with state := .fault, graph := .running, nodes := [aNode .waiting 0] } .loaded false
     s.soft = [] ∧ ∀ m, m ∈ (s.queue 63).nodes → m.kind = 0 ∧ (pagesOf (m.desc.extractLsb' 192 64) 256).all (fun p => (s.cached 0 (s.queue 63).asid p).isSome)) ∧
    aQueue.ring.length < aQueue.cap ∧
    (let s := withGroup { aQueue with state := .active, ring := [.launched 1] } pendingGroup
     (s.queue 63).taken = none ∧ (s.ctx (s.queue 63).asid).state = .loaded ∧ (s.queue 63).ring = .launched 1 :: [] ∧ s.group? 1 = some pendingGroup ∧
       (s.queue 63).guarded = false ∧ (s.queue 63).last = none) ∧
    (let s := queued [] { aQueue with state := .active, ring := [.host (hostDesc 0x1000)], guarded := true } .loaded false
     let u := s.setQueue 63 { s.queue 63 with ring := [] }
     s.recess.start = none ∧ u.lookKernel 1 (Launch.of (hostDesc 0x1000)) = u ∧ u.launchStatus 1 (Launch.of (hostDesc 0x1000)) false = 0 ∧ (s.queue 63).guarded = true ∧ (s.queue 63).last = none) ∧
    (let s := queued [] aQueue .loaded false
     s.lookKernel 1 (Launch.of (hostDesc 0x2000)) = s ∧ s.launchStatus 1 (Launch.of (hostDesc 0x2000)) false ≠ 0) := by
  refine ⟨by decide, rfl, by decide, ⟨12, by decide, by decide⟩, by decide +kernel, by decide +kernel, by decide +kernel, by decide +kernel, by decide, by decide +kernel, by decide +kernel,
    by decide +kernel⟩

/-- The grant of a taken launch whose kernel declares no locket table. -/
theorem test_grant_cases :
    (let s := withGroup { aQueue with state := .active, taken := some 1 } pendingGroup
     (∀ n, n < 64 → (s.queue n).prio ≠ 7 ∧ ((s.queue n).ring = [] ∨ (s.queue n).taken ≠ none)) ∧ (∃ ps, s.choose = some (63, .ring 1, .places ps)) ∧ s.group? 1 = some pendingGroup ∧
       (let u := { s.setQueue 63 { s.queue 63 with taken := none } with
          lastGrant := s.lastGrant.put (s.queue 63).prio 63
          reserved := s.reserved.filter fun r => r.2 != 2048 * 63 }
        u.deviceLook pendingGroup.asid pendingGroup.kernel 256 = u ∧ ∃ r, u.kernelRecord pendingGroup.asid pendingGroup.kernel = some r ∧ r.lockets = 0)) := by
  refine ⟨by decide +kernel, ⟨[(0, 1)], ?_⟩, by decide +kernel, by decide +kernel, ⟨KRec.of kernelBytes, by decide +kernel, by decide +kernel⟩⟩
  decide +kernel

/-- A transform node that has completed, with one successor of counter 0 and of counter 1; with and without an error. -/
def transformNode : Node := ⟨2 ^ 32 + 1 * 2 ^ 64, 0, .running, none, some (3, 9), none, Clock.zero, none⟩
def graphState (counter st : Nat) : State :=
  { mapped base with
    queues := [(5, { aQueue with state := .active, graph := .running, nodes := [transformNode, { aNode .waiting 0 with counter := counter }] })]
    clusters := [(3, { Cluster.reset with seq := 10, done := [(9, st, Clock.zero)] })] }
theorem test_node_complete_cases : ∀ counter st, counter < 2 → st < 2 →
    (let s := graphState counter st
     ∃ m, (s.queue 5).nodes[0]? = some transformNode ∧ (s.queue 5).graph = .running ∧ (s.queue 5).state = .active ∧ transformNode.state = .running ∧
       transformNode.group = none ∧ transformNode.cmd = some (3, 9) ∧ ((s.cluster 3).done.find? fun e => e.1 == 9) = some (9, st, Clock.zero) ∧
       transformNode.succ = [1] ∧ (s.queue 5).nodes[1]? = some m ∧ m.counter = counter ∧ m.kind = 0 ∧
       ((pagesOf (m.desc.extractLsb' 192 64) 256).all (fun p => (s.cached 0 (s.queue 5).asid p).isSome)) ∧ s.recess.start = none ∧ s.soft = [] ∧
       s.deviceAway (s.queue 5).asid (m.desc.extractLsb' 192 64) 256 = false) := by
  intro c st hc hst
  refine ⟨{ aNode .waiting 0 with counter := c }, ?_⟩
  interval_cases c <;> interval_cases st <;> decide +kernel

/-- A group whose one team has not started, on cluster 1: its place free, or its first slot taken; its record ready there. -/
def teamGroup : Group := { group with places := [⟨1, 0, 0, false, []⟩], members := [(0, ⟨.waiting, 0, none, 0, none⟩)] }
def teamState (h : List (Nat × Hart)) (ready : List Record) (steals : List Steal) : State :=
  { State.reset with ctxs := [(1, { Ctx.free with state := .running })], groups := [(1, teamGroup)], nextGroup := 2, harts := h, clusters := [(1, { Cluster.reset with ready := ready })], steals := steals }
theorem test_team_cases :
    (let s := teamState [] [.team 1 0] []
     s.group? 1 = some teamGroup ∧ teamGroup.state = .running ∧ teamGroup.nextTeam 0 = some 0 ∧ teamGroup.places[0]? = some ⟨1, 0, 0, false, []⟩ ∧
       s.placeFree 1 0 teamGroup.n = true ∧ s.placeTakes 1 teamGroup 1 0 = true ∧ s.nextRecord 1 = some (.team 1 0)) ∧
    (let s := teamState [] [] []
     s.placeFree 1 0 teamGroup.n = true ∧ s.placeTakes 1 teamGroup 1 0 = true ∧ s.nextRecord 1 = none ∧ (s.ctx 1).state = .running ∧
       (s.cluster 1).ready = [] ∧ s.steals = []) ∧
    (let s := teamState [(32, base)] [] []
     s.placeFree 1 0 teamGroup.n = false ∧ (s.cluster 1).ready = [] ∧ s.steals = []) ∧
    (let s := teamState [(32, base)] [.team 1 0] []
     (s.cluster 31).ready = [] ∧ (s.hart (32 * 31 + 0)).run = .free ∧ s.steals = [] ∧ s.busiest = some 1 ∧
       ((s.cluster 1).ready.find? fun r => r.isTeam && (s.holdsRecord 31 r).isSome) = some (.team 1 0)) ∧
    (teamState [] [] [⟨some (.team 1 0), 31, 1⟩]).steals[0]? = some ⟨some (.team 1 0), 31, 1⟩ := by decide +kernel

/-- A copy of the last bytes of a block: into memory, and into a tile of its group; a reload of tables; a command that has moved. -/
def copyCmd (st : CmdState) (dst : Word) (len : Word) : Cmd :=
  ⟨0, .cpy, 0, 0, len, dst, 0xFF0, 0, none, 1, some 1, none, false, true, st, [], [], [], [], [], Clock.zero⟩
def engineState (c : Cmd) (tl : Tbl Tile) : State :=
  { mapped base with clusters := [(0, { Cluster.reset with seq := 1, cmds := [c] })], cores := [(0, { Core.reset with tiles := tl })] }
theorem test_engine_cases :
    (let m := copyCmd .accepted 0x40F0 16
     let s := engineState m []
     (s.cluster 0).cmd? 0 = some m ∧ s.recess.start = none ∧ s.beacon + 2048 < (s.recess.number + 1) * 2 ^ 23 ∧ 1 ≤ m.len.toNat ∧
       m.source.toNat % 4096 + m.len.toNat ≤ 4096 ∧ m.dest.toNat % 256 + m.len.toNat ≤ 256 ∧ m.denseBad = false ∧ s.soft = [] ∧
       s.engineTranslate 0 m .load m.source = .ok s (pageLoc + 0xFF0) ∧ s.engineTranslate 0 m .write m.dest = .ok s (pageLoc + 0x40F0) ∧
       slabOf (pageLoc + 0xFF0) = none ∧ slabOf (pageLoc + 0x40F0) = none ∧ pageLoc + 0x40F0 + 256 < 2 ^ 64 ∧
       m.doom = [] ∧ (∀ x, x ∈ (s.cluster 0).cmds → x.seq < 0 → x.state ≠ .accepted ∧ x.state ≠ .reloading) ∧ m.held = [] ∧ s.cached 0 m.asid m.dest = some page ∧ page.dirty = true ∧
       inSlabWindow m.dest = false) ∧
    (let m := copyCmd .waiting slab 1
     let s := engineState m [(7, groupTile .empty 4096)]
     s.engineTranslate 0 m .write m.dest = .ok s slabLoc ∧ s.tileOfLoc slabLoc = some (0, 7, groupTile .empty 4096) ∧ (groupTile .empty 4096).group = m.group ∧
       m.group ≠ none ∧ 64 * 0 + 7 ∉ m.writes ∧ (groupTile .empty 4096).state = .empty ∧ inWindow m.dest = true ∧
       s.tileOfLoc (slabLoc / 4096 * 4096) = s.tileOfLoc slabLoc) ∧
    (let m := { copyCmd .reloading 0 0 with kind := .unpack, source := 0x1000 }
     let s := engineState m []
     m.state = .reloading ∧ s.genUsed 0 true = false ∧ unreachable m.source 624 = false ∧ m.source.toNat % 4096 + 624 ≤ 4096 ∧
       s.engineTranslate 0 m .load m.source = .ok s (pageLoc + 0x1000) ∧ slabOf (pageLoc + 0x1000) = none ∧
       ∀ j, j < 64 → 6 ≤ j → s.viewByte (0 / 8) .c (pageLoc + 0x1000 + j) = 0) ∧
    (let m := copyCmd (.moved 3) 0 0
     let s := engineState m []
     m.state = .moved 3 ∧ (s.cluster 0).seq ≤ 0 + 4097 ∧ m.reads = [] ∧ m.writes = [] ∧ s.writes = []) := by
  refine ⟨⟨by decide +kernel, rfl, by decide +kernel, by decide +kernel, by decide +kernel, by decide +kernel, by decide +kernel, rfl, rfl, rfl, by decide +kernel⟩,
    ⟨rfl, by decide +kernel, rfl, by decide +kernel⟩, ⟨rfl, by decide +kernel, by decide +kernel, by decide +kernel, rfl, by decide +kernel, fun j _ _ => rfl⟩, by decide +kernel⟩

/-! ## Steps of contexts, of time and of power -/

def ctxState (st : CtxState) (hs : List (Nat × Hart)) (gs : List (Nat × Group)) : State :=
  { State.reset with ctxs := [(4095, { Ctx.free with state := st })], harts := hs, groups := gs }
/-- The last context, in each state of its life, with a hart of its own in slot 0 where it runs. -/
theorem test_context_cases :
    4095 < 4096 ∧ (State.reset.ctx 4095).state = .free ∧
    (let s := ctxState .running [(0, { base with asid := 4095 })] []
     (s.ctx 4095).state = .running ∧ s.keysOk ∧ (s.hart 0).asid = 4095 ∧ (s.hart 0).run = .running) ∧
    (∀ st, st ∈ [CtxState.saving, .saved, .dying, .torn, .loaded] → (let s := ctxState st [] []
      (s.ctx 4095).state = st ∧ Vacant s 4095 ∧ s.kernels = [] ∧ s.groups = [] ∧ s.keysOk)) ∧
    (let s := ctxState .saved [] [(1, { group with asid := 4095 })]
     ∃ e, e ∈ s.groups ∧ e.2.asid = 4095 ∧ (e.2.state = .pending ∨ e.2.state = .running)) := by
  refine ⟨by decide, rfl, by unfold State.keysOk rises; decide +kernel, ?_, ⟨_, List.mem_singleton.mpr rfl, rfl, .inr rfl⟩⟩
  intro st hst
  refine ⟨rfl, ⟨?_, ?_⟩, rfl, rfl, ?_⟩
  · intro e he; simp [ctxState] at he
  · intro c m hc; simp [ctxState, State.reset] at hc
  · refine ⟨List.Pairwise.nil, List.pairwise_singleton .., ?_, ?_⟩ <;> intro x hx <;> simp [ctxState, State.reset] at hx

/-- A hart with a save area at the page, standing at a `NOP`: at its forced bound, and with a save fault. -/
def saving (h : Hart) : State :=
  { mappedW { h with member := some member, saveArea := some 0, pc := 0 } (pageBytes (leBytes 4 0xFC000000)) with groups := [(1, group)] }
theorem saving_area (h : Hart) (ha : h.asid = 1) : AreaKnown (saving h) 0 0 fun u => pageLoc + 64 * u := by
  intro u hu
  exact run_of { saving h with cur := 0 } rfl rfl rfl ha .write (.inr (.inl rfl)) 0 rfl (64 * u) (by omega)
theorem saving_mapped (h : Hart) : AreaMapped (saving h) 0 0 := .inl fun _ hp => nomatch hp
theorem test_leave_cases :
    (let s := saving { base with preempt := [⟨0, some 0⟩] }
     (s.hart 0).member = some member ∧ s.group? 1 = some group ∧ group.members.find member.key = some ⟨.running 0, 0, none, 0, none⟩ ∧ (s.hart 0).saveArea = some 0 ∧
       s.recess.start = none ∧ (s.hart 0).run = .running ∧ (s.hart 0).system = false ∧ (s.hart 0).wait = none ∧ (s.hart 0).blk = none ∧
       s.holdsLocket 0 = false ∧ (s.hart 0).wound = false ∧ (s.hart 0).bad = [] ∧ (s.hart 0).task.committing = false ∧ ({ s with cur := 0 } : State).ownTrap = false ∧ (⟨0, some 0⟩ : Preempt) ∈ (s.hart 0).preempt ∧ 0 + 0 ≤ s.beacon) ∧
    (2 ^ 16 = 2 ^ 16 ∨ 2 ^ 16 = 2 ^ 20) ∧ ((saving { base with run := .saveFault 4031 0 true false }).hart 0).run = .saveFault 4031 0 true false ∧
    (base.wound = false) := by decide +kernel

/-- A recess of class 2 in progress, on its time and past it; none in progress. -/
def recessing (start beacon : Nat) : State := { State.reset with beacon := beacon, recess := ⟨0, 2, some start, none, true⟩ }
theorem test_recess_cases : State.reset.recess.start = none ∧ State.reset.beacon + 2048 < startOf 0 ∧ (recessing 0 120000).recess.start = some 0 ∧
    (recessing 0 120000).beacon ≤ 0 + lengthOf 2 ∧ 0 + lengthOf 2 < (recessing 0 120001).beacon ∧ (recessing 0 0).recess.cls = 2 ∧ 31 < 32 ∧
    (∀ c, c < 32 → ∃ x, (List.replicate 32 1050)[c]? = some x ∧ x ≤ 1050) ∧ (∃ y, y ∈ (List.replicate 32 1051).take 32 ∧ 1050 < y) ∧
    ([] : List Nat)[31]? = none ∧ 31 ∈ ({ State.reset with hot := [31] } : State).hot ∧ ({ State.reset with devicePower := 4 } : State).devicePower = 4 ∧
    (recessing 0 0).owed = [] ∧ (∀ q, q < 64 → ((recessing 0 0).queue q).graph = .none) := by decide +kernel

theorem test_power_cases :
    (let s := { State.reset with tol := 20000, beacon := 65536 }
     s.rampDown = false ∧ ({ s with rampDown := true } : State).rampDown = true ∧ 2 ≤ s.tol ∧ 255 < 256 ∧ (s.core 255).power = 0 ∧ (∀ k, k ∈ [1020, 1021, 1022, 1023] → (s.hart k).blk = none ∧ (s.hart k).vq = [] ∧ (s.hart k).run = .free) ∧
       (s.core 255).lastBlock + 4096 ≤ s.beacon ∧ (s.core 255).lastBusy + 65536 ≤ s.beacon) ∧
    (let s := { State.reset with tol := 20000, cores := (List.range 256).map fun c => (c, { Core.reset with power := 2 }), quarterPower := [(0, 3), (1, 3), (2, 3), (3, 3)] }
     800 ≤ s.tol ∧ 20000 ≤ s.tol ∧ (∀ c, c < 64 → (s.core (64 * 3 + c)).power = 2) ∧ (∀ c, c < 8 → (s.cluster (8 * 3 + c)).cmds = []) ∧
       (∀ q, q < 4 → s.quarterPower.get 0 q = 3) ∧ s.rampDown = false ∧ ∀ p, p < 16 → (s.port p).q0 = [] ∧ (s.port p).q1 = []) ∧
    (let s := { State.reset with cores := [(0, { Core.reset with lanes := 31 })], stagger := [(5, 0)] }
     (s.core 0).lanes < 32 ∧ 31 ≤ (s.core 0).lanes ∧ s.temps.get 0 0 < 950 ∧ s.temps = [] ∧ s.capHold = none ∧ (5, 0) ∈ s.stagger ∧ s.ramping = false ∧ ({ s with ramping := true } : State).ramping = true ∧ s.beacon < 0 + 300000000 ∧
       (∀ y, y ∈ s.stagger → y.1 ≤ 5)) ∧ (2 ≤ 40 ∧ 40 ≤ 40) := by decide +kernel

/-! ## Steps of the links -/

theorem test_port_cases :
    (State.reset.owed = [] ∧ ∀ q, q < 64 → (State.reset.queue q).graph = .none) ∧
    15 < 16 ∧ 16 ∈ [64, 32, 16] ∧ 4 ∈ [16, 8, 4] ∧ 8 ∉ [64, 32, 16] ∧ 2 ∉ [16, 8, 4] ∧ (State.reset.port 15).state = .training ∧ State.reset.beacon ≤ (State.reset.port 15).since + 300000000 ∧
    (State.reset.port 15).since + 300000000 ≤ ({ State.reset with beacon := 300000000 } : State).beacon ∧
    (let s := { State.reset with ports := [(15, { Port.reset with state := .down })], beacon := 300000000 }
     (s.port 15).state = .down ∧ (s.port 15).since + 300000000 ≤ s.beacon) ∧
    (let s := { State.reset with ports := [(15, { Port.reset with state := .retraining })] }
     (s.port 15).state = .retraining) ∧
    (let s := { State.reset with ports := [(15, { Port.reset with state := .up })] }
     (s.port 15).state = .up) := by decide +kernel

/-- Messages of the three kinds at a port that is up; their channel bound and not; a put of 256 bytes. -/
def putMessage : BitVec 512 := 2 * 2 ^ 16 + 256 * 2 ^ 32
def linkState (q : List (Nat × BitVec 512)) (rc : List (Nat × Nat)) : State :=
  { mapped base with
    ports := [(0, { Port.reset with state := .up, q0 := q }), (15, { Port.reset with state := .up, q0 := q })]
    ctxs := [(1, { Ctx.free with state := .loaded, receives := rc, putBase := 0x2000000, putLen := 256 })] }
theorem test_put_source : (linkState [(1, putMessage)] []).translate 0 0 1 .load 0 = .ok (linkState [(1, putMessage)] []) pageLoc := rfl

theorem test_link_cases :
    (let s := linkState [(1, 0)] [(15, 0)]
     (s.port 15).state = .up ∧ s.recess.start = none ∧ s.beacon + 2048 < startOf 0 ∧ (s.port 15).fault0 = none ∧ (s.port 15).q0 = (1, 0) :: [] ∧
       (0 : BitVec 512).extractLsb' 16 8 ≠ 2 ∧ msgBad 0 = false ∧ (0 : BitVec 512).extractLsb' 16 8 = 0 ∧ s.receiver 15 (msgChannel 0) = some 1 ∧
       (s.ctx 1).ring0.length < 256 ∧ (linkState [] []).receiver 15 (msgChannel 0) = none ∧ msgBad 0x10000 = false ∧
       (0x10000 : BitVec 512).extractLsb' 16 8 = 1) ∧
    (let s := linkState [] [(15, 0)]
     let blocks := [(false, List.replicate 256 (7 : Byte))]
     msgBad putMessage = false ∧ putMessage.extractLsb' 16 8 = 2 ∧ (∀ b, b ∈ blocks → b.1 = false ∧ b.2.length = 256) ∧ 256 * blocks.length = msgLength putMessage ∧
       receiveBlocks (Config.hallmark s.boots) blocks = some (List.replicate 256 7) ∧ receiveBlocks (Config.hallmark s.boots) [(true, [])] = none ∧ s.soft = [] ∧
       partsOf (msgSource putMessage) (msgLength putMessage) = [(0, 256)] ∧ partsOf (-256) 512 = [(-256, 256), (0, 256)] ∧ ((linkState [(1, putMessage)] []).port 0).q0 = (1, putMessage) :: [] ∧
       s.regions = [] ∧ s.slabForms = [] ∧ s.recess.start = none ∧ s.beacon + 2048 < startOf 0 ∧
       (∀ j, j < 256 → inDram ((s.ctx 1).putBase.toNat + msgOffset putMessage + j) = true) ∧
       (∀ r, r < 4 → quarterClock s.applied r = quarterClock s.issued 3 ∧ s.view r .l = ⟨[], []⟩) ∧
       s.receiver 15 (msgChannel putMessage) = some 1 ∧ (linkState [] []).receiver 15 (msgChannel putMessage) = none ∧ msgOffset putMessage + 256 ≤ (s.ctx 1).putLen ∧ (s.ctx 1).putBase.toNat + (s.ctx 1).putLen < 2 ^ 64 ∧ s.writes = []) := by
  decide +kernel

theorem test_record_read_cases :
    (let r : HostRecord := ⟨9, 0, 0xFFFF, 0, 0, 1, 2⟩
     let s := { State.reset with records := [⟨3, 0, 0, 0, 0, 0, 0⟩, r] }
     (s.records.filter fun r => decide (r.kind ∈ [2, 4, 5, 7, 8, 9]))[s.sideband.read]? = some r ∧
       (State.reset.records.filter fun r => decide (r.kind ∈ [2, 4, 5, 7, 8, 9])).length ≤ State.reset.sideband.read) := by decide +kernel

theorem test_illegal_cases : decode 0x00000000 = .error .unassignedMajor ∧ decode 0xCC000300 = .error .unassignedFunction ∧ (∃ e, decode 0x8000000E = .error e) ∧ (user []).me.blk = none ∧ (user []).me.system = false :=
  ⟨by decide +kernel, by decide +kernel, ⟨_, rfl⟩, rfl, rfl⟩
/-! ## Single steps, with results that the spec states or that follow from it by hand -/

/-- The state after an instruction. -/
def after (i : Instr) (s : State) : State := match exec i s with | .next t => t | _ => s

/-- R92: the quotient and remainder of the least integer by −1; a remainder has the sign of the dividend; a zero divisor sets dz. -/
theorem test_divide :
    (let s := user [(1, 0x8000000000000000), (2, -1), (3, -7), (4, 2)]
     (after (.div 5 1 2) s).me.sget 5 = 0x8000000000000000 ∧ (after (.rem 5 1 2) s).me.sget 5 = 0 ∧ (after (.rem 5 3 4) s).me.sget 5 = -1 ∧
       (after (.div 5 3 4) s).me.sget 5 = -3 ∧ (after (.divu 5 4 0) s).me.sget 5 = -1 ∧ (after (.divu 5 4 0) s).me.fmode = 0x40 ∧
       (after (.mulh 5 1 1) s).me.sget 5 = 0x4000000000000000) := by decide +kernel

/-- R83, R97, R98: S0 stays 0; a link register that is also the target register. -/
theorem test_jumps :
    (let s := user [(1, 0x2000)]
     (after (.jalr 1 1) s).me.pc = 0x2000 ∧ (after (.jalr 1 1) s).me.sget 1 = 0x1004 ∧ (after (.jal 0 0x1FFFFF) s).me.pc = 0x0FFC ∧
       (after (.addi 0 1 1) s).me.sget 0 = 0 ∧ (after (.addpc 2 0xFFFF) s).me.sget 2 = 0x0FFC) := by decide +kernel

/-- R40: 1.1 lies below the midpoint of V(0) and V(1), 1.0946044921875, so under RNE 1.1 gives 0x01. -/
theorem test_l6_rounding : (convert .fp32 .l6 (rounding 1 0) 0x3F8CCCCD).1 = 0x01 := by decide +kernel

/-- R179: `pface.avg` of 1 + 2x and L_3 gives 0.5, 1, 0, 0.5 and `pface.jump` gives 1, 2, 0, −1, both at degree 3. -/
theorem test_face_example :
    (let h := { polyH [(1, 0x010311), (2, 0x010331), (3, 0x010301)] with
      p := ((Vector.replicate 16 0).set 1 (BitVec.ofNat 32768 (0x3F800000 + 0x40000000 * 2 ^ 32))).set 2 (BitVec.ofNat 32768 (0x3F800000 * 2 ^ 96)) }
     let modes := fun (i : Instr) => (List.range 4).map fun j => polySlot (after i (one h)).me 3 0 0 j
     modes (.pfaceAvg 3 1 2 0) = [0x3F000000, 0x3F800000, 0, 0x3F000000] ∧ modes (.pfaceJump 3 1 2 0) = [0x3F800000, 0x40000000, 0, 0xBF800000] ∧
       dDeg ((after (.pfaceAvg 3 1 2 0) (one h)).me.dget 3) = 3) := by decide +kernel

/-- R392: past the published end of recess 3, of class 1, `TIMETBL` writes until 0, class 1, in, number 3. -/
theorem test_timetable :
    (after (.timetbl 6) { user [] with beacon := 2 ^ 25 + 36000, recess := ⟨3, 1, some (2 ^ 25), none, false⟩ }).me.sget 6 = 0x0000030500000000 := by
  decide +kernel

/-- R388: the worked leaf in system mode and in task mode. -/
theorem test_probe_example :
    (let t : Trans := ⟨1, 0x1234560000, 16, 0x000400401005030F, [], true⟩
     let s := fun (sysm : Bool) => { one { withS base [(7, 0x1234567890)] with system := sysm } with tlbs := [(0, [t])] }
     (after (.pgprobe 6 7) (s true)).me.sget 6 = 0x0000004010050407 ∧ (after (.pgprobe 6 7) (s false)).me.sget 6 = 0x0407) := by decide +kernel

/-- The worked case of R207: 2²⁴ and then 31 ones against ones: the exact sum 2²⁴ + 31 rounds once, to the even 2²⁴ + 32. -/
theorem test_one_rounding :
    (let h := { withV (vec 0x1004 16) [(8, BitVec.ofNat 2048 (0x4B80 + ((List.range 31).map fun k => 0x3F80 * 2 ^ (16 * (k + 1))).sum))] with wait := none }
     let l : Latch := ⟨BitVec.ofNat 32768 ((List.range 32).map fun k => 0x3F80 * 2 ^ (16 * k)).sum, 6, 0⟩
     (accumulate false false 0 ((h.mmaHalf 8 0 6 l).blocks 0 0)).1 = 0x4B800010 ∧ (accumulate false false 0 ((h.mmaHalf 8 0 6 l).blocks 0 1)).1 = 0) := by
  decide +kernel

/-- R100, R102, R103: a software trap and the return from it. -/
theorem test_trap_and_return :
    (let t := (after (.trap 7) (user [(29, 5)])).me
     t.pc = 0x10400 ∧ t.lepc = 0x1004 ∧ t.lcause = 0x10 ∧ t.laddr = 7 ∧ t.system = true ∧ t.lhold = 5 ∧
       (after .rett (one t)).me.pc = 0x1004 ∧ (after .rett (one t)).me.sget 29 = 5 ∧ (after .rett (one t)).me.system = false) := by decide +kernel

/-- R52, R53: 1 ÷ 0 in FP32 gives infinity, raises divide-by-zero and marks the exception mask; the inactive element stays. -/
theorem test_vector_divide :
    (let h := { withV (vec 0x1007 2) [(1, 0x3F8000003F800000), (3, 0x1111111122222222)] with m := (Vector.replicate 16 0).set 1 (1 : MWord) }
     let t := (after (.vdiv 3 1 2 1 0 1) (one h)).me
     t.elem 3 32 0 = 0x7F800000 ∧ t.elem 3 32 1 = 0x11111111 ∧ t.fmode = 0x40 ∧ t.mget 12 = 1) := by decide +kernel

/-- R45: under `fmode.sat` an infinite result of an infinite input becomes the largest finite magnitude, without a flag. -/
theorem test_saturated_max :
    (let s := one { withS base [(1, 0x7F800000), (2, 0x3F800000)] with fmode := 4 }
     (after (.fmax 3 1 2 0) s).me.sget 3 = 0x7F7FFFFF ∧ (after (.fmax 3 1 2 0) s).me.fmode = 4) := by decide +kernel

/-- R124, R47: a scale of 0xFF gives a NaN with no operand NaN, the canonical one under `fmode.nanp` too, though the element is a NaN. -/
theorem test_scale_nan :
    (let s := one { withV (vec 0x1007 1) [(1, 0x7FC00001), (2, 0xFF)] with fmode := 8 }
     (after (.vscale 3 1 2 0 0 0) s).me.elem 3 32 0 = 0x7FC00000) := by decide +kernel

/-- R27, R132: `VPERM` under L6 reads the six value bits of its index. -/
theorem test_permute_index :
    (let s := one (withV (vec 0x100C 1) [(1, 0x2211), (2, 0xC1)])
     (after (.vperm 3 1 2 0) s).me.elem 3 8 0 = 0x22) := by decide +kernel

/-- R336: the hart of a stopped debugger session stands still, and goes on when its context does. -/
theorem test_session :
    (let s := fun (stop : Bool) => { atPage { base with s := (withS base [(2, 0x1000)]).s } 0x1CA20083 with ctxs := [(1, { Ctx.free with state := .running, held := stop })] }
     (match step (s true), step (s false) with | .next t, .next u => decide (t.me = (s true).me ∧ u.me.pc = 0x1004) | _, _ => false) = true) := by decide +kernel

/-- R7: a step of the host does nothing while the host link is down. -/
theorem test_host_step :
    (let s := fun (l : Option HostLink) => { State.reset with hostLink := l, ports := [(15, { Port.reset with state := .down })], schedule := [.event (.portEnable 15)] }
     let st := fun (o : Host.Outcome State Fault Refusal) => match o with | .next t => some (t.port 15).state | _ => none
     st (step (s none)) = some .down ∧ st (step (s (some ⟨64, 16, []⟩))) = some .training) := by decide +kernel

/-- R385: a tear-down ends the wait of a port for an answer, and the put leaves its queue. -/
theorem test_tear_down_port :
    (let s := { mapped { base with run := .free } with
       faults := [faultOf 0xC000 0]
       ctxs := [(1, { Ctx.free with state := .saved })]
       ports := [(0, { Port.reset with state := .up, q0 := [(1, putMessage)], fault0 := some 9 })] }
     ((after (.contextTearDown 1) s).port 0).fault0 = none ∧ ((after (.contextTearDown 1) s).port 0).q0 = []) := by decide +kernel

/-- R113, R136: an illegal word of a vector major is refused in a block of its own. -/
theorem test_illegal_vector_word :
    (let t := (after (.illegalInstruction 0x8000000E) (user [])).me
     t.lcause = 0x101 ∧ t.lepc = 0x1000 ∧ t.laddr = 0x8000000E ∧ t.pc = 0x10040) := by decide +kernel

/-- A first instruction runs when it is placed where the step fetches. -/
theorem test_first_step :
    (match step (State.reset.withFetchWord 32 0x0860FFFF) with | .next t => t.me.sget 3 | _ => 0) = -1 := by decide +kernel
end Sys2Proof.Tests
end

/-! PROOFS. The return from a trap (R102, R369): the exchange of S29, the two cases of `Hart.ret`, and O10. -/

namespace Sys2Proof.Machine

/-! ## The word that a trap records -/

/-- The word of an instruction is its encoding, wherever it has one (R101). -/
theorem wordOf_of_encode {i : Instr} {w : IWord} (h : encode i = some w) : wordOf i = BitVec.ofNat 64 w.toNat := by
  simp only [wordOf, h, Option.getD_some]
  exact (BitVec.ofNat_toNat 64 w).symm

/-! ## The exchange of S29 with `lhold` (R100, R102) -/

/-- S29 reads what `lhold` held; every other register reads as before. -/
theorem Hart.sget_exchange (h : Hart) (r : SReg) : h.exchange.sget r = if r = 29 then h.lhold else h.sget r := by
  have at29 : r.toNat = 29 ↔ r = 29 := BitVec.toNat_inj (y := (29 : SReg))
  simp only [Hart.sget, Hart.exchange, getD_set _ _ _ _ _ r.isLt, at29]
  by_cases h29 : r = 29
  · simp [h29]
  · simp only [if_neg h29]

/-! ## The two ways on from a handler (R102, R369) -/

/-- With `lcause.vec` set and a vector resume state held, the trapped block resumes at `lepc` and the scalar stream at its resume point. -/
theorem Hart.ret_of_vrs {h : Hart} {r : VResume} (hvec : h.lcause.getLsbD 8 = true) (hvrs : h.vrs = some r) :
    h.ret = { h.exchange with
      pc := r.resume
      velem := h.lvelem
      system := false
      vrs := none
      wait := none
      blk := some (if r.trapped.pc = h.lepc then r.trapped else r.trapped.goto h.lepc)
      vq := r.queued } := by
  simp only [Hart.ret, hvec, hvrs, if_true]

/-- Otherwise the vector resume state is discarded, and the scalar stream goes on at `lepc`. -/
theorem Hart.ret_of_no_vrs {h : Hart} (hno : h.lcause.getLsbD 8 = false ∨ h.vrs = none) :
    h.ret = { h.exchange with pc := h.lepc, velem := h.lvelem, system := false, vrs := none, wait := none } := by
  cases hvec : h.lcause.getLsbD 8 with
  | false => simp only [Hart.ret, hvec, Bool.false_eq_true, if_false]
  | true =>
    have hvrs : h.vrs = none := hno.resolve_left (by simp [hvec])
    simp only [Hart.ret, hvec, hvrs, if_true]

/-- Either way the register file is the exchanged one. -/
theorem Hart.ret_s (h : Hart) : h.ret.s = h.exchange.s := by
  unfold Hart.ret
  split
  · split <;> rfl
  · rfl

/-- Of the scalar registers a return exchanges S29 alone. -/
theorem Hart.sget_ret (h : Hart) (r : SReg) : h.ret.sget r = if r = 29 then h.lhold else h.sget r := by
  rw [← Hart.sget_exchange, Hart.sget, Hart.ret_s, Hart.sget]

end Sys2Proof.Machine

namespace Sys2Proof.Proofs

open Sys2Proof.Machine

/-! ## `RETT` by mode (R102) -/

theorem exec_rett (s : State) : exec .rett s = execRett s := rfl

/-- In task mode `RETT` traps. -/
theorem exec_rett_task {s : State} (hm : s.me.system = false) : exec .rett s = .next (s.trap tPrivilege (wordOf .rett)) := by
  simp only [exec_rett, execRett, hm, Bool.false_eq_true, if_false]

/-- In system mode it changes the executing hart, as `Hart.ret` says, and nothing else. -/
theorem exec_rett_system {s : State} (hm : s.me.system = true) : exec .rett s = .next (s.setMe s.me.ret) := by
  simp only [exec_rett, execRett, hm, if_true, State.upd]

/-- Settles O10: in task mode by the trap of the scalar stream, in system mode by the cases of `lcause.vec` and of the vector
resume state. -/
theorem returnFromTrap : Obligations.ReturnFromTrap := by
  intro s
  constructor
  · intro hm w hw
    rw [exec_rett_task hm, wordOf_of_encode hw]
    exact trapAt_taken s 0x02 s.me.pc _ hm (by decide)
  · intro hm
    refine ⟨s.setMe s.me.ret, exec_rett_system hm, ⟨by rw [State.me_setMe], fun _ _ _ => rfl⟩, ?_⟩
    rw [State.me_setMe]
    refine ⟨?_, by simp [Hart.sget_ret], ?_⟩
    · intro r hr
      have h29 : r ≠ 29 := hr.elim id fun h0 => by simp [h0]
      rw [Hart.sget_ret, if_neg h29]
    · rw [Hart.ret_s]
      cases hvec : s.me.lcause.getLsbD 8 with
      | false => exact Hart.ret_of_no_vrs (.inl hvec)
      | true =>
        cases hvrs : s.me.vrs with
        | none => exact Hart.ret_of_no_vrs (.inr hvrs)
        | some r => exact Hart.ret_of_vrs hvec hvrs

end Sys2Proof.Proofs

/-! PROOFS. A vector word that completes (R107, R112, R113, R122, R136): fields of a register, the elements of a group, where the hart
goes on, and the element-wise forms that raise no flag and write no exception mask. -/

namespace Sys2Proof.Machine

open Sys2Proof.Claim

/-! ## Fields of a wide register -/

theorem testBit_fieldOf {w : Nat} (x : BitVec w) (lo n k : Nat) :
    (fieldOf x lo n).testBit k = (decide (k < n) && x.getLsbD (lo + k)) := by
  rw [fieldOf, Nat.testBit_mod_two_pow, Nat.testBit_shiftRight, BitVec.testBit_toNat]

/-- A number whose field of `n` bits at bit `lo` is replaced: the bits above it, the new field, the bits below it. -/
theorem replaceField_eq (x lo n v : Nat) :
    x - ((x >>> lo % 2 ^ n) <<< lo) + ((v % 2 ^ n) <<< lo) = 2 ^ lo * (2 ^ n * (x >>> lo >>> n) + v % 2 ^ n) + x % 2 ^ lo := by
  have above : 2 ^ n * (x >>> lo >>> n) + x >>> lo % 2 ^ n = x >>> lo := by
    rw [Nat.shiftRight_eq_div_pow _ n]; exact Nat.div_add_mod _ _
  have whole : 2 ^ lo * (x >>> lo) + x % 2 ^ lo = x := by
    rw [Nat.shiftRight_eq_div_pow]; exact Nat.div_add_mod _ _
  have parts : 2 ^ lo * (x >>> lo) = 2 ^ lo * (2 ^ n * (x >>> lo >>> n)) + 2 ^ lo * (x >>> lo % 2 ^ n) := by
    rw [← Nat.mul_add, above]
  rw [Nat.shiftLeft_eq, Nat.shiftLeft_eq, Nat.mul_comm _ (2 ^ lo), Nat.mul_comm _ (2 ^ lo), Nat.mul_add]
  omega

/-- The bits of the replaced field are the new ones, all others the old ones. -/
theorem getLsbD_setField {w : Nat} (x : BitVec w) (lo n v k : Nat) (hfit : lo + n ≤ w) :
    (setField x lo n v).getLsbD k = if lo ≤ k ∧ k < lo + n then v.testBit (k - lo) else x.getLsbD k := by
  rw [setField, BitVec.getLsbD_ofNat, fieldOf, replaceField_eq, Nat.testBit_two_pow_mul_add _ (Nat.mod_lt _ (Nat.two_pow_pos lo)),
    Nat.testBit_two_pow_mul_add _ (Nat.mod_lt _ (Nat.two_pow_pos n))]
  by_cases hw : k < w
  · by_cases hlo : k < lo
    · simp [hlo, Nat.not_le.2 hlo, hw, BitVec.testBit_toNat, -BitVec.getLsbD_eq_getElem]
    · by_cases hn : k < lo + n
      · have hk : k - lo < n := by omega
        simp [hw, hlo, Nat.not_lt.1 hlo, hn, hk]
      · have hk : ¬k - lo < n := by omega
        have hsum : lo + (n + (k - lo - n)) = k := by omega
        simp [hw, hlo, hn, hk, Nat.testBit_shiftRight, hsum, BitVec.testBit_toNat, -BitVec.getLsbD_eq_getElem]
  · have hn : ¬k < lo + n := by omega
    simp [hw, hn, BitVec.getLsbD_of_ge x k (Nat.not_lt.1 hw)]

theorem fieldOf_setField_same {w : Nat} (x : BitVec w) (lo n v : Nat) (hfit : lo + n ≤ w) :
    fieldOf (setField x lo n v) lo n = v % 2 ^ n := by
  apply Nat.eq_of_testBit_eq
  intro k
  rw [testBit_fieldOf, getLsbD_setField _ _ _ _ _ hfit, Nat.testBit_mod_two_pow]
  by_cases hk : k < n <;> simp [hk]

theorem fieldOf_setField_apart {w : Nat} (x : BitVec w) (lo n v lo' n' : Nat) (hfit : lo + n ≤ w) (hapart : lo' + n' ≤ lo ∨ lo + n ≤ lo') :
    fieldOf (setField x lo n v) lo' n' = fieldOf x lo' n' := by
  apply Nat.eq_of_testBit_eq
  intro k
  rw [testBit_fieldOf, testBit_fieldOf, getLsbD_setField _ _ _ _ _ hfit]
  by_cases hk : k < n'
  · rw [if_neg (by omega)]
  · simp [hk]

/-! ## Elements of a group (R107) -/

/-- A container whose width divides 2,048 lies inside one register. -/
theorem container_fits {w : Nat} (hw : w ∣ 2048) (i : Nat) : w * i % 2048 + w ≤ 2048 := by
  obtain ⟨k, hk⟩ := hw
  have hpos : 0 < k := Nat.pos_of_ne_zero (by rintro rfl; omega)
  have hle : w * (i % k + 1) ≤ w * k := Nat.mul_le_mul_left _ (Nat.mod_lt i hpos)
  rw [hk, Nat.mul_mod_mul_left]
  rwa [Nat.mul_add, Nat.mul_one] at hle

/-- Of two containers of one register the earlier ends where the later begins, or before. -/
theorem container_before {w i j : Nat} (hlt : i < j) (hreg : w * i / 2048 = w * j / 2048) : w * i % 2048 + w ≤ w * j % 2048 := by
  have hi := Nat.div_add_mod (w * i) 2048
  have hj := Nat.div_add_mod (w * j) 2048
  have hle : w * i + w ≤ w * j := Nat.mul_succ w i ▸ Nat.mul_le_mul_left w hlt
  omega

/-- Two containers of one register do not overlap. -/
theorem container_apart {w i j : Nat} (hij : i ≠ j) (hreg : w * i / 2048 = w * j / 2048) :
    w * j % 2048 + w ≤ w * i % 2048 ∨ w * i % 2048 + w ≤ w * j % 2048 :=
  (Nat.lt_or_gt_of_ne hij).symm.imp (container_before · hreg.symm) (container_before · hreg)

theorem Fmt.width_dvd (f : Fmt) : f.width ∣ 2048 := by cases f <;> decide

/-- Reading a vector register after a write of an element elsewhere. -/
theorem Hart.vget_setElem_ne (h : Hart) {r w i q : Nat} (e : Elem) (hq : q < 32) (hne : q ≠ r + w * i / 2048) :
    (h.setElem r w i e).vget q = h.vget q := by
  rw [Hart.setElem, Hart.vget_vput _ _ _ _ hq, if_neg hne]

/-- Reading an element after a write of an element of the same group: a write fills its container and no other. -/
theorem Hart.elem_setElem (h : Hart) {r w : Nat} (hw : w ∣ 2048) (i j : Nat) (e : Elem) (hj : r + w * j / 2048 < 32) :
    (h.setElem r w i e).elem r w j = if j = i then lowBits w e else h.elem r w j := by
  by_cases hreg : w * j / 2048 = w * i / 2048
  · rw [Hart.elem, Hart.setElem, Hart.vget_vput _ _ _ _ hj, if_pos (by rw [hreg])]
    by_cases hji : j = i
    · subst hji
      rw [if_pos rfl, fieldOf_setField_same _ _ _ _ (container_fits hw j), lowBits]
    · rw [if_neg hji, fieldOf_setField_apart _ _ _ _ _ _ (container_fits hw i) (container_apart (Ne.symm hji) hreg.symm), ← hreg, Hart.elem]
  · have hji : j ≠ i := fun e => hreg (by rw [e])
    rw [if_neg hji, Hart.elem, Hart.vget_setElem_ne _ _ hj (by omega), Hart.elem]

/-- Write the listed elements of a group in turn, as `Hart.elementwise` does. -/
def Hart.setElems (h : Hart) (r w : Nat) (l : List Nat) (f : Nat → Elem) : Hart := l.foldl (fun g j => g.setElem r w j (f j)) h

theorem Hart.setElems_cons (h : Hart) (r w i : Nat) (l : List Nat) (f : Nat → Elem) :
    h.setElems r w (i :: l) f = (h.setElem r w i (f i)).setElems r w l f := rfl

theorem Hart.setElems_eq (h : Hart) (r w : Nat) (l : List Nat) (f : Nat → Elem) :
    h.setElems r w l f = { h with v := (h.setElems r w l f).v } := by
  induction l generalizing h with
  | nil => rfl
  | cons i l ih => rw [Hart.setElems_cons, ih]; rfl

theorem Hart.elem_setElems (h : Hart) {r w : Nat} (hw : w ∣ 2048) (l : List Nat) (f : Nat → Elem) (j : Nat) (hj : r + w * j / 2048 < 32) :
    (h.setElems r w l f).elem r w j = if j ∈ l then lowBits w (f j) else h.elem r w j := by
  induction l generalizing h with
  | nil => simp [Hart.setElems]
  | cons i l ih =>
    rw [Hart.setElems_cons, ih, Hart.elem_setElem h hw i j _ hj]
    by_cases hmem : j ∈ l
    · simp [hmem]
    · by_cases hji : j = i <;> simp [hmem, hji]

theorem Hart.vget_setElems_ne (h : Hart) {r w q : Nat} (l : List Nat) (f : Nat → Elem) (hq : q < 32) (hne : ∀ j, j ∈ l → q ≠ r + w * j / 2048) :
    (h.setElems r w l f).vget q = h.vget q := by
  induction l generalizing h with
  | nil => rfl
  | cons i l ih =>
    rw [Hart.setElems_cons, ih _ fun j hj => hne j (List.mem_cons_of_mem i hj), Hart.vget_setElem_ne _ _ hq (hne i List.mem_cons_self)]

@[simp] theorem Hart.mem_actives (h : Hart) (mk : MReg) (j : Nat) : j ∈ h.actives mk ↔ Active h mk j := by
  simp only [Hart.actives, Hart.active, List.mem_filter, List.mem_range, Bool.and_eq_true, decide_eq_true_eq, Active]
  tauto

/-- Writing the active elements of a group is what R122 asks of one. -/
theorem Hart.elementsSet_setElems (h : Hart) (vd : VReg) (mk : MReg) {w : Nat} (hw : w ∣ 2048) (f : Nat → Elem) :
    ElementsSet h (h.setElems vd.toNat w (h.actives mk) f) vd w (Active h mk) (fun j => lowBits w (f j)) := by
  refine ⟨fun j hact hj => ?_, fun j hact hj => ?_, fun r hr hne => ?_⟩
  · rw [Hart.elem_setElems h hw _ _ _ hj, if_pos (by simpa using hact)]
  · rw [Hart.elem_setElems h hw _ _ _ hj, if_neg (by simpa using hact)]
  · exact Hart.vget_setElems_ne h _ _ hr fun j hj => hne j (by simpa using hj)

/-! ## Going on to the next word (R112, R113, R370) -/

/-- The next word changes only where the hart stands. -/
theorem Hart.vnext_eq (h : Hart) : h.vnext = { h with pc := h.vnext.pc, blk := h.vnext.blk, vq := h.vnext.vq, velem := 0 } := by
  unfold Hart.vnext
  split
  · split
    · unfold Hart.endBlock; split <;> rfl
    · rfl
  · rfl

/-- A word of the scalar stream. -/
theorem Hart.vnext_of_none {h : Hart} (hblk : h.blk = none) : h.vnext = { h with pc := h.pc + 4, velem := 0 } := by
  simp only [Hart.vnext, hblk]

/-- The word of an implied block, which ends with it. -/
theorem Hart.vnext_of_implied {h : Hart} {b : Block} (hblk : h.blk = some b) (himp : b.implied = true) :
    h.vnext = { h with velem := 0 }.endBlock := by
  simp only [Hart.vnext, hblk, himp, if_true]

/-- A word of any other block. -/
theorem Hart.vnext_of_block {h : Hart} {b : Block} (hblk : h.blk = some b) (himp : b.implied = false) :
    h.vnext = { h with blk := some (b.goto (b.pc + 4)), velem := 0 } := by
  simp only [Hart.vnext, hblk, himp, Bool.false_eq_true, if_false]

theorem Hart.advanced_vnext (h : Hart) : Advanced h h.vnext := by
  cases hblk : h.blk with
  | none => simp [Advanced, hblk, Hart.vnext_of_none hblk]
  | some b =>
    cases himp : b.implied with
    | false => simp [Advanced, hblk, himp, Hart.vnext_of_block hblk himp, Block.goto]
    | true => cases hvq : h.vq <;> simp [Advanced, hblk, himp, hvq, Hart.vnext_of_implied hblk himp, Hart.endBlock]

theorem vectorOn_vnext {t : State} {h : Hart} (ht : t.me = h.vnext) : VectorOn t h := by
  rw [VectorOn, ht]
  exact ⟨h.advanced_vnext, h.vnext_eq⟩

/-- A change of the executing hart leaves the rest of the device. -/
theorem onlyMe_setMe (s : State) (h : Hart) : OnlyMe s (s.setMe h) := ⟨by rw [State.me_setMe], fun _ _ _ => rfl⟩

@[simp] theorem Hart.sget_vnext (h : Hart) (r : SReg) : h.vnext.sget r = h.sget r := by rw [Hart.sget, Hart.vnext_s, Hart.sget]
@[simp] theorem Hart.mget_vnext (h : Hart) (r : MReg) : h.vnext.mget r = h.mget r := by rw [Hart.mget, Hart.vnext_m, Hart.mget]
@[simp] theorem Hart.vget_vnext (h : Hart) (r : Nat) : h.vnext.vget r = h.vget r := by rw [Hart.vget, Hart.vnext_v, Hart.vget]
@[simp] theorem Hart.elem_vnext (h : Hart) (r w i : Nat) : h.vnext.elem r w i = h.elem r w i := by rw [Hart.elem, Hart.vget_vnext, Hart.elem]

/-! ## The checks of R136 -/

/-- A word without groups needs only `velem` without the mark of R147. -/
theorem fits_nil {h : Hart} (hvelem : h.velem.getLsbD 15 = false) : Fits h [] := ⟨hvelem, fun _ hg => absurd hg List.not_mem_nil⟩

/-- A form whose groups fit and whose format is accepted runs. -/
theorem State.vform_of_fits {s : State} {groups : List (VReg × Nat)} {ok : Fmt → Bool} (hfits : Fits s.me groups)
    (hok : ok (cfgFmt s.me.cfg) = true) (i : Instr) (k : State) : s.vform i groups ok k = k := by
  obtain ⟨hvelem, hgroups⟩ := hfits
  have hany : (groups.any fun g => s.me.groupBad g.1 g.2) = false := by simpa using fun r w hg => hgroups (r, w) hg
  simp only [State.vform, Hart.markedVelem, hvelem, hany, hok, Bool.or_self, Bool.not_true, Bool.false_eq_true, if_false]

/-! ## Element-wise forms without flags and marks (R125, R126) -/

@[simp] theorem Hart.raise_fNone (h : Hart) : h.raise fNone = h := by simp [Hart.raise, accrue, fNone]

@[simp] theorem Hart.putExc_zero (h : Hart) (p : Nat → Bool) : h.putExc 0 p = h := rfl

/-- No flag of any element, none of all together. -/
theorem foldl_flags_of_fNone (l : List (Nat × ElemRes)) (hnone : ∀ r, r ∈ l → r.2.flags = fNone) :
    l.foldl (fun x r => x ||| r.2.flags) fNone = fNone := by
  induction l with
  | nil => rfl
  | cons r l ih => rw [List.foldl_cons, hnone r List.mem_cons_self]; exact ih fun q hq => hnone q (List.mem_cons_of_mem r hq)

/-- A form that raises no flag and names no exception mask writes its active elements and goes on. -/
theorem Hart.elementwise_of_fNone (h : Hart) (vd : VReg) (mk : MReg) (w : Nat) {f : Nat → ElemRes} (hnone : ∀ j, (f j).flags = fNone) :
    h.elementwise vd mk 0 w f = (h.setElems vd.toNat w (h.actives mk) fun j => (f j).val).vnext := by
  have hflags : ∀ r, r ∈ (h.actives mk).map (fun i => (i, f i)) → r.2.flags = fNone := by
    intro r hr
    obtain ⟨i, -, rfl⟩ := List.mem_map.1 hr
    exact hnone i
  rw [Hart.elementwise, foldl_flags_of_fNone _ hflags, Hart.raise_fNone, Hart.putExc_zero, List.foldl_map, Hart.setElems]

/-- Such a form completes, each active element with the bits of its result that its container holds. -/
theorem elementwise_done {s : State} {groups : List (VReg × Nat)} {ok : Fmt → Bool} (hfits : Fits s.me groups)
    (hok : ok (cfgFmt s.me.cfg) = true) (i : Instr) (vd : VReg) (mk : MReg) {f : Nat → ElemRes} {val : Nat → Elem} (nanIn : Nat → Bool)
    (hnone : ∀ j, (f j).flags = fNone) (hval : ∀ j, lowBits (cfgFmt s.me.cfg).width (f j).val = val j) :
    Elementwise (.next (s.vform i groups ok (s.setMe (s.me.elementwise vd mk 0 (cfgFmt s.me.cfg).width f)))) s vd mk 0 (cfgFmt s.me.cfg)
      (fun j => (val j, 0)) nanIn := by
  rw [State.vform_of_fits hfits hok, Hart.elementwise_of_fNone _ _ _ _ hnone]
  have hset := s.me.elementsSet_setElems vd mk (cfgFmt s.me.cfg).width_dvd fun j => (f j).val
  have heq := s.me.setElems_eq vd.toNat (cfgFmt s.me.cfg).width (s.me.actives mk) fun j => (f j).val
  generalize s.me.setElems vd.toNat (cfgFmt s.me.cfg).width (s.me.actives mk) (fun j => (f j).val) = g at hset heq ⊢
  have hfmode : g.fmode = s.me.fmode := by rw [heq]
  have hm : g.m = s.me.m := by rw [heq]
  refine ⟨s.setMe g.vnext, rfl, onlyMe_setMe _ _, ?_, ?_, fun k => ?_, fun r => ?_⟩
  · have hg : g = { s.me with v := g.vnext.v, m := g.vnext.m, fmode := g.vnext.fmode } := by
      rw [Hart.vnext_v, Hart.vnext_m, Hart.vnext_fmode, hfmode, hm]; exact heq
    rw [State.me_setMe, ← hg]
    exact vectorOn_vnext (State.me_setMe _ _)
  · simpa [ElementsSet, hval] using hset
  · simp [hfmode]
  · simp [Hart.mget, hm]

end Sys2Proof.Machine

/-! PROOFS. The bitwise forms, the shifts, `VPOPC`, `VMV` and `VID` (R125, R126): value bits, counts of bits, the nine words, and O24. -/

namespace Sys2Proof.Machine

open Sys2Proof.Claim

/-! ## Value bits (R25, R27) -/

theorem Fmt.width_le (f : Fmt) : f.width ≤ 64 := by cases f <;> decide
theorem Fmt.vbits_le_width (f : Fmt) : f.vbits ≤ f.width := by cases f <;> decide
theorem Fmt.vbits_of_isInt {f : Fmt} (hint : f.isInt = true) : f.vbits = f.width := by
  revert hint; cases f <;> decide
theorem okInt_of_mem_intFmts {f : Fmt} (hint : f ∈ intFmts) : okInt f = true := by
  revert hint; cases f <;> decide
theorem valueWidth_eq_vbits (f : Fmt) : valueWidth f = f.vbits := by cases f <;> rfl

theorem lowBits_toNat {n : Nat} (hn : n ≤ 64) (e : Elem) : (lowBits n e).toNat = e.toNat % 2 ^ n := by
  rw [lowBits, BitVec.toNat_ofNat]
  exact Nat.mod_eq_of_lt (lt_of_lt_of_le (Nat.mod_lt _ (Nat.two_pow_pos n)) (Nat.pow_le_pow_right (by decide) hn))

/-- Bits kept twice: the fewer of the two. -/
theorem lowBits_lowBits_of_le {m n : Nat} (hmn : m ≤ n) (hn : n ≤ 64) (e : Elem) : lowBits m (lowBits n e) = lowBits m e := by
  rw [lowBits, lowBits_toNat hn, Nat.mod_mod_of_dvd _ (Nat.pow_dvd_pow 2 hmn), lowBits]

theorem lowBits_lowBits_of_ge {m n : Nat} (hnm : n ≤ m) (hm : m ≤ 64) (e : Elem) : lowBits m (lowBits n e) = lowBits n e := by
  rw [lowBits, lowBits_toNat (hnm.trans hm), Nat.mod_eq_of_lt, lowBits]
  exact lt_of_lt_of_le (Nat.mod_lt _ (Nat.two_pow_pos n)) (Nat.pow_le_pow_right (by decide) hnm)

/-- The container holds the value bits of an element. -/
@[simp] theorem lowBits_width_valueBits (f : Fmt) (e : Elem) : lowBits f.width (valueBits f e) = valueBits f e :=
  lowBits_lowBits_of_ge f.vbits_le_width f.width_le e

/-- The value bits of an element are those of its container. -/
@[simp] theorem valueBits_lowBits_width (f : Fmt) (e : Elem) : valueBits f (lowBits f.width e) = valueBits f e :=
  lowBits_lowBits_of_le f.vbits_le_width f.width_le e

theorem valueBits_of_isInt {f : Fmt} (hint : f.isInt = true) (e : Elem) : valueBits f e = lowBits f.width e := by
  rw [valueBits, Fmt.vbits_of_isInt hint]

/-- An integer wrapped to `n` bits is the low bits of its word. -/
theorem wrapInt_eq_lowBits {n : Nat} (hn : n ≤ 64) (x : Int) : wrapInt n x = lowBits n (BitVec.ofInt 64 x) := by
  have hdvd : (2 ^ n : Int) ∣ 2 ^ 64 := pow_dvd_pow 2 hn
  have hpos : (0 : Int) < 2 ^ 64 := by decide
  rw [wrapInt, lowBits, BitVec.toNat_ofInt]
  congr 1
  apply Int.ofNat.inj
  simp only [Int.ofNat_eq_natCast]
  push_cast
  rw [Int.toNat_of_nonneg (Int.emod_nonneg _ (by positivity)), Int.toNat_of_nonneg (Int.emod_nonneg _ (by decide))]
  exact (Int.emod_emod_of_dvd x hdvd).symm

/-! ## Counting bits (R126) -/

theorem bitCount_eq_countP (x k : Nat) : bitCount x k = (List.range k).countP fun i => x.testBit i := by
  have same : bitCount x k = oneBits x k := by
    induction k generalizing x with
    | zero => rfl
    | succ k ih => rw [bitCount, oneBits, ih]
  rw [same, pop_spec]

/-- Among the low bits of a word the counter finds those of the field. -/
theorem bitCount_lowBits {n : Nat} (hn : n ≤ 64) (e : Elem) :
    bitCount (lowBits n e).toNat 64 = (List.range n).countP fun k => e.getLsbD k := by
  have hin : ∀ k, (e.toNat % 2 ^ n).testBit k = (decide (k < n) && e.getLsbD k) := fun k => by
    rw [Nat.testBit_mod_two_pow, BitVec.testBit_toNat]
  have hlow : (List.range n).countP (fun i => (e.toNat % 2 ^ n).testBit i) = (List.range n).countP fun k => e.getLsbD k :=
    List.countP_congr fun k hk => by simp [hin, List.mem_range.1 hk]
  have hhigh : (List.range (64 - n)).countP ((fun i => (e.toNat % 2 ^ n).testBit i) ∘ (n + ·)) = 0 :=
    List.countP_eq_zero.2 fun k _ => by simp [hin]
  calc bitCount (lowBits n e).toNat 64
      = (List.range (n + (64 - n))).countP fun i => (e.toNat % 2 ^ n).testBit i := by
        rw [bitCount_eq_countP, lowBits_toNat hn, Nat.add_sub_cancel' hn]
    _ = (List.range n).countP fun k => e.getLsbD k := by
        rw [List.range_add, List.countP_append, List.countP_map, hlow, hhigh, Nat.add_zero]

theorem lowBits_ofNat_of_lt {a n : Nat} (ha : a < 2 ^ n) : lowBits n (BitVec.ofNat 64 a) = BitVec.ofNat 64 a := by
  have hle : (BitVec.ofNat 64 a).toNat ≤ a := by rw [BitVec.toNat_ofNat]; exact Nat.mod_le _ _
  rw [lowBits, Nat.mod_eq_of_lt (lt_of_le_of_lt hle ha), BitVec.ofNat_toNat, BitVec.setWidth_eq]

/-- The count of the value bits is a value of its format (R126): it is less than two to their number. -/
theorem lowBits_width_bitCount (f : Fmt) (e : Elem) :
    lowBits f.width (BitVec.ofNat 64 (bitCount (valueBits f e).toNat 64)) =
      valueBits f (BitVec.ofNat 64 ((List.range (valueWidth f)).countP fun k => e.getLsbD k)) := by
  rw [valueWidth_eq_vbits, valueBits, bitCount_lowBits (f.vbits_le_width.trans f.width_le), valueBits]
  have hlt : ((List.range f.vbits).countP fun k => e.getLsbD k) < 2 ^ f.vbits :=
    lt_of_le_of_lt (List.countP_le_length.trans (List.length_range).le) Nat.lt_two_pow_self
  rw [lowBits_ofNat_of_lt hlt, lowBits_ofNat_of_lt (lt_of_lt_of_le hlt (Nat.pow_le_pow_right (by decide) f.vbits_le_width))]

/-! ## The shifts (R125) -/

theorem lowBits_ushiftRight {n : Nat} (hn : n ≤ 64) (x : Elem) (k : Nat) :
    lowBits n x >>> k = BitVec.ofNat 64 (x.toNat % 2 ^ n / 2 ^ k) := by
  rw [shr_ofNat, lowBits_toNat hn]

theorem valueBits_wrapInt (f : Fmt) (x : Int) : valueBits f (wrapInt f.width x) = valueBits f (BitVec.ofInt 64 x) := by
  rw [wrapInt_eq_lowBits f.width_le, valueBits_lowBits_width]

theorem signedOf_eq (n : Nat) (x : Elem) :
    signedOf n x = if ((x.toNat % 2 ^ n : Nat) : Int) < 2 ^ (n - 1) then ((x.toNat % 2 ^ n : Nat) : Int) else ((x.toNat % 2 ^ n : Nat) : Int) - 2 ^ n := by
  have hcast : ((x.toNat % 2 ^ n : Nat) : Int) < 2 ^ (n - 1) ↔ x.toNat % 2 ^ n < 2 ^ (n - 1) := by
    rw [← Int.ofNat_lt]; push_cast; rfl
  simp only [signedOf, hcast]
  push_cast
  rfl

/-! ## The shared forms -/

/-- A logic or shift form completes with the value bits of `g`, which the form's own function computes up to bits outside the value. -/
theorem vlogic_done {s : State} {ok : Fmt → Bool} {vd va vb : VReg} (hfits : Fits s.me ([vd, va, vb].map fun r => (r, (cfgFmt s.me.cfg).width)))
    (hok : ok (cfgFmt s.me.cfg) = true) (i : Instr) (mk : MReg) {f : Fmt → Elem → Elem → Elem} {g : Fmt → Nat → Elem → Elem → Elem} (nanIn : Nat → Bool)
    (hfg : ∀ j x y, valueBits (cfgFmt s.me.cfg) (f (cfgFmt s.me.cfg) x y) = valueBits (cfgFmt s.me.cfg) (g (cfgFmt s.me.cfg) j x y)) :
    Elementwise (.next (s.vlogic i ok vd va vb mk f)) s vd mk 0 (cfgFmt s.me.cfg)
      (fun j => (valueBits (cfgFmt s.me.cfg)
        (g (cfgFmt s.me.cfg) j (s.me.elem va.toNat (cfgFmt s.me.cfg).width j) (s.me.elem vb.toNat (cfgFmt s.me.cfg).width j)), 0)) nanIn :=
  elementwise_done hfits hok i vd mk nanIn (fun _ => rfl) fun j => by rw [lowBits_width_valueBits, hfg]

/-- A one-operand form that raises no flag completes with the value bits of `g`, whatever the second operand of `g`. -/
theorem vec1_done {s : State} {ok : Fmt → Bool} {vd va vb : VReg} (hfits : Fits s.me ([vd, va].map fun r => (r, (cfgFmt s.me.cfg).width)))
    (hok : ok (cfgFmt s.me.cfg) = true) (i : Instr) (mk : MReg) {f : Fmt → Env → Elem → Elem × FlagSet}
    {g : Fmt → Nat → Elem → Elem → Elem} (nanIn : Nat → Bool) (hnone : ∀ e x, (f (cfgFmt s.me.cfg) e x).2 = fNone)
    (hfg : ∀ e j x y, lowBits (cfgFmt s.me.cfg).width (f (cfgFmt s.me.cfg) e x).1 = valueBits (cfgFmt s.me.cfg) (g (cfgFmt s.me.cfg) j x y)) :
    Elementwise (.next (s.vec1 i ok vd va mk 0 f)) s vd mk 0 (cfgFmt s.me.cfg)
      (fun j => (valueBits (cfgFmt s.me.cfg)
        (g (cfgFmt s.me.cfg) j (s.me.elem va.toNat (cfgFmt s.me.cfg).width j) (s.me.elem vb.toNat (cfgFmt s.me.cfg).width j)), 0)) nanIn :=
  elementwise_done hfits hok i vd mk nanIn (fun _ => hnone _ _) fun _ => hfg _ _ _ _

/-! ## The words (R125, R126) -/

section

variable (vd va vb : VReg) (mk : MReg) (dt : BitVec 1) (s : State)

theorem exec_vand : exec (.vand vd va vb mk dt) s = .next (s.vlogic (.vand vd va vb mk dt) okAny vd va vb mk fun _ x y => x &&& y) := rfl
theorem exec_vor : exec (.vor vd va vb mk dt) s = .next (s.vlogic (.vor vd va vb mk dt) okAny vd va vb mk fun _ x y => x ||| y) := rfl
theorem exec_vxor : exec (.vxor vd va vb mk dt) s = .next (s.vlogic (.vxor vd va vb mk dt) okAny vd va vb mk fun _ x y => x ^^^ y) := rfl
theorem exec_vshl : exec (.vshl vd va vb mk dt) s = .next (s.vlogic (.vshl vd va vb mk dt) okInt vd va vb mk fun f x y =>
    lowBits f.width (x <<< (y.toNat % f.width))) := rfl
theorem exec_vshr : exec (.vshr vd va vb mk dt) s = .next (s.vlogic (.vshr vd va vb mk dt) okInt vd va vb mk fun f x y =>
    lowBits f.width x >>> (y.toNat % f.width)) := rfl
theorem exec_vsra : exec (.vsra vd va vb mk dt) s = .next (s.vlogic (.vsra vd va vb mk dt) okInt vd va vb mk fun f x y =>
    wrapInt f.width (signedOf f.width x / (2 ^ (y.toNat % f.width) : Nat))) := rfl
theorem exec_vpopc : exec (.vpopc vd va mk dt) s = .next (s.vec1 (.vpopc vd va mk dt) okAny vd va mk 0 fun f _ x =>
    (BitVec.ofNat 64 (bitCount (valueBits f x).toNat 64), fNone)) := rfl
theorem exec_vmv : exec (.vmv vd va mk dt) s = .next (s.vec1 (.vmv vd va mk dt) okAny vd va mk 0 fun f _ x => (valueBits f x, fNone)) := rfl
theorem exec_vid : exec (.vid vd mk dt) s = .next (s.vform (.vid vd mk dt) [(vd, (cfgFmt s.me.cfg).width)] okInt
    (s.setMe (s.me.elementwise vd mk 0 (cfgFmt s.me.cfg).width fun j =>
      ⟨lowBits (cfgFmt s.me.cfg).width (BitVec.ofNat 64 j), fNone, false⟩))) := rfl

end

end Sys2Proof.Machine

namespace Sys2Proof.Proofs

open Sys2Proof.Machine Sys2Proof.Claim

/-- Settles O24: each of the nine forms is one of the shared forms without flags and marks; what is left is that its result and the
statement's agree on the value bits. -/
theorem vectorBits : Obligations.VectorBits := by
  intro s vd va vb mk dt i srcs ints g hmem f hfits hints
  have hany : okAny f = true := rfl
  have hval : ∀ e : Elem, BitVec.ofNat 64 (e.toNat % 2 ^ valueWidth f) = valueBits f e := fun e => by
    rw [valueWidth_eq_vbits, valueBits, lowBits]
  simp only [hval]
  simp only [bitForms, List.mem_cons, Prod.mk.injEq, List.not_mem_nil, or_false] at hmem
  rcases hmem with ⟨rfl, rfl, rfl, hg⟩ | ⟨rfl, rfl, rfl, hg⟩ | ⟨rfl, rfl, rfl, hg⟩ | ⟨rfl, rfl, rfl, hg⟩ | ⟨rfl, rfl, rfl, hg⟩ |
    ⟨rfl, rfl, rfl, hg⟩ | ⟨rfl, rfl, rfl, hg⟩ | ⟨rfl, rfl, rfl, hg⟩ | ⟨rfl, rfl, rfl, hg⟩
  · rw [exec_vand]; exact vlogic_done hfits hany _ mk _ fun _ _ _ => by rw [hg]
  · rw [exec_vor]; exact vlogic_done hfits hany _ mk _ fun _ _ _ => by rw [hg]
  · rw [exec_vxor]; exact vlogic_done hfits hany _ mk _ fun _ _ _ => by rw [hg]
  · rw [exec_vshl]
    refine vlogic_done hfits (okInt_of_mem_intFmts (hints rfl)) _ mk _ fun _ x y => ?_
    rw [hg, valueBits_lowBits_width, shl_ofNat]
  · rw [exec_vshr]
    refine vlogic_done hfits (okInt_of_mem_intFmts (hints rfl)) _ mk _ fun _ x y => ?_
    rw [hg, lowBits_ushiftRight (Fmt.width_le _)]
  · rw [exec_vsra]
    refine vlogic_done hfits (okInt_of_mem_intFmts (hints rfl)) _ mk _ fun _ x y => ?_
    rw [hg, valueBits_wrapInt, signedOf_eq]
    push_cast
    rfl
  · rw [exec_vpopc]
    refine vec1_done hfits hany _ mk _ (fun _ _ => rfl) fun _ _ x _ => ?_
    rw [hg]
    exact lowBits_width_bitCount _ x
  · rw [exec_vmv]
    refine vec1_done hfits hany _ mk _ (fun _ _ => rfl) fun _ _ x _ => ?_
    rw [hg, lowBits_width_valueBits]
  · rw [exec_vid]
    have hint := okInt_of_mem_intFmts (hints rfl)
    refine elementwise_done hfits hint _ vd mk _ (fun _ => rfl) fun j => ?_
    rw [hg, ← valueBits_of_isInt hint]
    exact valueBits_lowBits_width _ _

end Sys2Proof.Proofs

/-! PROOFS. The mask forms (R128, R129): what a mask operation and a scalar result of the vector unit do, said once each, and O27. -/

namespace Sys2Proof.Machine

open Sys2Proof.Claim

/-! ## Mask results (R128) -/

theorem Hart.mput_eq (h : Hart) (d : MReg) (x : MWord) : h.mput d x = { h with m := (h.mput d x).m } := by
  unfold Hart.mput; split <;> rfl

theorem Hart.mget_mput_self (h : Hart) (d : MReg) (x : MWord) : (h.mput d x).mget d = if d = 0 then BitVec.allOnes 256 else x := by
  rw [Hart.mget_mput]
  by_cases hd : d = 0
  · rw [if_neg fun h => h.2 hd, if_pos hd, Hart.mget, if_pos hd]
  · rw [if_pos ⟨rfl, hd⟩, if_neg hd]

/-- A mask operation writes its register and goes on; M0 stays all ones. -/
theorem vmask_done {s : State} (hvelem : s.me.velem.getLsbD 15 = false) (i : Instr) (md : MReg) (x : MWord) :
    ∃ t, (.next (s.vmask i md x) : Host.Outcome State Fault Refusal) = .next t ∧ OnlyMe s t ∧ VectorOn t { s.me with m := t.me.m } ∧
      t.me.mget md = (if md = 0 then BitVec.allOnes 256 else x) ∧ ∀ r, r ≠ md → t.me.mget r = s.me.mget r := by
  have hrun : s.vmask i md x = s.setMe (s.me.mput md x).vnext := State.vform_of_fits (fits_nil hvelem) rfl i _
  refine ⟨_, congrArg _ hrun, onlyMe_setMe _ _, ?_, ?_, fun r hr => ?_⟩
  · rw [State.me_setMe, Hart.vnext_m, ← Hart.mput_eq]
    exact vectorOn_vnext (State.me_setMe _ _)
  · rw [State.me_setMe, Hart.mget_vnext, Hart.mget_mput_self]
  · rw [State.me_setMe, Hart.mget_vnext, Hart.mget_mput, if_neg fun h => hr h.1]

/-! ## Scalar results of the vector unit (R112, R115) -/

/-- The vector unit writes the register, and the words behind it read the new value. -/
theorem Hart.unitPut_eq_fed (h : Hart) (d : SReg) (x : Word) : h.unitPut d x = { fed h d x with s := (h.sput d x).s } := by
  cases hblk : h.blk with
  | none => simpa only [Hart.unitPut, fed, hblk] using Hart.sput_eq h d x
  | some b => simp only [Hart.unitPut, fed, hblk]; rw [Hart.sput_eq h d x]

theorem Hart.sget_unitPut (h : Hart) (d r : SReg) (x : Word) : (h.unitPut d x).sget r = if r = d ∧ r ≠ 0 then x else h.sget r := by
  rw [← Hart.sget_sput, Hart.sget, Hart.unitPut_eq_fed, Hart.sget]

theorem Hart.sget_unitPut_self (h : Hart) (d : SReg) (x : Word) : (h.unitPut d x).sget d = if d = 0 then 0 else x := by
  rw [Hart.sget_unitPut]
  by_cases hd : d = 0
  · rw [if_neg fun h => h.2 hd, if_pos hd, Hart.sget, if_pos hd]
  · rw [if_pos ⟨rfl, hd⟩, if_neg hd]

/-- A word without groups that writes one scalar register completes. -/
theorem vscalar_done {s : State} (hvelem : s.me.velem.getLsbD 15 = false) (i : Instr) (d : SReg) (v : Word) :
    ∃ t, (.next (s.vform i [] okAny (s.vscalar d v)) : Host.Outcome State Fault Refusal) = .next t ∧ OnlyMe s t ∧
      VectorOn t { fed s.me d v with s := t.me.s } ∧ SameScalar s.me t.me d ∧ t.me.sget d = if d = 0 then 0 else v := by
  have hrun : s.vform i [] okAny (s.vscalar d v) = s.setMe (s.me.unitPut d v).vnext := State.vform_of_fits (fits_nil hvelem) rfl i _
  refine ⟨_, congrArg _ hrun, onlyMe_setMe _ _, ?_, fun r hr => ?_, ?_⟩
  · have hs : { fed s.me d v with s := (s.me.unitPut d v).s } = s.me.unitPut d v := by rw [Hart.unitPut_eq_fed]
    rw [State.me_setMe, Hart.vnext_s, hs]
    exact vectorOn_vnext (State.me_setMe _ _)
  · rw [State.me_setMe, Hart.sget_vnext, Hart.sget_unitPut, if_neg fun h => hr.elim (· h.1) h.2]
  · rw [State.me_setMe, Hart.sget_vnext, Hart.sget_unitPut_self]

/-! ## The words (R128, R129) -/

section

variable (md ma mb : MReg) (d : SReg) (s : State)

theorem exec_mand : exec (.mand md ma mb) s = .next (s.vmask (.mand md ma mb) md (s.me.mget ma &&& s.me.mget mb)) := rfl
theorem exec_mor : exec (.mor md ma mb) s = .next (s.vmask (.mor md ma mb) md (s.me.mget ma ||| s.me.mget mb)) := rfl
theorem exec_mxor : exec (.mxor md ma mb) s = .next (s.vmask (.mxor md ma mb) md (s.me.mget ma ^^^ s.me.mget mb)) := rfl
theorem exec_mnot : exec (.mnot md ma) s = .next (s.vmask (.mnot md ma) md (~~~s.me.mget ma)) := rfl
theorem exec_mpopc : exec (.mpopc d ma) s = .next (s.vform (.mpopc d ma) [] okAny
    (s.vscalar d (BitVec.ofNat 64 ((List.range s.me.vl).countP fun j => (s.me.mget ma).getLsbD j)))) := rfl

variable {ma s}

/-- `MFIRST` of a mask with a bit set below VL gives the lowest. -/
theorem exec_mfirst_of_some {j : Nat} (hfind : ((List.range s.me.vl).find? fun i => (s.me.mget ma).getLsbD i) = some j) :
    exec (.mfirst d ma) s = .next (s.vform (.mfirst d ma) [] okAny (s.vscalar d (BitVec.ofNat 64 j))) := by
  show execMfirst d ma s = _
  simp only [execMfirst, hfind]

/-- `MFIRST` of a mask without one gives −1. -/
theorem exec_mfirst_of_none (hfind : ((List.range s.me.vl).find? fun i => (s.me.mget ma).getLsbD i) = none) :
    exec (.mfirst d ma) s = .next (s.vform (.mfirst d ma) [] okAny (s.vscalar d (BitVec.allOnes 64))) := by
  show execMfirst d ma s = _
  simp only [execMfirst, hfind]

end

end Sys2Proof.Machine

namespace Sys2Proof.Proofs

open Sys2Proof.Machine Sys2Proof.Claim

/-- Settles O27: the mask forms by their one shared operation, `MPOPC` and `MFIRST` by the scalar result of a vector word, `MFIRST` by
whether a bit below VL is set. -/
theorem maskForms : Obligations.MaskForms := by
  intro s md ma mb d hvelem
  refine ⟨fun i x hmem => ?_, ?_, ?_⟩
  · simp only [List.mem_cons, Prod.mk.injEq, List.not_mem_nil, or_false] at hmem
    rcases hmem with ⟨rfl, rfl⟩ | ⟨rfl, rfl⟩ | ⟨rfl, rfl⟩ | ⟨rfl, rfl⟩
    · rw [exec_mand]; exact vmask_done hvelem _ md _
    · rw [exec_mor]; exact vmask_done hvelem _ md _
    · rw [exec_mxor]; exact vmask_done hvelem _ md _
    · rw [exec_mnot]; exact vmask_done hvelem _ md _
  · rw [exec_mpopc]; exact vscalar_done hvelem _ d _
  · cases hfind : (List.range s.me.vl).find? fun j => (s.me.mget ma).getLsbD j with
    | none =>
      have hclear : ∀ j, j < s.me.vl → (s.me.mget ma).getLsbD j = false := by simpa using hfind
      rw [exec_mfirst_of_none d hfind]
      obtain ⟨t, hrun, honly, hon, hsame, hd⟩ := vscalar_done hvelem (.mfirst d ma) d (BitVec.allOnes 64)
      refine ⟨t, _, hrun, honly, hon, hsame, hd, fun _ => rfl, fun j hj hset _ => ?_⟩
      exact absurd hset (by simp [hclear j hj])
    | some k =>
      obtain ⟨hset, hk, hlow⟩ := List.find?_range_eq_some.1 hfind
      rw [exec_mfirst_of_some d hfind]
      obtain ⟨t, hrun, honly, hon, hsame, hd⟩ := vscalar_done hvelem (.mfirst d ma) d (BitVec.ofNat 64 k)
      refine ⟨t, _, hrun, honly, hon, hsame, hd, fun hclear => ?_, fun j hj hj' hfirst => ?_⟩
      · exact absurd hset (by simp [hclear k (List.mem_range.1 hk)])
      · have hjk : ¬j < k := fun h => by simpa [hj'] using hlow j h
        have hkj : ¬k < j := fun h => by simp [hfirst k h] at hset
        rw [show j = k by omega]

end Sys2Proof.Proofs
